-- ==== Sys2Proof/Word.lean ====
section
/-! DEFINITION. The words of the machine and the small enumerations that instructions and state share. -/

namespace Sys2Proof

/-- A byte (R3). -/
abbrev Byte := BitVec 8

/-- A word of 32 bits, the width of scalar registers and instruction words (R6, R111). -/
abbrev Word := BitVec 32

/-- A doubleword of 64 bits (R6, R112). -/
abbrev DWord := BitVec 64

/-- The four engines of a core, in ring order A, X, M, B (R14). -/
inductive Engine
  | a | x | m | b
deriving DecidableEq, Repr

/-- The engine after this one on the ring (R14). -/
def Engine.next : Engine → Engine
  | .a => .x
  | .x => .m
  | .m => .b
  | .b => .a

/-- The engine before this one on the ring (R14). -/
def Engine.prev : Engine → Engine
  | .a => .b
  | .x => .a
  | .m => .x
  | .b => .m

/-- The number of an engine in A, X, M, B order, as the fault log and the counters number it (R307, R389). -/
def Engine.idx : Engine → Nat
  | .a => 0
  | .x => 1
  | .m => 2
  | .b => 3

/-- The cue nibble of an instruction word (R46, R47): wait on and signal the previous and the next engine. -/
structure Cue where
  /-- WP, bit 31: pop one token from the previous engine's queue. -/
  wp : Bool
  /-- WN, bit 30: pop one token from the next engine's queue. -/
  wn : Bool
  /-- SP, bit 29: push one token to the previous engine on completion. -/
  sp : Bool
  /-- SN, bit 28: push one token to the next engine on completion. -/
  sn : Bool
deriving DecidableEq, Repr

/-- The nibble with no prefix (R47). -/
def Cue.none : Cue := ⟨false, false, false, false⟩

end Sys2Proof
end

