-- ==== Sys2Proof/Syntax.lean ====
section
/-! DEFINITION. The syntax of the machine: one constructor of Instr for each row of the opcode table, the 190 word
instructions with the fields of their encodings (R46 to R68) and the 107 events with what the event brings. -/

namespace Sys2Proof

/-- Where the launch fetcher takes a record from: a launch ring (R310) or a context's device queue (R329). -/
inductive LaunchSrc
  | ring (q : Nat)
  | device (ctx : Nat)
deriving DecidableEq, Repr

/-- What another member brings to a collective (R303): its descriptor and its input words. -/
structure ColPeer where
  kind : BitVec 2
  op : BitVec 3
  count : Nat
  dg : Bool
  ordered : Bool
  root : Nat
  words : List Word
  /-- Its engine faults for a reason of its own (R304). -/
  fault : Bool
deriving DecidableEq, Repr

/-- What the owners of peer memory bring to a collective of this member: the input bytes that lie with peers, in order, and
the reason of R304 for which an owner refuses an input or output byte, if one does. -/
structure ColFar where
  bytes : List Byte
  refused : Option Nat
  /-- Bits of the output that a soft error in the engine's output path flips before they are written and hashed: word and bit (R439). -/
  flips : List (Nat × Nat)
deriving DecidableEq, Repr

/-- A request for bytes of stacked memory by an agent outside the cores of this module (R235). -/
inductive MemReq
  /-- Read `len` bytes from range offset `off`. -/
  | read (off : Nat) (len : Nat)
  /-- Write bytes from range offset `off`, with the two scales of each sector touched, or none where the scales stay; `copied` for the
  sector of a copy, with true where its source is poisoned (R250, R270). -/
  | write (off : Nat) (bytes : List Byte) (scales : List Byte) (hold : Bool) (copied : Option Bool)
  /-- Write the completion entry of a launch, which carries no agent's identity (R312). -/
  | entry (off : Nat) (bytes : List Byte)
  /-- An `at` with operation `op`, or the compare and swap when `cmp` is given (R246); the page is `scaled` or not (R240). -/
  | atomic (off : Nat) (op : Nat) (cmp : Option Word) (v : Word) (scaled : Bool)
  /-- A return-free reduction (R247); `hold` when it is ordered (R249). -/
  | reduce (off : Nat) (op : Nat) (v : Word) (hold : Bool) (scaled : Bool)
  /-- A semaphore signal (R361). -/
  | signal (num : Nat) (set : Bool) (v : Word)
  /-- A release at `.grp`: only the generations that the access brings (R267). -/
  | release
deriving DecidableEq, Repr

/-- A peer's answer to the oldest outstanding request of the focus core; the number is the offset in the request of the first
byte concerned (R346, R256, R270). -/
inductive RemoteAns
  /-- Performed, with the bytes read and then the two scales of each sector touched (none for a write). -/
  | done (bytes : List Byte)
  /-- Poisoned at the owner (R260). -/
  | poisoned (off : Nat)
  /-- A hold conflict at the owner (R270). -/
  | held (off : Nat)
  /-- Refused for its key (R346). -/
  | keyRefused (off : Nat)
  /-- Refused for protection (R256). -/
  | protRefused (off : Nat)
deriving DecidableEq, Repr

/-- A coding-group configuration of the stage manager (R349). -/
structure GroupCfg where
  n : Nat
  m : Nat
  self : Nat
  mem : List Nat
  dom : List Nat
  us : Option (Nat × Nat)
deriving DecidableEq, Repr

/-- A replica-table entry of the stage manager (R351). -/
structure ReplicaCfg where
  k : Nat
  self : Nat
  mem : List Nat
  cg : Nat
  dkey : BitVec 128
deriving DecidableEq, Repr

/-- A part of a rebuild (R377): a survivor sends its contributions for the lost member that comes next; the understudy writes
an entry of that member; and it adds the contribution of a survivor, named by its member index, to a sector, in symbols. -/
inductive RebuildPart
  | send
  | entry (d : Nat) (paired : Bool) (stall : Bool) (rgn : DWord) (und : DWord) (par : DWord) (units : Nat) (undUnits : Nat)
      (cur : Bool)
  | share (member : Nat) (d : Nat) (parity : Bool) (sector : Nat) (syms : List Byte)
deriving DecidableEq, Repr

/-- An ABORT: the member that sends it and the round (R372). -/
structure AbortMsg where
  member : Nat
  round : Word
deriving DecidableEq, Repr

/-- One sector of a checkpoint: its byte address, its 64 data bytes and its two scales (R407, R408). -/
structure SavedSector where
  addr : Nat
  data : List Byte
  scales : BitVec 16
deriving DecidableEq, Repr

/-- What a checkpoint saves: ranges of a context, and the capabilities of the buffers that it fills, by slot (R407). -/
structure SaveList where
  ranges : List (Nat × Nat)
  bufs : List Nat
deriving DecidableEq, Repr

/-- The act store of a new context: its slots, and the address of their area in device memory (R330). -/
structure StoreArea where
  slots : Nat
  base : Nat
deriving DecidableEq, Repr

/-- The end of a rebuild (R377): on a survivor, with the links that lead to the understudy (R344); on the understudy, which takes CR,
EPOCH and LASTAB as the survivors hold them. -/
inductive Rebuilt
  | survivor (links : List Nat)
  | understudy (cr : Word) (epoch : BitVec 16) (lastab : Bool)
deriving DecidableEq, Repr

/-- What a host read addresses: BAR0, or device memory (R235, R392). -/
inductive HostPlace
  | bar0 (off : Nat)
  | memory (off : Nat)
deriving DecidableEq, Repr

/-- What a host write brings: its bytes, and whether the pages that it reaches are scaled (R240). -/
structure HostData where
  bytes : List Byte
  scaled : Bool
deriving DecidableEq, Repr

/-- A register that has no row of its own and is written from outside (R7, R191, R392). -/
inductive RegTarget
  /-- DBGCTL of the focus core, which only the stage manager writes (R186). -/
  | dbgctl
  /-- The 8 bytes at this offset of BAR0 (R392). -/
  | bar0 (off : Nat)
  /-- The low or high half of a capability of the stage manager, by a capability instruction that sets the tag, or by an ordinary
  write, which clears it (R398). -/
  | cap (slot : Nat) (high : Bool) (tagged : Bool)
  /-- An access of the stage manager's firmware through a capability: `n` bytes from an offset on, a write or a read, in an address
  space (R399). -/
  | capUse (slot : Nat) (write : Bool) (spc : BitVec 2) (off : Nat) (n : Nat)
deriving DecidableEq, Repr

/-- The instructions and events of the machine, one constructor for each row of the opcode table. A word instruction
carries its cue nibble `cu` and the fields of its words; an event carries what it brings from outside the focus core. -/
inductive Instr
  /-- NOP (R130). Does nothing; with a cue prefix it only waits on and signals tokens. -/
  | nop (cu : Cue)
  /-- CUE (R131). Marks cue point n; the engine waits there for the rendezvous of the four engines. -/
  | cue (cu : Cue) (n : BitVec 13)
  /-- BPREP (R134). Loads branch-target register bK with an absolute word address. -/
  | bprep (cu : Cue) (k : BitVec 2) (tgt : BitVec 13)
  /-- BR (R135). Branches through a branch-target register, always or on a condition flag, after two delay slots. -/
  | br (cu : Cue) (t : BitVec 2) (c : BitVec 2) (cnd : BitVec 3)
  /-- BL (R135). Branches as br and writes the return address into a link register. -/
  | bl (cu : Cue) (t : BitVec 2) (c : BitVec 2) (cnd : BitVec 3) (ls : BitVec 5)
  /-- LOOP_IMMEDIATE (R140). Enters a counted hardware loop on a level with an immediate count. -/
  | loopImmediate (cu : Cue) (lvl : BitVec 2) (cnt : BitVec 8) (len : BitVec 10)
  /-- LOOP_REGISTER (R140). Enters a counted hardware loop on a level with the count taken from a scalar register. -/
  | loopRegister (cu : Cue) (lvl : BitVec 2) (s : BitVec 5) (len : BitVec 10)
  /-- LOOPX (R140). Enters a counted hardware loop that also exits early when a condition flag is set. -/
  | loopx (cu : Cue) (lvl : BitVec 2) (e : BitVec 2) (s : BitVec 5) (len : BitVec 10)
  /-- TRAP (R132). Raises the precise TRAP fault with a program-chosen code. -/
  | trap (cu : Cue) (code : BitVec 16)
  /-- TOKW (R290). Pops several tokens from the previous and next engines at its start. -/
  | tokw (cu : Cue) (np : BitVec 4) (nn : BitVec 4)
  /-- TOKS (R291). After every earlier instruction of its engine completes, pushes several tokens to the previous and next engines. -/
  | toks (cu : Cue) (np : BitVec 4) (nn : BitVec 4)
  /-- BRK (R198). Breakpoint: halts the core when DBGCTL.HEN is 1, otherwise raises the handleable BRK fault. -/
  | brk (cu : Cue) (code : BitVec 16)
  /-- CSRR (R193). Reads a control register into a scalar register. -/
  | csrr (cu : Cue) (d : BitVec 5) (num : BitVec 11)
  /-- CSRW (R193). Writes a control register indivisibly and returns its old value. -/
  | csrw (cu : Cue) (d : BitVec 5) (a : BitVec 5) (num : BitVec 11)
  /-- CSRS (R193). Sets bits of a control register indivisibly and returns its old value. -/
  | csrs (cu : Cue) (d : BitVec 5) (a : BitVec 5) (num : BitVec 11)
  /-- CSRC (R193). Clears bits of a control register indivisibly and returns its old value. -/
  | csrc (cu : Cue) (d : BitVec 5) (a : BitVec 5) (num : BitVec 11)
  /-- ADD (R115). Adds two scalar registers modulo 2^32. -/
  | add (cu : Cue) (d : BitVec 5) (a : BitVec 5) (b : BitVec 5)
  /-- SUB (R115). Subtracts two scalar registers modulo 2^32. -/
  | sub (cu : Cue) (d : BitVec 5) (a : BitVec 5) (b : BitVec 5)
  /-- MUL (R115). Writes the low 32 bits of the product of two scalar registers. -/
  | mul (cu : Cue) (d : BitVec 5) (a : BitVec 5) (b : BitVec 5)
  /-- MULH (R115). Writes the high 32 bits of the signed product. -/
  | mulh (cu : Cue) (d : BitVec 5) (a : BitVec 5) (b : BitVec 5)
  /-- MULHN (R115). Writes the high 32 bits of the unsigned product. -/
  | mulhn (cu : Cue) (d : BitVec 5) (a : BitVec 5) (b : BitVec 5)
  /-- AND (R115). Bitwise and of two scalar registers. -/
  | and (cu : Cue) (d : BitVec 5) (a : BitVec 5) (b : BitVec 5)
  /-- OR (R115). Bitwise or of two scalar registers. -/
  | or (cu : Cue) (d : BitVec 5) (a : BitVec 5) (b : BitVec 5)
  /-- XOR (R115). Bitwise exclusive or of two scalar registers. -/
  | xor (cu : Cue) (d : BitVec 5) (a : BitVec 5) (b : BitVec 5)
  /-- ANDN (R115). Bitwise and of the first register with the complement of the second. -/
  | andn (cu : Cue) (d : BitVec 5) (a : BitVec 5) (b : BitVec 5)
  /-- SHL (R115). Shifts left by a register amount, giving 0 for amounts of 32 or more. -/
  | shl (cu : Cue) (d : BitVec 5) (a : BitVec 5) (b : BitVec 5)
  /-- SHR (R115). Shifts right logically by a register amount. -/
  | shr (cu : Cue) (d : BitVec 5) (a : BitVec 5) (b : BitVec 5)
  /-- SRA (R115). Shifts right arithmetically by a register amount. -/
  | sra (cu : Cue) (d : BitVec 5) (a : BitVec 5) (b : BitVec 5)
  /-- MIN_I (R115). Signed minimum of two scalar registers. -/
  | minI (cu : Cue) (d : BitVec 5) (a : BitVec 5) (b : BitVec 5)
  /-- MAX_I (R115). Signed maximum of two scalar registers. -/
  | maxI (cu : Cue) (d : BitVec 5) (a : BitVec 5) (b : BitVec 5)
  /-- MIN_N (R115). Unsigned minimum of two scalar registers. -/
  | minN (cu : Cue) (d : BitVec 5) (a : BitVec 5) (b : BitVec 5)
  /-- MAX_N (R115). Unsigned maximum of two scalar registers. -/
  | maxN (cu : Cue) (d : BitVec 5) (a : BitVec 5) (b : BitVec 5)
  /-- CMP_EQ (R115). Sets a condition flag when two scalar registers are equal. -/
  | cmpEq (cu : Cue) (d : BitVec 5) (a : BitVec 5) (b : BitVec 5)
  /-- CMP_NE (R115). Sets a condition flag when two scalar registers differ. -/
  | cmpNe (cu : Cue) (d : BitVec 5) (a : BitVec 5) (b : BitVec 5)
  /-- CMP_LT_I (R115). Sets a condition flag on signed less-than. -/
  | cmpLtI (cu : Cue) (d : BitVec 5) (a : BitVec 5) (b : BitVec 5)
  /-- CMP_GE_I (R115). Sets a condition flag on signed greater-or-equal. -/
  | cmpGeI (cu : Cue) (d : BitVec 5) (a : BitVec 5) (b : BitVec 5)
  /-- CMP_LT_N (R115). Sets a condition flag on unsigned less-than. -/
  | cmpLtN (cu : Cue) (d : BitVec 5) (a : BitVec 5) (b : BitVec 5)
  /-- CMP_GE_N (R115). Sets a condition flag on unsigned greater-or-equal. -/
  | cmpGeN (cu : Cue) (d : BitVec 5) (a : BitVec 5) (b : BitVec 5)
  /-- MOV (R116). Copies a scalar register. -/
  | mov (cu : Cue) (d : BitVec 5) (a : BitVec 5)
  /-- POPC (R116). Counts the ones in a scalar register. -/
  | popc (cu : Cue) (d : BitVec 5) (a : BitVec 5)
  /-- CLZ (R116). Counts leading zeros of a scalar register. -/
  | clz (cu : Cue) (d : BitVec 5) (a : BitVec 5)
  /-- CTZ (R116). Counts trailing zeros of a scalar register. -/
  | ctz (cu : Cue) (d : BitVec 5) (a : BitVec 5)
  /-- SEL (R116). Selects one of two scalar registers by a condition flag named in fn. -/
  | sel (cu : Cue) (d : BitVec 5) (a : BitVec 5) (b : BitVec 5) (c : BitVec 2)
  /-- BEXT (R116). Extracts a bit field described by a descriptor register. -/
  | bext (cu : Cue) (d : BitVec 5) (a : BitVec 5) (b : BitVec 5)
  /-- BINS (R116). Inserts a bit field into the destination register. -/
  | bins (cu : Cue) (d : BitVec 5) (a : BitVec 5) (b : BitVec 5)
  /-- DIV_I (R118). Signed integer division with exposed latency. -/
  | divI (cu : Cue) (d : BitVec 5) (a : BitVec 5) (b : BitVec 5)
  /-- DIV_N (R118). Unsigned integer division with exposed latency. -/
  | divN (cu : Cue) (d : BitVec 5) (a : BitVec 5) (b : BitVec 5)
  /-- REM_I (R118). Signed integer remainder with exposed latency. -/
  | remI (cu : Cue) (d : BitVec 5) (a : BitVec 5) (b : BitVec 5)
  /-- REM_N (R118). Unsigned integer remainder with exposed latency. -/
  | remN (cu : Cue) (d : BitVec 5) (a : BitVec 5) (b : BitVec 5)
  /-- ADDI (R117). Adds a sign-extended 11-bit immediate to a scalar register. -/
  | addi (cu : Cue) (d : BitVec 5) (a : BitVec 5) (imm : BitVec 11)
  /-- SHLI (R117). Shifts left by an immediate amount. -/
  | shli (cu : Cue) (d : BitVec 5) (a : BitVec 5) (n : BitVec 5)
  /-- SHRI (R117). Shifts right logically by an immediate amount. -/
  | shri (cu : Cue) (d : BitVec 5) (a : BitVec 5) (n : BitVec 5)
  /-- SRAI (R117). Shifts right arithmetically by an immediate amount. -/
  | srai (cu : Cue) (d : BitVec 5) (a : BitVec 5) (n : BitVec 5)
  /-- LI (R117). Writes a 32-bit immediate carried across two words into a scalar register. -/
  | li (cu : Cue) (d : BitVec 5) (imm : BitVec 32)
  /-- CTR_RD (R389). Reads one counter, or its high half, into a scalar register. -/
  | ctrRd (cu : Cue) (d : BitVec 5) (idx : BitVec 5) (hi : Bool) (fn : BitVec 6)
  /-- FADD (R119). FP32 addition rounded once. -/
  | fadd (cu : Cue) (d : BitVec 5) (a : BitVec 5) (b : BitVec 5) (rnd : BitVec 2)
  /-- FSUB (R119). FP32 subtraction rounded once. -/
  | fsub (cu : Cue) (d : BitVec 5) (a : BitVec 5) (b : BitVec 5) (rnd : BitVec 2)
  /-- FMUL (R119). FP32 multiplication rounded once. -/
  | fmul (cu : Cue) (d : BitVec 5) (a : BitVec 5) (b : BitVec 5) (rnd : BitVec 2)
  /-- FMIN (R119). FP32 minimum with -0 below +0 and NaN ignored. -/
  | fmin (cu : Cue) (d : BitVec 5) (a : BitVec 5) (b : BitVec 5)
  /-- FMAX (R119). FP32 maximum with -0 below +0 and NaN ignored. -/
  | fmax (cu : Cue) (d : BitVec 5) (a : BitVec 5) (b : BitVec 5)
  /-- FCMP_EQ (R119). Sets a condition flag when two FP32 values are equal. -/
  | fcmpEq (cu : Cue) (d : BitVec 5) (a : BitVec 5) (b : BitVec 5)
  /-- FCMP_LT (R119). Sets a condition flag on FP32 less-than. -/
  | fcmpLt (cu : Cue) (d : BitVec 5) (a : BitVec 5) (b : BitVec 5)
  /-- FCMP_LE (R119). Sets a condition flag on FP32 less-or-equal. -/
  | fcmpLe (cu : Cue) (d : BitVec 5) (a : BitVec 5) (b : BitVec 5)
  /-- FCMP_UN (R119). Sets a condition flag when either FP32 operand is NaN. -/
  | fcmpUn (cu : Cue) (d : BitVec 5) (a : BitVec 5) (b : BitVec 5)
  /-- FSGN (R119). Magnitude of the first operand with the sign of the second. -/
  | fsgn (cu : Cue) (d : BitVec 5) (a : BitVec 5) (b : BitVec 5)
  /-- FSGN_N (R119). Magnitude of the first operand with the opposite sign of the second. -/
  | fsgnN (cu : Cue) (d : BitVec 5) (a : BitVec 5) (b : BitVec 5)
  /-- FSGN_X (R119). Magnitude of the first operand with the xor of both signs. -/
  | fsgnX (cu : Cue) (d : BitVec 5) (a : BitVec 5) (b : BitVec 5)
  /-- FCVT_I32_F32 (R120). Converts FP32 to i32 with clamping. -/
  | fcvtI32F32 (cu : Cue) (d : BitVec 5) (a : BitVec 5) (rnd : BitVec 2)
  /-- FCVT_N32_F32 (R120). Converts FP32 to n32 with clamping. -/
  | fcvtN32F32 (cu : Cue) (d : BitVec 5) (a : BitVec 5) (rnd : BitVec 2)
  /-- FCVT_F32_I32 (R120). Converts i32 to FP32. -/
  | fcvtF32I32 (cu : Cue) (d : BitVec 5) (a : BitVec 5) (rnd : BitVec 2)
  /-- FCVT_F32_N32 (R120). Converts n32 to FP32. -/
  | fcvtF32N32 (cu : Cue) (d : BitVec 5) (a : BitVec 5) (rnd : BitVec 2)
  /-- FMA (R121). Fused multiply-add of three FP32 scalar registers rounded once. -/
  | fma (cu : Cue) (d : BitVec 5) (a : BitVec 5) (b : BitVec 5) (r : BitVec 2) (e : BitVec 5)
  /-- FDIV (R122). FP32 division with exposed latency. -/
  | fdiv (cu : Cue) (d : BitVec 5) (a : BitVec 5) (b : BitVec 5) (rnd : BitVec 2)
  /-- FSQRT (R122). FP32 square root with exposed latency. -/
  | fsqrt (cu : Cue) (d : BitVec 5) (a : BitVec 5) (rnd : BitVec 2)
  /-- FSQRT_CK (R123). FP32 square root that also sets a flag when the operand is not positive. -/
  | fsqrtCk (cu : Cue) (d : BitVec 5) (a : BitVec 5) (rnd : BitVec 2) (c : BitVec 2)
  /-- FRSQ (R122). FP32 reciprocal square root with exposed latency. -/
  | frsq (cu : Cue) (d : BitVec 5) (a : BitVec 5) (rnd : BitVec 2)
  /-- AADD (R129). Adds a sign-extended scalar register to an address register modulo 2^64. -/
  | aadd (cu : Cue) (d : BitVec 5) (a : BitVec 5) (b : BitVec 5)
  /-- AADDI (R129). Adds a sign-extended immediate to an address register. -/
  | aaddi (cu : Cue) (d : BitVec 5) (a : BitVec 5) (imm : BitVec 11)
  /-- ASET (R129). Builds an address register from two scalar halves. -/
  | aset (cu : Cue) (d : BitVec 5) (a : BitVec 5) (b : BitVec 5)
  /-- AGET_LO (R129). Copies the low half of an address register into a scalar register. -/
  | agetLo (cu : Cue) (d : BitVec 5) (a : BitVec 5)
  /-- AGET_HI (R129). Copies the high half of an address register into a scalar register. -/
  | agetHi (cu : Cue) (d : BitVec 5) (a : BitVec 5)
  /-- VADD (R156). Element-wise vector addition. -/
  | vadd (cu : Cue) (d : BitVec 5) (a : BitVec 5) (b : BitVec 5) (t : BitVec 3) (p : BitVec 3)
  /-- VSUB (R156). Element-wise vector subtraction. -/
  | vsub (cu : Cue) (d : BitVec 5) (a : BitVec 5) (b : BitVec 5) (t : BitVec 3) (p : BitVec 3)
  /-- VMUL (R156). Element-wise vector multiplication. -/
  | vmul (cu : Cue) (d : BitVec 5) (a : BitVec 5) (b : BitVec 5) (t : BitVec 3) (p : BitVec 3)
  /-- VFMA (R156). Element-wise fused multiply-add into the destination. -/
  | vfma (cu : Cue) (d : BitVec 5) (a : BitVec 5) (b : BitVec 5) (t : BitVec 3) (p : BitVec 3)
  /-- VMIN (R156). Element-wise vector minimum. -/
  | vmin (cu : Cue) (d : BitVec 5) (a : BitVec 5) (b : BitVec 5) (t : BitVec 3) (p : BitVec 3)
  /-- VMAX (R156). Element-wise vector maximum. -/
  | vmax (cu : Cue) (d : BitVec 5) (a : BitVec 5) (b : BitVec 5) (t : BitVec 3) (p : BitVec 3)
  /-- VABS (R157). Element-wise absolute value. -/
  | vabs (cu : Cue) (d : BitVec 5) (a : BitVec 5) (t : BitVec 3) (p : BitVec 3)
  /-- VNEG (R157). Element-wise negation. -/
  | vneg (cu : Cue) (d : BitVec 5) (a : BitVec 5) (t : BitVec 3) (p : BitVec 3)
  /-- VMOV (R157). Copies a vector bit for bit, including its sidecar. -/
  | vmov (cu : Cue) (d : BitVec 5) (a : BitVec 5) (t : BitVec 3) (p : BitVec 3)
  /-- VEXP2 (R157). Element-wise base-2 exponential. -/
  | vexp2 (cu : Cue) (d : BitVec 5) (a : BitVec 5) (t : BitVec 3) (p : BitVec 3)
  /-- VLOG2 (R157). Element-wise base-2 logarithm. -/
  | vlog2 (cu : Cue) (d : BitVec 5) (a : BitVec 5) (t : BitVec 3) (p : BitVec 3)
  /-- VRCP (R157). Element-wise reciprocal. -/
  | vrcp (cu : Cue) (d : BitVec 5) (a : BitVec 5) (t : BitVec 3) (p : BitVec 3)
  /-- VRSQ (R157). Element-wise reciprocal square root. -/
  | vrsq (cu : Cue) (d : BitVec 5) (a : BitVec 5) (t : BitVec 3) (p : BitVec 3)
  /-- VSIG (R157). Element-wise logistic function. -/
  | vsig (cu : Cue) (d : BitVec 5) (a : BitVec 5) (t : BitVec 3) (p : BitVec 3)
  /-- VLOGIC (R158). Bitwise vector logic by a 4-bit lookup table. -/
  | vlogic (cu : Cue) (d : BitVec 5) (a : BitVec 5) (b : BitVec 5) (t : BitVec 3) (p : BitVec 3) (lut : BitVec 4)
  /-- VSHL (R158). Element-wise left shift. -/
  | vshl (cu : Cue) (d : BitVec 5) (a : BitVec 5) (b : BitVec 5) (t : BitVec 3) (p : BitVec 3)
  /-- VSHR (R158). Element-wise logical right shift. -/
  | vshr (cu : Cue) (d : BitVec 5) (a : BitVec 5) (b : BitVec 5) (t : BitVec 3) (p : BitVec 3)
  /-- VSRA (R158). Element-wise arithmetic right shift. -/
  | vsra (cu : Cue) (d : BitVec 5) (a : BitVec 5) (b : BitVec 5) (t : BitVec 3) (p : BitVec 3)
  /-- VCMP (R159). Compares two vectors element-wise into a predicate. -/
  | vcmp (cu : Cue) (d : BitVec 5) (a : BitVec 5) (b : BitVec 5) (t : BitVec 3) (p : BitVec 3) (cond : BitVec 3)
  /-- VSEL (R160). Selects elements from two vectors by a predicate. -/
  | vsel (cu : Cue) (d : BitVec 5) (a : BitVec 5) (b : BitVec 5) (t : BitVec 3) (p : BitVec 3)
  /-- VSPLAT (R161). Writes a scalar into every enabled element. -/
  | vsplat (cu : Cue) (d : BitVec 5) (a : BitVec 5) (t : BitVec 3) (p : BitVec 3)
  /-- VEXT (R162). Extracts one vector element into a scalar register. -/
  | vext (cu : Cue) (d : BitVec 5) (a : BitVec 5) (t : BitVec 3) (imm : BitVec 11) (r : Bool) (k : BitVec 5)
  /-- VINS (R162). Inserts a scalar into one vector element. -/
  | vins (cu : Cue) (d : BitVec 5) (a : BitVec 5) (t : BitVec 3) (imm : BitVec 11) (r : Bool) (k : BitVec 5)
  /-- VIOTA (R161). Writes an arithmetic sequence into the enabled elements. -/
  | viota (cu : Cue) (d : BitVec 5) (a : BitVec 5) (b : BitVec 5) (t : BitVec 3) (p : BitVec 3)
  /-- VPERM (R163). Permutes vector elements by an index vector. -/
  | vperm (cu : Cue) (d : BitVec 5) (a : BitVec 5) (b : BitVec 5) (t : BitVec 3) (p : BitVec 3)
  /-- VSHUF (R164). Interleaves, de-interleaves or reverses elements by a fixed pattern. -/
  | vshuf (cu : Cue) (d : BitVec 5) (a : BitVec 5) (b : BitVec 5) (t : BitVec 3) (p : BitVec 3) (pat : BitVec 3)
  /-- VSLIDE (R165). Slides elements up or down across the concatenation of two vectors. -/
  | vslide (cu : Cue) (d : BitVec 5) (a : BitVec 5) (b : BitVec 5) (t : BitVec 3) (p : BitVec 3) (imm : BitVec 11) (r : Bool) (k : BitVec 5) (up : Bool)
  /-- VCVT (R167). Converts vector elements between formats, optionally deriving block scales. -/
  | vcvt (cu : Cue) (d : BitVec 5) (a : BitVec 5) (t : BitVec 3) (p : BitVec 3) (fs : BitVec 4) (fd : BitVec 4) (rnd : BitVec 2) (ds : Bool)
  /-- VWIDEN (R167). Converts elements to a wider format into a register group. -/
  | vwiden (cu : Cue) (d : BitVec 5) (a : BitVec 5) (p : BitVec 3) (fs : BitVec 4) (fd : BitVec 4) (rnd : BitVec 2)
  /-- VNARROW (R167). Converts a register group to a narrower format. -/
  | vnarrow (cu : Cue) (d : BitVec 5) (a : BitVec 5) (p : BitVec 3) (fs : BitVec 4) (fd : BitVec 4) (rnd : BitVec 2) (ds : Bool)
  /-- VSCL (R169). Adds to or sets the sidecar scales of a scaled format. -/
  | vscl (cu : Cue) (d : BitVec 5) (a : BitVec 5) (b : BitVec 5) (fmt : BitVec 4) (setm : Bool)
  /-- VSCLD (R170). Moves a sidecar into data bytes or data bytes into a sidecar. -/
  | vscld (cu : Cue) (d : BitVec 5) (a : BitVec 5) (b : BitVec 5) (setm : Bool)
  /-- VREDSUM (R171). Sums the enabled elements in ordered or unordered form. -/
  | vredsum (cu : Cue) (d : BitVec 5) (a : BitVec 5) (t : BitVec 3) (p : BitVec 3) (rnd : BitVec 2) (o : Bool)
  /-- VREDMAX (R171). Reduces the enabled elements to their maximum. -/
  | vredmax (cu : Cue) (d : BitVec 5) (a : BitVec 5) (t : BitVec 3) (p : BitVec 3)
  /-- VREDMIN (R171). Reduces the enabled elements to their minimum. -/
  | vredmin (cu : Cue) (d : BitVec 5) (a : BitVec 5) (t : BitVec 3) (p : BitVec 3)
  /-- VDOT (R172). Computes grouped dot products of two vectors. -/
  | vdot (cu : Cue) (d : BitVec 5) (a : BitVec 5) (b : BitVec 5) (p : BitVec 3) (fs : BitVec 4) (lg : BitVec 4) (rnd : BitVec 2) (o : Bool)
  /-- VSORTKV (R173). Stably sorts 128 key-value pairs. -/
  | vsortkv (cu : Cue) (d : BitVec 5) (a : BitVec 5) (b : BitVec 5) (t : BitVec 3) (p : BitVec 3) (desc : Bool) (uns : Bool)
  /-- VSEGSUM (R174). Sums runs of equal keys at the head of each run. -/
  | vsegsum (cu : Cue) (d : BitVec 5) (a : BitVec 5) (b : BitVec 5) (t : BitVec 3) (p : BitVec 3) (rnd : BitVec 2) (o : Bool)
  /-- VCMPRS (R166). Compresses the enabled elements to the front. -/
  | vcmprs (cu : Cue) (d : BitVec 5) (a : BitVec 5) (t : BitVec 3) (p : BitVec 3)
  /-- SMX_STEP (R175). Advances an online base-2 softmax state and writes probabilities. -/
  | smxStep (cu : Cue) (d : BitVec 5) (a : BitVec 5) (b : BitVec 5) (p : BitVec 3) (lg : BitVec 3) (init : Bool) (bf : Bool)
  /-- SMX_FIN (R176). Divides by the running sum or scales by the correction of a softmax group. -/
  | smxFin (cu : Cue) (d : BitVec 5) (a : BitVec 5) (b : BitVec 5) (p : BitVec 3) (j : BitVec 5) (scl : Bool)
  /-- PLOGIC (R177). Combines two predicates bit by bit through a lookup table. -/
  | plogic (cu : Cue) (d : BitVec 5) (a : BitVec 5) (b : BitVec 5) (p : BitVec 3) (lut : BitVec 4)
  /-- PANY (R178). Sets a flag when any governed predicate bit is set. -/
  | pany (cu : Cue) (d : BitVec 5) (a : BitVec 5) (t : BitVec 3) (p : BitVec 3)
  /-- PALL (R178). Sets a flag when every governed predicate bit is set. -/
  | pall (cu : Cue) (d : BitVec 5) (a : BitVec 5) (t : BitVec 3) (p : BitVec 3)
  /-- PCNT (R178). Counts the governed set bits of a predicate. -/
  | pcnt (cu : Cue) (d : BitVec 5) (a : BitVec 5) (t : BitVec 3) (p : BitVec 3)
  /-- PFIRST (R178). Finds the lowest governed set bit of a predicate. -/
  | pfirst (cu : Cue) (d : BitVec 5) (a : BitVec 5) (t : BitVec 3) (p : BitVec 3)
  /-- PSETN (R179). Sets the first n governed predicate bits. -/
  | psetn (cu : Cue) (d : BitVec 5) (a : BitVec 5) (t : BitVec 3) (p : BitVec 3)
  /-- SP_STAT (R207). Converts weights into macros and marks them stationary in a group. -/
  | spStat (cu : Cue) (d : BitVec 5) (a : BitVec 5) (b : BitVec 5) (m0 : BitVec 6) (mc : BitVec 7) (fs : BitVec 4) (fb : BitVec 4) (scl : Bool) (alm : Bool)
  /-- SP_PLAIN (R209). Returns macros or a whole group to plain storage. -/
  | spPlain (cu : Cue) (d : BitVec 5) (m0 : BitVec 6) (mc : BitVec 7) (g : Bool)
  /-- MM_FEED (R212). Decodes A vectors from scratchpad or a load queue into the row buffer. -/
  | mmFeed (cu : Cue) (d : BitVec 5) (a : BitVec 5) (b : BitVec 5) (fs : BitVec 4) (as : Bool) (alm : Bool) (w : BitVec 3) (n : BitVec 3)
  /-- MM_PASS (R215). Broadcasts fed A vectors through a stationary group into accumulator tiles. -/
  | mmPass (cu : Cue) (d : BitVec 5) (a : BitVec 5) (kd : BitVec 3) (w : BitVec 3) (nv : BitVec 5) (row0 : BitVec 5) (f : Bool)
  /-- MM_TILE (R217). Zeroes tiles and sets the tile-start marker of the command window. -/
  | mmTile (cu : Cue) (d : BitVec 5) (n : BitVec 3)
  /-- MM_ZERO (R183). Sets one accumulator tile to +0 and clears its status. -/
  | mmZero (cu : Cue) (d : BitVec 5)
  /-- MM_DRAIN (R220). Converts accumulator rows into scratchpad or into lq3. -/
  | mmDrain (cu : Cue) (d : BitVec 5) (a : BitVec 5) (b : BitVec 5) (tile : BitVec 3) (fd : BitVec 4) (rnd : BitVec 2) (ds : Bool) (alm : Bool) (row0 : BitVec 5) (nr : BitVec 5)
  /-- MM_RD (R184). Reads one tile element into an M scalar register. -/
  | mmRd (cu : Cue) (d : BitVec 5) (a : BitVec 5) (b : BitVec 5) (tile : BitVec 3) (row : BitVec 5) (col : BitVec 8) (i : Bool)
  /-- LD_SP (R221). Loads 512 scratchpad bytes into a load queue. -/
  | ldSp (cu : Cue) (q : BitVec 5) (base : BitVec 5) (off : BitVec 9)
  /-- ST_SP (R221). Stores one sq3 entry into the scratchpad. -/
  | stSp (cu : Cue) (base : BitVec 5) (off : BitVec 9)
  /-- BK_ADD (R224). Bank vector addition. -/
  | bkAdd (cu : Cue) (d : BitVec 5) (a : BitVec 5) (b : BitVec 5) (nb : BitVec 6) (ft : BitVec 4) (len : BitVec 11) (rnd : BitVec 2)
  /-- BK_MUL (R224). Bank vector multiplication. -/
  | bkMul (cu : Cue) (d : BitVec 5) (a : BitVec 5) (b : BitVec 5) (nb : BitVec 6) (ft : BitVec 4) (len : BitVec 11) (rnd : BitVec 2)
  /-- BK_FMA (R224). Bank vector fused multiply-add into the destination. -/
  | bkFma (cu : Cue) (d : BitVec 5) (a : BitVec 5) (b : BitVec 5) (nb : BitVec 6) (ft : BitVec 4) (len : BitVec 11) (rnd : BitVec 2)
  /-- BK_MAX (R224). Bank vector maximum. -/
  | bkMax (cu : Cue) (d : BitVec 5) (a : BitVec 5) (b : BitVec 5) (nb : BitVec 6) (ft : BitVec 4) (len : BitVec 11)
  /-- BK_MIN (R224). Bank vector minimum. -/
  | bkMin (cu : Cue) (d : BitVec 5) (a : BitVec 5) (b : BitVec 5) (nb : BitVec 6) (ft : BitVec 4) (len : BitVec 11)
  /-- BK_SCALE (R224). Bank vector scaling by a scalar. -/
  | bkScale (cu : Cue) (d : BitVec 5) (a : BitVec 5) (nb : BitVec 6) (ft : BitVec 4) (len : BitVec 11) (rnd : BitVec 2) (k : BitVec 5)
  /-- BK_EXPSUM (R224). Bank base-2 exponentials with accumulation of their sum. -/
  | bkExpsum (cu : Cue) (d : BitVec 5) (a : BitVec 5) (b : BitVec 5) (nb : BitVec 6) (ft : BitVec 4) (len : BitVec 11) (rnd : BitVec 2) (k : BitVec 5) (o : Bool)
  /-- BK_RED (R224). Reduces a bank range to one 32-bit result. -/
  | bkRed (cu : Cue) (d : BitVec 5) (a : BitVec 5) (nb : BitVec 6) (ft : BitVec 4) (len : BitVec 11) (rnd : BitVec 2) (op : BitVec 2) (acc : Bool) (o : Bool)
  /-- BK_CVT (R224). Converts bank elements between formats. -/
  | bkCvt (cu : Cue) (d : BitVec 5) (a : BitVec 5) (nb : BitVec 6) (ft : BitVec 4) (len : BitVec 11) (rnd : BitVec 2) (fs : BitVec 4)
  /-- BK_FILL (R224). Fills bank elements with a scalar value. -/
  | bkFill (cu : Cue) (d : BitVec 5) (nb : BitVec 6) (ft : BitVec 4) (len : BitVec 11) (k : BitVec 5)
  /-- BK_COPY (R224). Copies scratchpad bytes forward in 32-byte chunks. -/
  | bkCopy (cu : Cue) (d : BitVec 5) (a : BitVec 5) (len : BitVec 11)
  /-- CURT_PREP (R370). Releases at .chip and starts phase one of the open round, returning a status. -/
  | curtPrep (cu : Cue) (d : BitVec 5) (g : BitVec 4)
  /-- CURT_WAIT (R370). Waits for, or tests, the end of the member's round and returns CR or the state word. -/
  | curtWait (cu : Cue) (d : BitVec 5) (st : Bool) (tst : Bool) (g : BitVec 4)
  /-- DIG_RD (R384). Reads a collective's digest word or outcome, optionally waiting for resolution. -/
  | digRd (cu : Cue) (d : BitVec 5) (a : BitVec 5) (wt : Bool) (out : Bool) (w : BitVec 2)
  /-- LD (R242). Loads 512 bytes of global memory into a load queue. -/
  | ld (cu : Cue) (q : BitVec 5) (base : BitVec 5) (hint : BitVec 2) (off : BitVec 9)
  /-- LDS (R242). Loads 512 bytes with their sector scales into a load queue. -/
  | lds (cu : Cue) (q : BitVec 5) (base : BitVec 5) (hint : BitVec 2) (off : BitVec 9)
  /-- ST (R242). Stores one store-queue entry to global memory. -/
  | st (cu : Cue) (q : BitVec 5) (base : BitVec 5) (off : BitVec 9)
  /-- STS (R242). Stores one store-queue entry with its scales to global memory. -/
  | sts (cu : Cue) (q : BitVec 5) (base : BitVec 5) (f4 : BitVec 2) (off : BitVec 9)
  /-- GATHER (R243). Loads up to 128 indexed elements into a load queue. -/
  | gather (cu : Cue) (q : BitVec 5) (base : BitVec 5) (hint : BitVec 2) (off : BitVec 9) (idx : BitVec 5) (es : BitVec 2) (sh : BitVec 5)
  /-- SCATTER (R243). Stores up to 128 elements to indexed addresses. -/
  | scatter (cu : Cue) (q : BitVec 5) (base : BitVec 5) (off : BitVec 9) (idx : BitVec 5) (es : BitVec 2) (sh : BitVec 5) (o : Bool)
  /-- PF (R244). Prefetches sectors into the core's L1. -/
  | pf (cu : Cue) (q : BitVec 5) (base : BitVec 5) (hint : BitVec 2) (off : BitVec 9)
  /-- CPY (R250). Queues a linear copy on a copy channel. -/
  | cpy (cu : Cue) (q : BitVec 5) (base : BitVec 5) (off : BitVec 9) (dst : BitVec 4) (len : BitVec 5)
  /-- CPY2D (R250). Queues a two-dimensional copy on a copy channel. -/
  | cpy2d (cu : Cue) (q : BitVec 5) (base : BitVec 5) (off : BitVec 9) (dst : BitVec 4) (len : BitVec 5) (rows : BitVec 5) (ss : BitVec 5) (ds : BitVec 5)
  /-- AT (R246). Returning atomic read-modify-write of one word. -/
  | atOp (cu : Cue) (q : BitVec 5) (base : BitVec 5) (off : BitVec 9) (v : BitVec 5) (op : BitVec 3) (sc : BitVec 3)
  /-- CAS (R246). Returning compare-and-swap of one word. -/
  | cas (cu : Cue) (q : BitVec 5) (base : BitVec 5) (off : BitVec 9) (cr : BitVec 5) (n : BitVec 5) (sc : BitVec 3)
  /-- RED (R247). Return-free reduction of one word, one entry or indexed words. -/
  | red (cu : Cue) (q : BitVec 5) (base : BitVec 5) (off : BitVec 9) (idx : BitVec 5) (op : BitVec 3) (v : Bool) (ix : Bool) (sh : BitVec 5) (sc : BitVec 3) (o : Bool)
  /-- PROT_SET (R254). Creates a protected region and zero-fills it and its parity area. -/
  | protSet (cu : Cue) (d : BitVec 5) (a : BitVec 5) (b : BitVec 5) (grp : BitVec 4) (pb : BitVec 4) (sr : BitVec 5) (ur : BitVec 5) (paired : Bool) (stall : Bool)
  /-- PROT_CLR (R255). Frees a protected-region entry. -/
  | protClr (cu : Cue) (d : BitVec 5)
  /-- FENCE_ACQ (R274). Acquire fence at a scope. -/
  | fenceAcq (cu : Cue) (sc : BitVec 3)
  /-- FENCE_REL (R274). Release fence at a scope. -/
  | fenceRel (cu : Cue) (sc : BitVec 3)
  /-- FENCE_AR (R274). Acquire and release fence at a scope. -/
  | fenceAr (cu : Cue) (sc : BitVec 3)
  /-- DRAIN (R278). Stops the engine until everything the act has started has finished. -/
  | drain (cu : Cue)
  /-- LDACQ (R275). Loads one sector indivisibly and acts as an acquire at a scope. -/
  | ldacq (cu : Cue) (sc : BitVec 3) (q : BitVec 2) (base : BitVec 5) (hint : BitVec 2) (off : BitVec 9)
  /-- STREL (R276). Releases at a scope and then stores one sector indivisibly without a hold. -/
  | strel (cu : Cue) (sc : BitVec 3) (q : BitVec 2) (base : BitVec 5) (off : BitVec 9)
  /-- LQSKIP (R296). Discards load-queue entries without reading them. -/
  | lqskip (cu : Cue) (d : BitVec 5) (n : BitVec 2)
  /-- COL_START (R302). Releases at .chip and queues a collective descriptor, returning its id. -/
  | colStart (cu : Cue) (d : BitVec 5) (a : BitVec 5) (b : BitVec 5) (n : BitVec 5) (kind : BitVec 2) (op : BitVec 3) (set : BitVec 4) (dg : Bool) (root : BitVec 6) (o : Bool)
  /-- COL_WAIT (R305). Waits for, or tests, a collective's status. -/
  | colWait (cu : Cue) (d : BitVec 5) (a : BitVec 5) (tst : Bool)
  /-- FLOG_OLD (R309). Reads one word of the oldest fault-log entry. -/
  | flogOld (cu : Cue) (d : BitVec 5) (w : BitVec 3)
  /-- FLOG_STAT (R309). Reads the fault-log fill and LOST count, optionally clearing LOST. -/
  | flogStat (cu : Cue) (d : BitVec 5) (clr : Bool)
  /-- FLOG_SEQ (R309). Reads one word of the fault-log entry with a given sequence number. -/
  | flogSeq (cu : Cue) (d : BitVec 5) (a : BitVec 5) (w : BitVec 3)
  /-- FLOG_POP (R309). Removes the fault-log entry with a given sequence number. -/
  | flogPop (cu : Cue) (d : BitVec 5) (a : BitVec 5)
  /-- ACT_SPAWN (R327). Creates an act from a record in memory and enters it into the wings. -/
  | actSpawn (cu : Cue) (a : BitVec 5)
  /-- ACT_NEXT (R326). Claims a chunk of indices of the act's range indivisibly. -/
  | actNext (cu : Cue) (d : BitVec 5) (a : BitVec 5) (b : BitVec 5)
  /-- ACT_YIELD (R328). Issues the yield rendezvous of the four engines. -/
  | actYield (cu : Cue)
  /-- ACT_END (R328). Issues the end rendezvous of the four engines. -/
  | actEnd (cu : Cue)
  /-- LNCH (R329). Releases at .chip and enters a launch record from device memory into the device launch queue. -/
  | lnch (cu : Cue) (d : BitVec 5) (a : BitVec 5)
  /-- ALM_W (R336). Writes one whole almanac entry. -/
  | almW (cu : Cue) (a : BitVec 5) (b : BitVec 5) (e : BitVec 4) (ri : Bool)
  /-- SEM_SIG (R361). Releases at its scope and adds to a semaphore, saturating. -/
  | semSig (cu : Cue) (a : BitVec 5) (b : BitVec 5) (sc : BitVec 3)
  /-- SEM_SIG_SET (R361). Releases at its scope and sets a semaphore. -/
  | semSigSet (cu : Cue) (a : BitVec 5) (b : BitVec 5) (sc : BitVec 3)
  /-- SEM_WAIT (R362). Waits until a semaphore reaches a wait value, then acquires. -/
  | semWait (cu : Cue) (a : BitVec 5) (b : BitVec 5) (sc : BitVec 3) (imm : BitVec 26) (i : Bool)
  /-- SEM_RD (R363). Reads a semaphore value and acts as an acquire. -/
  | semRd (cu : Cue) (d : BitVec 5) (a : BitVec 5) (sc : BitVec 3)
  /-- CWAIT (R366). Waits until a copy channel's write pointer reaches a value or the channel is idle. -/
  | cwait (cu : Cue) (a : BitVec 5) (ch : BitVec 3)
  /-- ILLOP (R69). An engine reaches issue with a word that has opcode 0x00 or a reserved opcode, carries the extension tag, or lies at address 8,192, and it raises ILLOP. -/
  | illop (w : Word) (x : Word)
  /-- BACK_EDGE_DECISION (R141). After an instruction at a loop end word issues, active levels decide to loop back or exit. -/
  | backEdgeDecision (e : Engine)
  /-- INSTRUCTION_COMPLETE (R289). An instruction that took time completes and pushes its SP and SN tokens in order. -/
  | instructionComplete (e : Engine)
  /-- HELD_OPERATION_LEAVE (R201). 64 executing cycles after issue a held operation leaves the core in issue order. -/
  | heldOperationLeave (e : Engine)
  /-- HUB_OPERATION_PERFORM (R201). The hub performs a held curt.prep, col.start, lnch, sem.rd or flog change and returns its result. -/
  | hubOperationPerform (e : Engine)
  /-- GENERATION_ADVANCE (R267). Once every covered write is performed, a release advances the agent's generations at every home. -/
  | generationAdvance (e : Engine)
  /-- SEM_SIGNAL_PERFORM (R361). A signal reaches the semaphore store and adds to or sets the semaphore indivisibly. -/
  | semSignalPerform (e : Engine)
  /-- SEM_WAIT_YIELD_TEST (R36). Every 4,096 cycles of waiting a sem.wait tests whether to yield its core to a ready act. -/
  | semWaitYieldTest (e : Engine)
  /-- INTERMISSION_REQUEST (R322). The prompter or stage manager asks a core to intermit its resident act. -/
  | intermissionRequest (hard : Bool)
  /-- PRIORITY_WAIT_EXPIRY (R322). A ready act of higher priority that has waited 65,536 cycles triggers an intermission request. -/
  | priorityWaitExpiry (die : Nat) (prio : Nat)
  /-- STEAL_REQUEST (R324). A victim's queue engine answers a steal by handing over its wings tail, splitting its range, or refusing. -/
  | stealRequest (thief : Nat)
  /-- UPSET_REPORT (R200). A soft-error report rolls the core back to the cut and replays the command window. -/
  | upsetReport (back : Nat)
  /-- BANK_COMMAND_START (R299). A bank command reaching the head of its bank FIFO begins and performs at the bank. -/
  | bankCommandStart (bank : Nat)
  /-- COPY_SECTOR_TRANSFER (R250). A copy channel moves one sector and advances its write pointer, or stops on a fault. -/
  | copySectorTransfer (ch : Nat)
  /-- COLLECTIVE_PERFORM (R303). The collective engines carry out a matched collective, write outputs, digest and release. -/
  | collectivePerform (ctx : Nat) (set : Nat) (peers : List ColPeer) (far : ColFar)
  /-- DIGEST_MESSAGE (R381). A member's digest arrives at a hub, which resolves the outcome once all surviving digests are held. -/
  | digestMessage (ctx : Nat) (set : Nat) (pos : Nat) (member : Nat) (digest : BitVec 128)
  /-- TLB_MISS_WALK (R341). A walk reads the page tables and fills the TLBs of the waiting cores. -/
  | tlbMissWalk (ctx : Nat) (va : DWord)
  /-- COW_RESOLUTION (R340). The stage manager resolves a copy-on-write page or refuses, and the waiting write repeats or faults. -/
  | cowResolution (ctx : Nat) (va : DWord) (page : Option (BitVec 52 × List SavedSector))
  /-- INVALIDATION (R343). A stage-manager command removes TLB entries of a context range and completes when no stale walk remains. -/
  | invalidation (ctx : Nat) (lo : Nat) (hi : Nat)
  /-- CONTEXT_CREATION (R8). The stage manager creates a context, setting TTB, zeroing semaphores and giving every per-context field its reset value. -/
  | contextCreation (ctx : Nat) (ttb : BitVec 52) (fabric : List Nat) (routes : List (List Nat)) (self : Nat) (store : StoreArea)
  /-- RING_REGISTRATION (R310). A launch ring is registered with the stage manager under a queue number, with its context and priority class. -/
  | ringRegistration (q : Nat) (ctx : Nat) (cls : Nat) (size : Nat) (base : Nat)
  /-- DOORBELL (R310). A host write of TAIL to a launch-ring doorbell publishes records or halts the ring. -/
  | doorbell (q : Nat) (tail : Word)
  /-- SLOT_MAPPING (R313). A pending ring is mapped to a free or forcibly unmapped hardware queue slot. -/
  | slotMapping (q : Nat)
  /-- LAUNCH (R315). A LAUNCH record is checked in order and admitted or refused. -/
  | launch (src : LaunchSrc)
  /-- LEVEL (R316). A LEVEL record sets the context's determinism level for later launches. -/
  | level (src : LaunchSrc)
  /-- FENCE (R316). A FENCE record holds its ring until every earlier launch has written DONE. -/
  | fence (src : LaunchSrc)
  /-- CANCEL (R316). A CANCEL record drops an earlier launch's acts and stops its resident ones. -/
  | cancel (src : LaunchSrc)
  /-- CANCEL_COMPLETE (R316). CANCEL completes once every stopped act has left its core. -/
  | cancelComplete (src : LaunchSrc)
  /-- START_BARRIER (R32). A replicated launch passes its start barrier once all modules reached it, or is refused. -/
  | startBarrier (id : Nat) (gens : List Word) (lost : Bool)
  /-- LAUNCH_COMPLETION (R312). Once every write is performed the module writes the completion entry with DONE last. -/
  | launchCompletion (id : Nat)
  /-- CODING_GROUP_CONFIG (R350). The stage manager writes a coding-group entry on every member or is refused. -/
  | codingGroupConfig (ctx : Nat) (grp : Nat) (cfg : Option GroupCfg)
  /-- REPLICA_CONFIG (R351). The stage manager writes a replica-table entry. -/
  | replicaConfig (ctx : Nat) (set : Nat) (cfg : Option ReplicaCfg)
  /-- KEY_TABLE_WRITE (R345). The stage manager binds or frees a memory-encryption key entry. -/
  | keyTableWrite (idx : Nat) (bound : Bool) (mask : DWord) (keys : BitVec 512)
  /-- SCENE_LOAD (R83). The loader checks a scene image in order and binds it to the scene table or refuses it. -/
  | sceneLoad (ctx : Nat) (image : List Byte)
  /-- REGISTER_WRITE (R7). A write to a register that has no row of its own acts by its field access codes. -/
  | registerWrite (reg : RegTarget) (v : DWord)
  /-- DELTA (R371). A holder stages a received parity delta and acknowledges it. -/
  | delta (ctx : Nat) (grp : Nat) (member : Nat) (entry : Nat) (sector : Nat) (syms : List Byte)
  /-- DELTA_ACK (R371). An acknowledgement of a sent delta arrives and may set ACKD. -/
  | deltaAck (ctx : Nat) (grp : Nat) (member : Nat)
  /-- END_OF_DELTAS (R371). An end-of-deltas marker arrives and sets the sender's EOD bit. -/
  | endOfDeltas (ctx : Nat) (grp : Nat) (member : Nat)
  /-- STAGED (R371). A STAGED notice arrives and sets its NOT bit; all n bits decide commit. -/
  | staged (ctx : Nat) (grp : Nat) (member : Nat) (round : Word)
  /-- ABORT (R372). An ABORT notice sends the member into roll-back. -/
  | abort (ctx : Nat) (grp : Nat) (msg : AbortMsg)
  /-- EXCH (R374). A survivor-exchange message arrives, spreading DEC and concluding the epoch. -/
  | exch (ctx : Nat) (grp : Nat) (member : Nat) (round : Word) (epoch : BitVec 16) (dec : Bool)
  /-- APPLY_DONE (R373). The commit apply finishes and the member returns to OPEN or goes to HALTED. -/
  | applyDone (ctx : Nat) (grp : Nat)
  /-- ROLLBACK_DONE (R375). Roll-back of the round finishes and the member goes to HALTED. -/
  | rollbackDone (ctx : Nat) (grp : Nat)
  /-- REBUILD (R377). A halted group with a lost member and a named understudy rebuilds the member's protected state. -/
  | rebuild (ctx : Nat) (grp : Nat) (part : RebuildPart)
  /-- REBUILD_COMPLETE (R377). When every sector is written the lost member's fabric entry is repointed to the understudy. -/
  | rebuildComplete (ctx : Nat) (grp : Nat) (take : Rebuilt)
  /-- REOPEN (R378). The stage manager's reopen command returns a halted group to OPEN and settles waiting writes. -/
  | reopen (ctx : Nat) (grp : Nat)
  /-- LOSS_POINT (R396). The stage manager records a peer lost, settling its accesses and starting the curtain's loss handling. -/
  | lossPoint (ctx : Nat) (peer : Nat)
  /-- PEER_ACCESS (R235). An access from a peer arrives at this module's home and is checked and performed or refused. -/
  | peerAccess (ctx : Nat) (peer : Nat) (core : Nat) (gens : List DWord) (key : Byte) (req : MemReq)
  /-- REMOTE_RESPONSE (R346). A peer's answer to an access arrives and the issuer settles it, including key and protection refusals. -/
  | remoteResponse (ans : RemoteAns)
  /-- HOST_READ (R235). A host read of device memory is checked at the home and returned or refused. -/
  | hostRead (off : HostPlace) (len : Nat)
  /-- HOST_WRITE (R235). A host write of device memory is checked at the home and performed or refused. -/
  | hostWrite (off : Nat) (bytes : HostData)
  /-- ENERGY_ACCRUAL (R386). The hub adds measured energy to EDIE, ECTX and subtracts it from credits. -/
  | energyAccrual (die : Nat) (uj : Nat) (shares : List (Nat × Nat))
  /-- CREDIT_REFILL (R386). The stage manager adds energy credit to a context on a die. -/
  | creditRefill (ctx : Nat) (die : Nat) (mj : Nat)
  /-- SCENE_UNLOAD (R355). An unload command makes a scene entry RETIRING until no act of it remains. -/
  | sceneUnload (ctx : Nat) (id : Word)
  /-- CORE_REPLACEMENT (R348). The stage manager moves a logical core's work onto an understudy core. -/
  | coreReplacement (phys : Option Nat)
  /-- DIRTY_LINE_EVICTION (R261). The memory-side cache evicts a dirty line, writing it back poisoned if uncorrectable. -/
  | dirtyLineEviction (line : Nat) (bad : Bool)
  /-- SCRUB_READ (R258). A patrol read corrects and writes back a sector or poisons it. -/
  | scrubRead (sector : Nat) (symbols : Nat)
  /-- FORCED_REFRESH (R258). At a refresh deadline a refresh issues at the highest priority. -/
  | forcedRefresh (stack : Nat) (pc : Nat)
  /-- REFRESH (R258). A refresh issues before its deadline at low priority. -/
  | refresh (stack : Nat) (pc : Nat)
  /-- REQUEST_PROMOTION (R258). A lower-class request that waited 4,096 sequencer cycles is promoted above demand for one command. -/
  | requestPromotion (stack : Nat) (pc : Nat)
  /-- SLOT_IDLE_EXPIRY (R313). A ring with no unread record frees its slot after 65,536 hub cycles. -/
  | slotIdleExpiry (q : Nat)
  /-- COUNTING_WINDOW_END (R385). At the end of a counting window the upset and corrected counts return to zero. -/
  | countingWindowEnd (stack : Option Nat)
  /-- LANE_FAILURE (R395). A failed Carten lane is replaced by the spare or the link retrains narrower or goes down. -/
  | laneFailure (link : Nat)
  /-- LINK_IDLE_TIMEOUT (R395). A link with no flit or idle for 2 µs is declared down. -/
  | linkIdleTimeout (link : Nat)
  /-- PEER_LOSS_NOTICE (R396). A switch delivers a peer-loss notice for a peer. -/
  | peerLossNotice (ctx : Nat) (peer : Nat)
  /-- ADMTAIL (R392). A write to the admin ring doorbell publishes admin commands and releases host writes. -/
  | admtail (v : DWord)
  /-- ADMBASE (R392). A write of the admin ring base and size, accepted by the stage manager. -/
  | admbase (v : DWord)
  /-- LINK_WIDTH_CHANGE (R394). A host port width or speed change holds transactions for at most 8 µs. -/
  | linkWidthChange (width : Nat)
  /-- BACK_INVALIDATE_RESPONSE (R357). The host answers a back-invalidate snoop so the waiting module access can perform. -/
  | backInvalidateResponse (line : Nat)
  /-- BIAS_FLIP (R358). A page's bias is flipped between host and device after back-invalidating host lines. -/
  | biasFlip (page : Nat) (device : Bool)
  /-- UNDERSTUDY_NAMING (R350). The stage manager names an understudy for a group, checked against the domain rule. -/
  | understudyNaming (ctx : Nat) (grp : Nat) (us : Option (Nat × Nat))
  /-- PRIORITY_CLASS_WRITE (R354). The stage manager writes the priority class minimums or is refused. -/
  | priorityClassWrite (cls : Nat) (min : Nat)
  /-- CONTEXT_END (R271). A context ends, removing its holds and invalidating its translations. -/
  | contextEnd (ctx : Nat)
  /-- FIRMWARE_LOAD (R402). An incoming firmware image is loaded and verified into the second bank. -/
  | firmwareLoad (version : Word) (image : List Byte) (sig : List Byte)
  /-- ATTESTATION_REQUEST (R404). An attestation request is accepted and a signed report returned. -/
  | attestationRequest (nonce : BitVec 256)
  /-- CHECKPOINT (R407). A quiescent context's ranges are written to the host safe tier. -/
  | checkpoint (ctx : Nat) (ranges : SaveList)
  /-- RESTORE (R408). A checkpoint is written back into a context by in-base operations. -/
  | restore (ctx : Nat) (sectors : List SavedSector) (rounds : List (Nat × Word))
  /-- ENERGY_BUDGET_WRITE (R405). The board writes the module's energy budget, which caps power by gating issue cycles. -/
  | energyBudgetWrite (watts : Nat)
  /-- BRING_UP (R406). The module verifies firmware, trains memory, zeroes it, resets tables and trains links. -/
  | bringUp (fail : Option Nat)
  /-- HOST_KEY_WINDOW_WRITE (R356). A host command sets the KEY and EN of a host key window. -/
  | hostKeyWindowWrite (win : Nat) (key : BitVec 8) (en : Bool)
  /-- SLOT_WAIT_EXPIRY (R314). A mapped slot that has waited 2^16 hub cycles with an unread record is served next, whatever its class. -/
  | slotWaitExpiry (q : Nat)
  /-- LINK_LEVEL_RETRY (R395). A flit that fails its CRC is replayed from the link's replay buffer. -/
  | linkLevelRetry (link : Nat)
  /-- CARTEN_RETRAIN_DONE (R395). Within 12 µs of a lane failure, the spare lane or the narrower width takes over and the waiting flits flow again. -/
  | cartenRetrainDone (link : Nat)
  /-- CUE_POINT_PASS (R17). The core passes a cue point once all four engines issued it and earlier instructions completed, clearing state. -/
  | cuePointPass
  /-- ACT_PLACEMENT (R319). A core with no resident act takes its next act from its wings or the ready pool and starts or resumes it. -/
  | actPlacement
  /-- ACT_END_RENDEZVOUS (R30). At the end rendezvous the core drains, releases and writes the record back as ended. -/
  | actEndRendezvous
  /-- ACT_YIELD_RENDEZVOUS (R328). At the yield rendezvous the act is marked to suspend at the next cue point. -/
  | actYieldRendezvous
  /-- FULL_IMAGE_SUSPENSION (R331). The core stops issue, lets started instructions complete, releases and saves the whole core state. -/
  | fullImageSuspension
  /-- REGION_EXPIRY (R332). REGION cycles after an intermission request without a cue point, the core makes a full-image suspension. -/
  | regionExpiry
  /-- STEAL_REST_EXPIRY (R324). After 256 cycles of rest a thief core starts its search again. -/
  | stealRestExpiry
  /-- SLOW_RESULT_DELIVERY (R125). A slow X operation delivers its result and flags as the 14th counted instruction issues. -/
  | slowResultDelivery
  /-- DEADLOCK (R293). Within 1,024 cycles of a cue deadlock forming, the core raises DEADLOCK and ends the act. -/
  | deadlock
  /-- GLOBAL_WRITE_PERFORM (R264). A store, scatter element or copy write reaches its home, is checked against holds, places a hold and is written. -/
  | globalWritePerform
  /-- GLOBAL_LOAD_PERFORM (R264). A load reads its value at its home, is checked against holds and fills its queue entry. -/
  | globalLoadPerform
  /-- ATOMIC_PERFORM (R246). An at or cas performs indivisibly at the word's home and returns the old value. -/
  | atomicPerform
  /-- REDUCTION_PERFORM (R249). A reduction performs its operation indivisibly at the word's home. -/
  | reductionPerform
  /-- BRK_RESUME (R198). The stage manager resumes a core halted by brk, which then completes. -/
  | brkResume
  /-- HREL (R268). A host write to HREL starts a host release. -/
  | hrel
  /-- HOST_RELEASE_COMPLETE (R268). After earlier host writes settle, both host generations advance at every home. -/
  | hostReleaseComplete
  /-- HOST_LINK_LOSS (R394). After 100 ms of host link down the module treats the host as lost. -/
  | hostLinkLoss
  /-- HANDOVER_SWITCH (R402). At the switch point the outgoing firmware transfers policy state and stops. -/
  | handoverSwitch
  /-- THERMAL_STOP (R405). A temperature above the critical limit stops the module within 10 ms. -/
  | thermalStop
  /-- POWER_LOSS (R397). The module loses power and all its state is gone. -/
  | powerLoss
  /-- HOST_LINK_DOWN (R394). The host port link goes down, which starts the 100 ms count toward host loss. -/
  | hostLinkDown
  /-- HOST_LINK_UP (R394). The host port link comes back up, which cancels a running loss count or awaits a new ADMBASE after host loss. -/
  | hostLinkUp
  /-- HOST_RETRAIN_DONE (R394). A host port width or speed change ends within 8 µs and the held transactions proceed in order. -/
  | hostRetrainDone
  /-- CORRECTED_SRAM_ERROR (R385). A corrected SRAM error in a core is counted toward the core's lasting threshold of 1,024 per window. -/
  | correctedSramError
deriving DecidableEq, Repr

end Sys2Proof
end

