-- ==== Sys2Proof/WellFormed.lean ====
section
/-! DEFINITION. Which instructions are well formed: the checks of row 5 of the decode faults (R69) that the words alone
decide. The checks that need the engine, the tags or the latches are made at issue. -/

namespace Sys2Proof

/-- Width in bits of an element of a storage format code (R56, R85, R88, R89, R91, R92, R146). -/
def Fmt.width (f : BitVec 4) : Nat :=
  match f.toNat with
  | 0 => 32 | 1 => 16 | 2 => 16 | 3 => 8 | 4 => 8 | 5 => 4 | 6 => 8 | 7 => 8 | 8 => 8 | 9 => 4
  | 10 => 8 | 11 => 8 | 12 => 16 | 13 => 32 | 14 => 32 | _ => 8

/-- The scaled format codes 0x3 to 0x9 (R99). -/
def Fmt.scaled (f : BitVec 4) : Bool := 3 ≤ f.toNat && f.toNat ≤ 9

namespace WF

/-- An address-register field names a0 to a15 (R51). -/
def areg (f : BitVec 5) : Bool := f.toNat < 16

/-- A destination that names v0 to v27 and no queue head (R52). -/
def vreg (f : BitVec 5) : Bool := f.toNat < 28

/-- A queue field of value 28, 29 or 30 (R52, R242). -/
def qhead3 (f : BitVec 5) : Bool := 28 ≤ f.toNat && f.toNat ≤ 30

/-- A register group of k registers (R54). -/
def vgroup (k : Nat) (f : BitVec 5) : Bool := f.toNat % k == 0 && f.toNat + k ≤ 28

/-- A predicate destination p1 to p7 (R51). -/
def predDst (f : BitVec 5) : Bool := 1 ≤ f.toNat && f.toNat < 8

/-- The condition field of a branch and its flag (R49, R50). -/
def condOk (cnd : BitVec 3) (c : BitVec 2) : Bool := cnd.toNat < 3 && (cnd != 0 || c == 0)

/-- The index form of `vext`, `vins` and `vslide` (R162, R165). -/
def idxOk (r : Bool) (imm : BitVec 11) (k : BitVec 5) : Bool := if r then imm == 0 else k == 0

/-- Width ratios that widen or narrow (R167). -/
def ratioOk (big small : Nat) : Bool := big == 2 * small || big == 4 * small

/-- The D bit of a conversion needs a scaled format and p0 (R167). -/
def dscOk (ds : Bool) (fd : BitVec 4) (p : BitVec 3) : Bool := !ds || (Fmt.scaled fd && p == 0)

/-- The group count of `vdot` lies from 1 to 128 (R172). -/
def dotOk (fs : BitVec 4) (lg : BitVec 4) : Bool :=
  let g := (4096 / Fmt.width fs) / 2 ^ lg.toNat
  1 ≤ g && g ≤ 128

/-- The source formats that pair with a B format (R207). -/
def statPair (fs fb : BitVec 4) : Bool :=
  if fb == 8 then fs == 1 || fs == 3 || fs == 4 || fs == 6 || fs == 8 else fs == 5 || fs == 9

/-- The element formats of bank arithmetic: 0x0 to 0x2, 0xC, 0xD (R222). -/
def bankArith (f : BitVec 4) : Bool := f.toNat < 3 || f == 12 || f == 13

/-- The formats of `bk.cvt` and `bk.fill`: 0x0 to 0x7 and 0xA to 0xE (R222). -/
def bankCvt (f : BitVec 4) : Bool := f.toNat < 8 || (10 ≤ f.toNat && f.toNat ≤ 14)

/-- The counter codes of `ctr.rd` with their index ranges; H needs a 64-bit counter (R389). -/
def ctrOk (fn : BitVec 6) (idx : BitVec 5) (hi : Bool) : Bool :=
  let i := idx.toNat
  match fn.toNat with
  | 0x00 => i == 0
  | 0x01 => i < 4
  | 0x02 => i < 8 && !hi
  | 0x03 => i < 16 && !hi
  | 0x04 => i < 32 && !hi
  | 0x05 => i < 16 && !hi
  | 0x06 => 1 ≤ i && i ≤ 4
  | 0x07 => i == 0 && !hi
  | 0x08 => i == 0 && !hi
  | 0x09 => i < 4
  | 0x0A => i < 4
  | 0x0B => i < 4
  | 0x10 => i < 16
  | _ => false

end WF

open WF in
/-- The words of an instruction name no reserved value (R49 to R59, R69 row 5). An event has no words. -/
def WellFormed : Instr → Bool
  | .nop _ => true
  | .cue _ _ => true
  | .bprep _ _ _ => true
  | .br _ _ c cnd => condOk cnd c
  | .bl _ _ c cnd _ => condOk cnd c
  | .loopImmediate _ _ _ len => len != 0
  | .loopRegister _ _ _ len => len != 0
  | .loopx _ _ _ _ len => len != 0
  | .trap _ _ => true
  | .tokw _ _ _ => true
  | .toks _ _ _ => true
  | .brk _ _ => true
  | .csrr _ _ _ => true
  | .csrw _ _ _ _ => true
  | .csrs _ _ _ _ => true
  | .csrc _ _ _ _ => true
  | .add _ _ _ _ => true
  | .sub _ _ _ _ => true
  | .mul _ _ _ _ => true
  | .mulh _ _ _ _ => true
  | .mulhn _ _ _ _ => true
  | .and _ _ _ _ => true
  | .or _ _ _ _ => true
  | .xor _ _ _ _ => true
  | .andn _ _ _ _ => true
  | .shl _ _ _ _ => true
  | .shr _ _ _ _ => true
  | .sra _ _ _ _ => true
  | .minI _ _ _ _ => true
  | .maxI _ _ _ _ => true
  | .minN _ _ _ _ => true
  | .maxN _ _ _ _ => true
  | .cmpEq _ d _ _ => d.toNat < 4
  | .cmpNe _ d _ _ => d.toNat < 4
  | .cmpLtI _ d _ _ => d.toNat < 4
  | .cmpGeI _ d _ _ => d.toNat < 4
  | .cmpLtN _ d _ _ => d.toNat < 4
  | .cmpGeN _ d _ _ => d.toNat < 4
  | .mov _ _ _ => true
  | .popc _ _ _ => true
  | .clz _ _ _ => true
  | .ctz _ _ _ => true
  | .sel _ _ _ _ _ => true
  | .bext _ _ _ _ => true
  | .bins _ _ _ _ => true
  | .divI _ _ _ _ => true
  | .divN _ _ _ _ => true
  | .remI _ _ _ _ => true
  | .remN _ _ _ _ => true
  | .addi _ _ _ _ => true
  | .shli _ _ _ _ => true
  | .shri _ _ _ _ => true
  | .srai _ _ _ _ => true
  | .li _ _ _ => true
  | .ctrRd _ _ idx hi fn => ctrOk fn idx hi
  | .fadd _ _ _ _ rnd => rnd.toNat < 2
  | .fsub _ _ _ _ rnd => rnd.toNat < 2
  | .fmul _ _ _ _ rnd => rnd.toNat < 2
  | .fmin _ _ _ _ => true
  | .fmax _ _ _ _ => true
  | .fcmpEq _ d _ _ => d.toNat < 4
  | .fcmpLt _ d _ _ => d.toNat < 4
  | .fcmpLe _ d _ _ => d.toNat < 4
  | .fcmpUn _ d _ _ => d.toNat < 4
  | .fsgn _ _ _ _ => true
  | .fsgnN _ _ _ _ => true
  | .fsgnX _ _ _ _ => true
  | .fcvtI32F32 _ _ _ rnd => rnd.toNat < 2
  | .fcvtN32F32 _ _ _ rnd => rnd.toNat < 2
  | .fcvtF32I32 _ _ _ rnd => rnd.toNat < 2
  | .fcvtF32N32 _ _ _ rnd => rnd.toNat < 2
  | .fma _ _ _ _ r _ => r.toNat < 2
  | .fdiv _ _ _ _ rnd => rnd.toNat < 2
  | .fsqrt _ _ _ rnd => rnd.toNat < 2
  | .fsqrtCk _ _ _ rnd _ => rnd.toNat < 2
  | .frsq _ _ _ rnd => rnd.toNat < 2
  | .aadd _ d a _ => areg d && areg a
  | .aaddi _ d a _ => areg d && areg a
  | .aset _ d _ _ => areg d
  | .agetLo _ _ a => areg a
  | .agetHi _ _ a => areg a
  | .vadd _ _ _ _ _ _ => true
  | .vsub _ _ _ _ _ _ => true
  | .vmul _ _ _ _ _ _ => true
  | .vfma _ d _ _ _ _ => vreg d
  | .vmin _ _ _ _ _ _ => true
  | .vmax _ _ _ _ _ _ => true
  | .vabs _ _ _ t _ => t != 6
  | .vneg _ _ _ t _ => t != 6
  | .vmov _ _ _ _ _ => true
  | .vexp2 _ _ _ t _ => t.toNat < 3 || t == 7
  | .vlog2 _ _ _ t _ => t.toNat < 3 || t == 7
  | .vrcp _ _ _ t _ => t.toNat < 3 || t == 7
  | .vrsq _ _ _ t _ => t.toNat < 3 || t == 7
  | .vsig _ _ _ t _ => t.toNat < 3 || t == 7
  | .vlogic _ _ _ _ t _ _ => 3 ≤ t.toNat
  | .vshl _ _ _ _ t _ => 3 ≤ t.toNat
  | .vshr _ _ _ _ t _ => 3 ≤ t.toNat
  | .vsra _ _ _ _ t _ => 3 ≤ t.toNat && t != 6
  | .vcmp _ d _ _ t _ cond => predDst d && cond != 7 && (cond != 6 || t.toNat < 3 || t == 7)
  | .vsel _ _ _ _ _ _ => true
  | .vsplat _ _ _ _ _ => true
  | .vext _ _ _ _ imm r k => idxOk r imm k
  | .vins _ d _ _ imm r k => vreg d && idxOk r imm k
  | .viota _ _ _ _ t _ => 3 ≤ t.toNat
  | .vperm _ _ _ _ _ _ => true
  | .vshuf _ _ _ b _ _ pat => pat.toNat < 5 && (pat != 4 || b == 0)
  | .vslide _ _ _ _ _ _ imm r k _ => idxOk r imm k
  | .vcvt _ _ _ t p fs fd rnd ds => (t == 0 || t == 7) && rnd != 3 && fs != 15 && (if t == 7 then fd == 0 && !ds else fd != 15 && dscOk ds fd p)
  | .vwiden _ d _ _ fs fd rnd => rnd != 3 && fs != 15 && fd != 15 && ratioOk (Fmt.width fd) (Fmt.width fs) && vgroup (Fmt.width fd / Fmt.width fs) d
  | .vnarrow _ _ a p fs fd rnd ds => rnd != 3 && fs != 15 && fd != 15 && ratioOk (Fmt.width fs) (Fmt.width fd) && vgroup (Fmt.width fs / Fmt.width fd) a && dscOk ds fd p
  | .vscl _ _ _ _ fmt _ => Fmt.scaled fmt
  | .vscld _ _ _ b setm => setm || b == 0
  | .vredsum _ _ _ t _ rnd _ => rnd.toNat < 2 && (t.toNat < 3 || t == 7 || rnd == 0)
  | .vredmax _ _ _ _ _ => true
  | .vredmin _ _ _ _ _ => true
  | .vdot _ _ _ _ _ fs lg rnd _ => (fs.toNat ≤ 12) && rnd.toNat < 2 && (fs.toNat < 10 || rnd == 0) && dotOk fs lg
  | .vsortkv _ d _ _ t _ _ uns => (t == 0 || t == 3) && (!uns || t == 3) && vgroup 2 d
  | .vsegsum _ _ _ _ t _ rnd _ => (t == 0 || t == 3) && rnd.toNat < 2 && (t == 0 || rnd == 0)
  | .vcmprs _ _ _ _ _ => true
  | .smxStep _ d _ _ _ lg _ _ => 2 ≤ lg.toNat && vgroup 2 d
  | .smxFin _ _ _ _ _ _ _ => true
  | .plogic _ d a b _ _ => predDst d && a.toNat < 8 && b.toNat < 8
  | .pany _ d a _ _ => d.toNat < 4 && a.toNat < 8
  | .pall _ d a _ _ => d.toNat < 4 && a.toNat < 8
  | .pcnt _ _ a _ _ => a.toNat < 8
  | .pfirst _ _ a _ _ => a.toNat < 8
  | .psetn _ d _ _ _ => predDst d
  | .spStat _ d _ _ m0 mc fs fb scl alm => d.toNat < 16 && 1 ≤ mc.toNat && m0.toNat + mc.toNat ≤ 64 && (fb == 8 || fb == 9) && (if alm then fs == 0 && !scl else statPair fs fb)
  | .spPlain _ d m0 mc g => if g then d.toNat < 16 && m0 == 0 && mc == 0 else d == 0 && 1 ≤ mc.toNat && m0.toNat + mc.toNat ≤ 64
  | .mmFeed _ d a b fs as alm w _ => (d == 0 || qhead3 d) && (d == 0 || (a == 0 && b == 0)) && (b == 0 || as || alm) && (fs.toNat ≤ 10 || fs == 12) && (!as || Fmt.scaled fs) && (!alm || (fs == 0 && !as)) && w.toNat < 5
  | .mmPass _ d a kd w nv row0 f => d.toNat < 8 && a.toNat < 16 && kd != 7 && w.toNat < 5 && row0.toNat + nv.toNat + 1 ≤ 32 && !(f && w == 4)
  | .mmTile _ d n => d.toNat + n.toNat + 1 ≤ 8
  | .mmZero _ d => d.toNat < 8
  | .mmDrain _ d a b _ fd rnd ds alm row0 nr => d.toNat < 2 && (d == 0 || (a == 0 && b == 0)) && (alm || b == 0 || Fmt.scaled fd) && (fd.toNat ≤ 10 || fd == 12 || fd == 13) && rnd != 3 && (!ds || Fmt.scaled fd) && (!alm || (fd == 0 && !ds)) && row0.toNat + nr.toNat + 1 ≤ 32
  | .mmRd _ _ a b _ row col i => if i then a == 0 && b == 0 else row == 0 && col == 0
  | .ldSp _ q base _ => qhead3 q && areg base
  | .stSp _ _ _ => true
  | .bkAdd _ _ _ _ _ ft _ rnd => bankArith ft && rnd != 3
  | .bkMul _ _ _ _ _ ft _ rnd => bankArith ft && rnd != 3
  | .bkFma _ _ _ _ _ ft _ rnd => bankArith ft && rnd != 3
  | .bkMax _ _ _ _ _ ft _ => bankArith ft
  | .bkMin _ _ _ _ _ ft _ => bankArith ft
  | .bkScale _ _ _ _ ft _ rnd _ => ft.toNat < 3 && rnd != 3
  | .bkExpsum _ _ _ _ _ ft _ rnd _ _ => ft.toNat < 2 && rnd.toNat < 2
  | .bkRed _ _ _ _ ft _ rnd op _ _ => bankArith ft && rnd.toNat < 2 && op != 3
  | .bkCvt _ _ _ _ ft _ rnd fs => bankCvt ft && bankCvt fs && rnd != 3
  | .bkFill _ _ _ ft _ _ => bankCvt ft
  | .bkCopy _ _ _ _ => true
  | .curtPrep _ _ _ => true
  | .curtWait _ _ _ _ _ => true
  | .digRd _ _ _ wt out w => (!out || w == 0) && (!wt || out)
  | .ld _ q base _ _ => qhead3 q && areg base
  | .lds _ q base _ _ => qhead3 q && areg base
  | .st _ q base _ => qhead3 q && areg base
  | .sts _ q base f4 _ => qhead3 q && areg base && f4.toNat < 2
  | .gather _ q base _ _ idx es _ => qhead3 q && areg base && qhead3 idx && es != 3
  | .scatter _ q base _ idx es _ _ => qhead3 q && areg base && qhead3 idx && es != 3
  | .pf _ _ base _ _ => areg base
  | .cpy _ q base _ _ _ => q.toNat < 8 && areg base
  | .cpy2d _ q base _ _ _ _ _ _ => q.toNat < 8 && areg base
  | .atOp _ _ base _ _ _ sc => areg base && sc.toNat < 5
  | .cas _ _ base _ _ _ sc => areg base && sc.toNat < 5
  | .red _ q base _ idx op v ix sh sc _ => areg base && op != 0 && sc.toNat < 5 && (if v then qhead3 q else !ix) && (if ix then qhead3 idx else idx == 0 && sh == 0)
  | .protSet _ _ a b _ _ _ ur paired _ => areg a && areg b && (!paired || (b == 0 && ur == 0))
  | .protClr _ _ => true
  | .fenceAcq _ sc => sc.toNat < 5
  | .fenceRel _ sc => sc.toNat < 5
  | .fenceAr _ sc => sc.toNat < 5
  | .drain _ => true
  | .ldacq _ sc q base _ _ => q != 3 && sc.toNat < 5 && areg base
  | .strel _ sc q base _ => q != 3 && sc.toNat < 5 && areg base
  | .lqskip _ d _ => qhead3 d
  | .colStart _ _ a b _ kind op _ _ root _ => areg a && areg b && ((kind == 0 || kind == 2) != (op == 0)) && (root == 0 || kind == 3)
  | .colWait _ _ _ _ => true
  | .flogOld _ _ _ => true
  | .flogStat _ _ _ => true
  | .flogSeq _ _ _ _ => true
  | .flogPop _ _ _ => true
  | .actSpawn _ a => areg a
  | .actNext _ d _ b => d != b || d == 0
  | .actYield _ => true
  | .actEnd _ => true
  | .lnch _ _ a => areg a
  | .almW _ _ b e ri => if ri then e == 0 else b == 0
  | .semSig _ _ _ sc => sc.toNat < 5
  | .semSigSet _ _ _ sc => sc.toNat < 5
  | .semWait _ _ b sc imm i => sc.toNat < 5 && (if i then b == 0 else imm == 0)
  | .semRd _ _ _ sc => sc.toNat < 5
  | .cwait _ _ _ => true
  | .illop _ _ => true
  | .backEdgeDecision _ => true
  | .instructionComplete _ => true
  | .heldOperationLeave _ => true
  | .hubOperationPerform _ => true
  | .generationAdvance _ => true
  | .semSignalPerform _ => true
  | .semWaitYieldTest _ => true
  | .intermissionRequest _ => true
  | .priorityWaitExpiry _ _ => true
  | .stealRequest _ => true
  | .upsetReport _ => true
  | .bankCommandStart _ => true
  | .copySectorTransfer _ => true
  | .collectivePerform _ _ _ _ => true
  | .digestMessage _ _ _ _ _ => true
  | .tlbMissWalk _ _ => true
  | .cowResolution _ _ _ => true
  | .invalidation _ _ _ => true
  | .contextCreation _ _ _ _ _ _ => true
  | .ringRegistration _ _ _ _ _ => true
  | .doorbell _ _ => true
  | .slotMapping _ => true
  | .launch _ => true
  | .level _ => true
  | .fence _ => true
  | .cancel _ => true
  | .cancelComplete _ => true
  | .startBarrier _ _ _ => true
  | .launchCompletion _ => true
  | .codingGroupConfig _ _ _ => true
  | .replicaConfig _ _ _ => true
  | .keyTableWrite _ _ _ _ => true
  | .sceneLoad _ _ => true
  | .registerWrite _ _ => true
  | .delta _ _ _ _ _ _ => true
  | .deltaAck _ _ _ => true
  | .endOfDeltas _ _ _ => true
  | .staged _ _ _ _ => true
  | .abort _ _ _ => true
  | .exch _ _ _ _ _ _ => true
  | .applyDone _ _ => true
  | .rollbackDone _ _ => true
  | .rebuild _ _ _ => true
  | .rebuildComplete _ _ _ => true
  | .reopen _ _ => true
  | .lossPoint _ _ => true
  | .peerAccess _ _ _ _ _ _ => true
  | .remoteResponse _ => true
  | .hostRead _ _ => true
  | .hostWrite _ _ => true
  | .energyAccrual _ _ _ => true
  | .creditRefill _ _ _ => true
  | .sceneUnload _ _ => true
  | .coreReplacement _ => true
  | .dirtyLineEviction _ _ => true
  | .scrubRead _ _ => true
  | .forcedRefresh _ _ => true
  | .refresh _ _ => true
  | .requestPromotion _ _ => true
  | .slotIdleExpiry _ => true
  | .countingWindowEnd _ => true
  | .laneFailure _ => true
  | .linkIdleTimeout _ => true
  | .peerLossNotice _ _ => true
  | .admtail _ => true
  | .admbase _ => true
  | .linkWidthChange _ => true
  | .backInvalidateResponse _ => true
  | .biasFlip _ _ => true
  | .understudyNaming _ _ _ => true
  | .priorityClassWrite _ _ => true
  | .contextEnd _ => true
  | .firmwareLoad _ _ _ => true
  | .attestationRequest _ => true
  | .checkpoint _ _ => true
  | .restore _ _ _ => true
  | .energyBudgetWrite _ => true
  | .bringUp _ => true
  | .hostKeyWindowWrite _ _ _ => true
  | .slotWaitExpiry _ => true
  | .linkLevelRetry _ => true
  | .cartenRetrainDone _ => true
  | .cuePointPass => true
  | .actPlacement => true
  | .actEndRendezvous => true
  | .actYieldRendezvous => true
  | .fullImageSuspension => true
  | .regionExpiry => true
  | .stealRestExpiry => true
  | .slowResultDelivery => true
  | .deadlock => true
  | .globalWritePerform => true
  | .globalLoadPerform => true
  | .atomicPerform => true
  | .reductionPerform => true
  | .brkResume => true
  | .hrel => true
  | .hostReleaseComplete => true
  | .hostLinkLoss => true
  | .handoverSwitch => true
  | .thermalStop => true
  | .powerLoss => true
  | .hostLinkDown => true
  | .hostLinkUp => true
  | .hostRetrainDone => true
  | .correctedSramError => true

end Sys2Proof
end

