-- ==== Sys2Proof/Decode.lean ====
section
/-! DEFINITION. Decoding and encoding (R46 to R71). The decoder reads a candidate from the opcode and function fields and
accepts it exactly when it is well formed and its encoding is the words read, so that every reserved field enters the
check (R71). -/

namespace Sys2Proof

/-- Why words are no instruction, with the row of the decode faults that refuses them (R69). -/
inductive Reject
  /-- OP is 0x00 or a reserved opcode: ILLOP, row 2. -/
  | opcode
  /-- The extension word's bits [31:28] are not zero: ILLEXT, row 4. -/
  | extension
  /-- A reserved value in some field: ILLOP, row 5. -/
  | reserved
  /-- Fewer bytes than the instruction has. -/
  | short
deriving DecidableEq, Repr

/-- The cue nibble as bits [31:28] (R46, R47). -/
def nibble (cu : Cue) : BitVec 4 :=
  BitVec.ofBool cu.wp ++ BitVec.ofBool cu.wn ++ BitVec.ofBool cu.sp ++ BitVec.ofBool cu.sn

/-- The cue nibble of a first word (R46, R47). -/
def cueOf (w : Word) : Cue := ⟨w.getLsbD 31, w.getLsbD 30, w.getLsbD 29, w.getLsbD 28⟩

/-- The major opcode of a first word, bits [27:21] (R46). -/
def opOf (w : Word) : BitVec 7 := w.extractLsb' 21 7

/-- Opcodes of format W: the instruction has an extension word (R48, R64). -/
def isWide (op : BitVec 7) : Bool :=
  match op.toNat with
  | 0x16 => true
  | 0x19 => true
  | 0x27 => true
  | 0x2b => true
  | 0x2e => true
  | 0x2f => true
  | 0x32 => true
  | 0x33 => true
  | 0x34 => true
  | 0x35 => true
  | 0x36 => true
  | 0x37 => true
  | 0x38 => true
  | 0x39 => true
  | 0x3c => true
  | 0x3d => true
  | 0x3e => true
  | 0x40 => true
  | 0x41 => true
  | 0x42 => true
  | 0x48 => true
  | 0x49 => true
  | 0x4a => true
  | 0x4b => true
  | 0x4e => true
  | 0x4f => true
  | 0x52 => true
  | 0x53 => true
  | 0x54 => true
  | 0x55 => true
  | 0x56 => true
  | 0x57 => true
  | 0x58 => true
  | 0x59 => true
  | 0x5a => true
  | 0x5b => true
  | 0x5c => true
  | 0x64 => true
  | 0x65 => true
  | 0x67 => true
  | 0x68 => true
  | 0x69 => true
  | 0x6a => true
  | 0x6b => true
  | 0x6c => true
  | 0x73 => true
  | 0x7b => true
  | 0x7d => true
  | _ => false

/-- Opcodes that are assigned (R64): all but 0x00, 0x13, 0x1B and 0x1C. -/
def opAssigned (op : BitVec 7) : Bool := op != 0x00 && op != 0x13 && op != 0x1B && op != 0x1C

/-- The engines where an opcode is legal (R64). -/
def opLegal (op : BitVec 7) (e : Engine) : Bool :=
  let n := op.toNat
  match e with
  | .a => (0x01 ≤ n && n ≤ 0x11) || (0x14 ≤ n && n ≤ 0x17) || (0x1d ≤ n && n ≤ 0x1f) || n == 0x50 || (0x5d ≤ n && n ≤ 0x71) || (0x73 ≤ n && n ≤ 0x7a) || (0x7c ≤ n && n ≤ 0x7f)
  | .x => (0x01 ≤ n && n ≤ 0x12) || (0x14 ≤ n && n ≤ 0x1a) || (0x20 ≤ n && n ≤ 0x47) || (0x6e ≤ n && n ≤ 0x6f) || n == 0x72 || n == 0x75 || (0x77 ≤ n && n ≤ 0x79) || (0x7b ≤ n && n ≤ 0x7f)
  | .m => (0x01 ≤ n && n ≤ 0x11) || (0x14 ≤ n && n ≤ 0x17) || (0x48 ≤ n && n ≤ 0x4f) || (0x6e ≤ n && n ≤ 0x6f) || n == 0x72 || n == 0x75 || (0x78 ≤ n && n ≤ 0x79) || n == 0x7f
  | .b => (0x01 ≤ n && n ≤ 0x11) || (0x14 ≤ n && n ≤ 0x17) || (0x51 ≤ n && n ≤ 0x5c) || (0x6e ≤ n && n ≤ 0x6f) || n == 0x75 || (0x78 ≤ n && n ≤ 0x79) || n == 0x7f

/-- A one-word instruction: nibble, opcode and the format fields (R46). -/
def one (cu : Cue) (op : BitVec 7) (f : BitVec 21) : List Word := [nibble cu ++ op ++ f]

/-- A format W instruction: the first word and the extension word with the extension field x (R48). -/
def two (cu : Cue) (op : BitVec 7) (f : BitVec 21) (x : BitVec 28) : List Word :=
  [nibble cu ++ op ++ f, (0 : BitVec 4) ++ x]

/-- The words of an instruction, from the encoding tables of the spec; an event has none. -/
def encode : Instr → List Word
  | .nop cu => one cu 0x1 ((0 : BitVec 21))
  | .cue cu n => one cu 0x2 ((0 : BitVec 8) ++ n)
  | .bprep cu k tgt => one cu 0x3 ((0 : BitVec 3) ++ k ++ (0 : BitVec 3) ++ tgt)
  | .br cu t c cnd => one cu 0x4 (t ++ c ++ cnd ++ (0 : BitVec 14))
  | .bl cu t c cnd ls => one cu 0x5 (t ++ c ++ cnd ++ ls ++ (0 : BitVec 9))
  | .loopImmediate cu lvl cnt len => one cu 0x6 (lvl ++ (1 : BitVec 1) ++ cnt ++ len)
  | .loopRegister cu lvl s len => one cu 0x6 (lvl ++ (0 : BitVec 4) ++ s ++ len)
  | .loopx cu lvl e s len => one cu 0x7 (lvl ++ (0 : BitVec 2) ++ e ++ s ++ len)
  | .trap cu code => one cu 0x8 ((0 : BitVec 5) ++ code)
  | .tokw cu np nn => one cu 0x9 ((0 : BitVec 13) ++ np ++ nn)
  | .toks cu np nn => one cu 0xa ((0 : BitVec 13) ++ np ++ nn)
  | .brk cu code => one cu 0xb ((0 : BitVec 5) ++ code)
  | .csrr cu d num => one cu 0xc (d ++ (0 : BitVec 5) ++ num)
  | .csrw cu d a num => one cu 0xd (d ++ a ++ num)
  | .csrs cu d a num => one cu 0xe (d ++ a ++ num)
  | .csrc cu d a num => one cu 0xf (d ++ a ++ num)
  | .add cu d a b => one cu 0x10 (d ++ a ++ b ++ (0 : BitVec 6))
  | .sub cu d a b => one cu 0x10 (d ++ a ++ b ++ (1 : BitVec 6))
  | .mul cu d a b => one cu 0x10 (d ++ a ++ b ++ (2 : BitVec 6))
  | .mulh cu d a b => one cu 0x10 (d ++ a ++ b ++ (3 : BitVec 6))
  | .mulhn cu d a b => one cu 0x10 (d ++ a ++ b ++ (4 : BitVec 6))
  | .and cu d a b => one cu 0x10 (d ++ a ++ b ++ (5 : BitVec 6))
  | .or cu d a b => one cu 0x10 (d ++ a ++ b ++ (6 : BitVec 6))
  | .xor cu d a b => one cu 0x10 (d ++ a ++ b ++ (7 : BitVec 6))
  | .andn cu d a b => one cu 0x10 (d ++ a ++ b ++ (8 : BitVec 6))
  | .shl cu d a b => one cu 0x10 (d ++ a ++ b ++ (9 : BitVec 6))
  | .shr cu d a b => one cu 0x10 (d ++ a ++ b ++ (10 : BitVec 6))
  | .sra cu d a b => one cu 0x10 (d ++ a ++ b ++ (11 : BitVec 6))
  | .minI cu d a b => one cu 0x10 (d ++ a ++ b ++ (12 : BitVec 6))
  | .maxI cu d a b => one cu 0x10 (d ++ a ++ b ++ (13 : BitVec 6))
  | .minN cu d a b => one cu 0x10 (d ++ a ++ b ++ (14 : BitVec 6))
  | .maxN cu d a b => one cu 0x10 (d ++ a ++ b ++ (15 : BitVec 6))
  | .cmpEq cu d a b => one cu 0x10 (d ++ a ++ b ++ (16 : BitVec 6))
  | .cmpNe cu d a b => one cu 0x10 (d ++ a ++ b ++ (17 : BitVec 6))
  | .cmpLtI cu d a b => one cu 0x10 (d ++ a ++ b ++ (18 : BitVec 6))
  | .cmpGeI cu d a b => one cu 0x10 (d ++ a ++ b ++ (19 : BitVec 6))
  | .cmpLtN cu d a b => one cu 0x10 (d ++ a ++ b ++ (20 : BitVec 6))
  | .cmpGeN cu d a b => one cu 0x10 (d ++ a ++ b ++ (21 : BitVec 6))
  | .mov cu d a => one cu 0x11 (d ++ a ++ (0 : BitVec 11))
  | .popc cu d a => one cu 0x11 (d ++ a ++ (1 : BitVec 11))
  | .clz cu d a => one cu 0x11 (d ++ a ++ (2 : BitVec 11))
  | .ctz cu d a => one cu 0x11 (d ++ a ++ (3 : BitVec 11))
  | .sel cu d a b c => one cu 0x11 (d ++ a ++ b ++ (1 : BitVec 4) ++ c)
  | .bext cu d a b => one cu 0x11 (d ++ a ++ b ++ (8 : BitVec 6))
  | .bins cu d a b => one cu 0x11 (d ++ a ++ b ++ (9 : BitVec 6))
  | .divI cu d a b => one cu 0x12 (d ++ a ++ b ++ (0 : BitVec 6))
  | .divN cu d a b => one cu 0x12 (d ++ a ++ b ++ (1 : BitVec 6))
  | .remI cu d a b => one cu 0x12 (d ++ a ++ b ++ (2 : BitVec 6))
  | .remN cu d a b => one cu 0x12 (d ++ a ++ b ++ (3 : BitVec 6))
  | .addi cu d a imm => one cu 0x14 (d ++ a ++ imm)
  | .shli cu d a n => one cu 0x15 (d ++ a ++ (0 : BitVec 6) ++ n)
  | .shri cu d a n => one cu 0x15 (d ++ a ++ (16 : BitVec 6) ++ n)
  | .srai cu d a n => one cu 0x15 (d ++ a ++ (32 : BitVec 6) ++ n)
  | .li cu d imm => two cu 0x16 (d ++ (0 : BitVec 12) ++ imm.extractLsb' 28 4) (imm.extractLsb' 0 28)
  | .ctrRd cu d idx hi fn => one cu 0x17 (d ++ idx ++ (0 : BitVec 4) ++ BitVec.ofBool hi ++ fn)
  | .fadd cu d a b rnd => one cu 0x18 (d ++ a ++ b ++ rnd ++ (0 : BitVec 4))
  | .fsub cu d a b rnd => one cu 0x18 (d ++ a ++ b ++ rnd ++ (1 : BitVec 4))
  | .fmul cu d a b rnd => one cu 0x18 (d ++ a ++ b ++ rnd ++ (2 : BitVec 4))
  | .fmin cu d a b => one cu 0x18 (d ++ a ++ b ++ (3 : BitVec 6))
  | .fmax cu d a b => one cu 0x18 (d ++ a ++ b ++ (4 : BitVec 6))
  | .fcmpEq cu d a b => one cu 0x18 (d ++ a ++ b ++ (5 : BitVec 6))
  | .fcmpLt cu d a b => one cu 0x18 (d ++ a ++ b ++ (6 : BitVec 6))
  | .fcmpLe cu d a b => one cu 0x18 (d ++ a ++ b ++ (7 : BitVec 6))
  | .fcmpUn cu d a b => one cu 0x18 (d ++ a ++ b ++ (8 : BitVec 6))
  | .fsgn cu d a b => one cu 0x18 (d ++ a ++ b ++ (9 : BitVec 6))
  | .fsgnN cu d a b => one cu 0x18 (d ++ a ++ b ++ (10 : BitVec 6))
  | .fsgnX cu d a b => one cu 0x18 (d ++ a ++ b ++ (11 : BitVec 6))
  | .fcvtI32F32 cu d a rnd => one cu 0x18 (d ++ a ++ (0 : BitVec 5) ++ rnd ++ (12 : BitVec 4))
  | .fcvtN32F32 cu d a rnd => one cu 0x18 (d ++ a ++ (0 : BitVec 5) ++ rnd ++ (13 : BitVec 4))
  | .fcvtF32I32 cu d a rnd => one cu 0x18 (d ++ a ++ (0 : BitVec 5) ++ rnd ++ (14 : BitVec 4))
  | .fcvtF32N32 cu d a rnd => one cu 0x18 (d ++ a ++ (0 : BitVec 5) ++ rnd ++ (15 : BitVec 4))
  | .fma cu d a b r e => two cu 0x19 (d ++ a ++ b ++ (0 : BitVec 6)) ((0 : BitVec 21) ++ r ++ e)
  | .fdiv cu d a b rnd => one cu 0x1a (d ++ a ++ b ++ rnd ++ (0 : BitVec 4))
  | .fsqrt cu d a rnd => one cu 0x1a (d ++ a ++ (0 : BitVec 5) ++ rnd ++ (1 : BitVec 4))
  | .fsqrtCk cu d a rnd c => one cu 0x1a (d ++ a ++ (0 : BitVec 5) ++ rnd ++ c ++ (2 : BitVec 2))
  | .frsq cu d a rnd => one cu 0x1a (d ++ a ++ (0 : BitVec 5) ++ rnd ++ (3 : BitVec 4))
  | .aadd cu d a b => one cu 0x1d (d ++ a ++ b ++ (0 : BitVec 6))
  | .aaddi cu d a imm => one cu 0x1e (d ++ a ++ imm)
  | .aset cu d a b => one cu 0x1f (d ++ a ++ b ++ (0 : BitVec 6))
  | .agetLo cu d a => one cu 0x1f (d ++ a ++ (1 : BitVec 11))
  | .agetHi cu d a => one cu 0x1f (d ++ a ++ (2 : BitVec 11))
  | .vadd cu d a b t p => one cu 0x20 (d ++ a ++ b ++ t ++ p)
  | .vsub cu d a b t p => one cu 0x21 (d ++ a ++ b ++ t ++ p)
  | .vmul cu d a b t p => one cu 0x22 (d ++ a ++ b ++ t ++ p)
  | .vfma cu d a b t p => one cu 0x23 (d ++ a ++ b ++ t ++ p)
  | .vmin cu d a b t p => one cu 0x24 (d ++ a ++ b ++ t ++ p)
  | .vmax cu d a b t p => one cu 0x25 (d ++ a ++ b ++ t ++ p)
  | .vabs cu d a t p => one cu 0x26 (d ++ a ++ (0 : BitVec 5) ++ t ++ p)
  | .vneg cu d a t p => one cu 0x26 (d ++ a ++ (1 : BitVec 5) ++ t ++ p)
  | .vmov cu d a t p => one cu 0x26 (d ++ a ++ (2 : BitVec 5) ++ t ++ p)
  | .vexp2 cu d a t p => one cu 0x26 (d ++ a ++ (3 : BitVec 5) ++ t ++ p)
  | .vlog2 cu d a t p => one cu 0x26 (d ++ a ++ (4 : BitVec 5) ++ t ++ p)
  | .vrcp cu d a t p => one cu 0x26 (d ++ a ++ (5 : BitVec 5) ++ t ++ p)
  | .vrsq cu d a t p => one cu 0x26 (d ++ a ++ (6 : BitVec 5) ++ t ++ p)
  | .vsig cu d a t p => one cu 0x26 (d ++ a ++ (7 : BitVec 5) ++ t ++ p)
  | .vlogic cu d a b t p lut => two cu 0x27 (d ++ a ++ b ++ t ++ p) ((0 : BitVec 24) ++ lut)
  | .vshl cu d a b t p => one cu 0x28 (d ++ a ++ b ++ t ++ p)
  | .vshr cu d a b t p => one cu 0x29 (d ++ a ++ b ++ t ++ p)
  | .vsra cu d a b t p => one cu 0x2a (d ++ a ++ b ++ t ++ p)
  | .vcmp cu d a b t p cond => two cu 0x2b (d ++ a ++ b ++ t ++ p) ((0 : BitVec 25) ++ cond)
  | .vsel cu d a b t p => one cu 0x2c (d ++ a ++ b ++ t ++ p)
  | .vsplat cu d a t p => one cu 0x2d (d ++ a ++ (0 : BitVec 5) ++ t ++ p)
  | .vext cu d a t imm r k => two cu 0x2e (d ++ a ++ (0 : BitVec 5) ++ t ++ (0 : BitVec 3)) ((0 : BitVec 11) ++ k ++ BitVec.ofBool r ++ imm)
  | .vins cu d a t imm r k => two cu 0x2f (d ++ a ++ (0 : BitVec 5) ++ t ++ (0 : BitVec 3)) ((0 : BitVec 11) ++ k ++ BitVec.ofBool r ++ imm)
  | .viota cu d a b t p => one cu 0x30 (d ++ a ++ b ++ t ++ p)
  | .vperm cu d a b t p => one cu 0x31 (d ++ a ++ b ++ t ++ p)
  | .vshuf cu d a b t p pat => two cu 0x32 (d ++ a ++ b ++ t ++ p) ((0 : BitVec 25) ++ pat)
  | .vslide cu d a b t p imm r k up => two cu 0x33 (d ++ a ++ b ++ t ++ p) ((0 : BitVec 10) ++ BitVec.ofBool up ++ k ++ BitVec.ofBool r ++ imm)
  | .vcvt cu d a t p fs fd rnd ds => two cu 0x34 (d ++ a ++ (0 : BitVec 5) ++ t ++ p) ((0 : BitVec 17) ++ BitVec.ofBool ds ++ rnd ++ fd ++ fs)
  | .vwiden cu d a p fs fd rnd => two cu 0x35 (d ++ a ++ (0 : BitVec 8) ++ p) ((0 : BitVec 18) ++ rnd ++ fd ++ fs)
  | .vnarrow cu d a p fs fd rnd ds => two cu 0x36 (d ++ a ++ (0 : BitVec 8) ++ p) ((0 : BitVec 17) ++ BitVec.ofBool ds ++ rnd ++ fd ++ fs)
  | .vscl cu d a b fmt setm => two cu 0x37 (d ++ a ++ b ++ (0 : BitVec 6)) ((0 : BitVec 23) ++ BitVec.ofBool setm ++ fmt)
  | .vscld cu d a b setm => two cu 0x38 (d ++ a ++ b ++ (0 : BitVec 6)) ((0 : BitVec 27) ++ BitVec.ofBool setm)
  | .vredsum cu d a t p rnd o => two cu 0x39 (d ++ a ++ (0 : BitVec 5) ++ t ++ p) (BitVec.ofBool o ++ (0 : BitVec 17) ++ rnd ++ (0 : BitVec 8))
  | .vredmax cu d a t p => one cu 0x3a (d ++ a ++ (0 : BitVec 5) ++ t ++ p)
  | .vredmin cu d a t p => one cu 0x3b (d ++ a ++ (0 : BitVec 5) ++ t ++ p)
  | .vdot cu d a b p fs lg rnd o => two cu 0x3c (d ++ a ++ b ++ (0 : BitVec 3) ++ p) (BitVec.ofBool o ++ (0 : BitVec 17) ++ rnd ++ lg ++ fs)
  | .vsortkv cu d a b t p desc uns => two cu 0x3d (d ++ a ++ b ++ t ++ p) ((0 : BitVec 26) ++ BitVec.ofBool uns ++ BitVec.ofBool desc)
  | .vsegsum cu d a b t p rnd o => two cu 0x3e (d ++ a ++ b ++ t ++ p) (BitVec.ofBool o ++ (0 : BitVec 17) ++ rnd ++ (0 : BitVec 8))
  | .vcmprs cu d a t p => one cu 0x3f (d ++ a ++ (0 : BitVec 5) ++ t ++ p)
  | .smxStep cu d a b p lg init bf => two cu 0x40 (d ++ a ++ b ++ (0 : BitVec 3) ++ p) ((0 : BitVec 23) ++ BitVec.ofBool bf ++ BitVec.ofBool init ++ lg)
  | .smxFin cu d a b p j scl => two cu 0x41 (d ++ a ++ b ++ (0 : BitVec 3) ++ p) ((0 : BitVec 22) ++ BitVec.ofBool scl ++ j)
  | .plogic cu d a b p lut => two cu 0x42 (d ++ a ++ b ++ (0 : BitVec 3) ++ p) ((0 : BitVec 24) ++ lut)
  | .pany cu d a t p => one cu 0x43 (d ++ a ++ (0 : BitVec 5) ++ t ++ p)
  | .pall cu d a t p => one cu 0x44 (d ++ a ++ (0 : BitVec 5) ++ t ++ p)
  | .pcnt cu d a t p => one cu 0x45 (d ++ a ++ (0 : BitVec 5) ++ t ++ p)
  | .pfirst cu d a t p => one cu 0x46 (d ++ a ++ (0 : BitVec 5) ++ t ++ p)
  | .psetn cu d a t p => one cu 0x47 (d ++ a ++ (0 : BitVec 5) ++ t ++ p)
  | .spStat cu d a b m0 mc fs fb scl alm => two cu 0x48 (d ++ a ++ b ++ m0) ((0 : BitVec 11) ++ BitVec.ofBool alm ++ BitVec.ofBool scl ++ fb ++ fs ++ mc)
  | .spPlain cu d m0 mc g => two cu 0x49 (d ++ (0 : BitVec 10) ++ m0) ((0 : BitVec 20) ++ BitVec.ofBool g ++ mc)
  | .mmFeed cu d a b fs as alm w n => two cu 0x4a (d ++ a ++ b ++ BitVec.ofBool alm ++ BitVec.ofBool as ++ fs) ((0 : BitVec 22) ++ n ++ w)
  | .mmPass cu d a kd w nv row0 f => two cu 0x4b (d ++ a ++ (0 : BitVec 5) ++ w ++ kd) ((0 : BitVec 17) ++ BitVec.ofBool f ++ row0 ++ nv)
  | .mmTile cu d n => one cu 0x4c (d ++ (0 : BitVec 13) ++ n)
  | .mmZero cu d => one cu 0x4d (d ++ (0 : BitVec 16))
  | .mmDrain cu d a b tile fd rnd ds alm row0 nr => two cu 0x4e (d ++ a ++ b ++ (0 : BitVec 3) ++ tile) ((0 : BitVec 10) ++ nr ++ row0 ++ BitVec.ofBool alm ++ BitVec.ofBool ds ++ rnd ++ fd)
  | .mmRd cu d a b tile row col i => two cu 0x4f (d ++ a ++ b ++ (0 : BitVec 3) ++ tile) ((0 : BitVec 14) ++ BitVec.ofBool i ++ col ++ row)
  | .ldSp cu q base off => one cu 0x50 (q ++ base ++ (0 : BitVec 2) ++ off)
  | .stSp cu base off => one cu 0x51 ((31 : BitVec 5) ++ base ++ (0 : BitVec 2) ++ off)
  | .bkAdd cu d a b nb ft len rnd => two cu 0x52 (d ++ a ++ b ++ nb) ((0 : BitVec 11) ++ rnd ++ len ++ ft)
  | .bkMul cu d a b nb ft len rnd => two cu 0x53 (d ++ a ++ b ++ nb) ((0 : BitVec 11) ++ rnd ++ len ++ ft)
  | .bkFma cu d a b nb ft len rnd => two cu 0x54 (d ++ a ++ b ++ nb) ((0 : BitVec 11) ++ rnd ++ len ++ ft)
  | .bkMax cu d a b nb ft len => two cu 0x55 (d ++ a ++ b ++ nb) ((0 : BitVec 13) ++ len ++ ft)
  | .bkMin cu d a b nb ft len => two cu 0x56 (d ++ a ++ b ++ nb) ((0 : BitVec 13) ++ len ++ ft)
  | .bkScale cu d a nb ft len rnd k => two cu 0x57 (d ++ a ++ (0 : BitVec 5) ++ nb) ((0 : BitVec 6) ++ k ++ rnd ++ len ++ ft)
  | .bkExpsum cu d a b nb ft len rnd k o => two cu 0x58 (d ++ a ++ b ++ nb) (BitVec.ofBool o ++ (0 : BitVec 5) ++ k ++ rnd ++ len ++ ft)
  | .bkRed cu d a nb ft len rnd op acc o => two cu 0x59 (d ++ a ++ (0 : BitVec 5) ++ nb) (BitVec.ofBool o ++ (0 : BitVec 2) ++ BitVec.ofBool acc ++ op ++ (0 : BitVec 5) ++ rnd ++ len ++ ft)
  | .bkCvt cu d a nb ft len rnd fs => two cu 0x5a (d ++ a ++ (0 : BitVec 5) ++ nb) ((0 : BitVec 2) ++ fs ++ (0 : BitVec 5) ++ rnd ++ len ++ ft)
  | .bkFill cu d nb ft len k => two cu 0x5b (d ++ (0 : BitVec 10) ++ nb) ((0 : BitVec 6) ++ k ++ (0 : BitVec 2) ++ len ++ ft)
  | .bkCopy cu d a len => two cu 0x5c (d ++ a ++ (0 : BitVec 11)) ((0 : BitVec 13) ++ len ++ (0 : BitVec 4))
  | .curtPrep cu d g => one cu 0x5d (d ++ (0 : BitVec 12) ++ g)
  | .curtWait cu d st tst g => one cu 0x5e (d ++ (0 : BitVec 10) ++ BitVec.ofBool st ++ BitVec.ofBool tst ++ g)
  | .digRd cu d a wt out w => one cu 0x5f (d ++ a ++ (0 : BitVec 7) ++ BitVec.ofBool wt ++ BitVec.ofBool out ++ w)
  | .ld cu q base hint off => one cu 0x60 (q ++ base ++ hint ++ off)
  | .lds cu q base hint off => one cu 0x61 (q ++ base ++ hint ++ off)
  | .st cu q base off => one cu 0x62 (q ++ base ++ (0 : BitVec 2) ++ off)
  | .sts cu q base f4 off => one cu 0x63 (q ++ base ++ f4 ++ off)
  | .gather cu q base hint off idx es sh => two cu 0x64 (q ++ base ++ hint ++ off) ((0 : BitVec 16) ++ sh ++ es ++ idx)
  | .scatter cu q base off idx es sh o => two cu 0x65 (q ++ base ++ (0 : BitVec 2) ++ off) (BitVec.ofBool o ++ (0 : BitVec 15) ++ sh ++ es ++ idx)
  | .pf cu q base hint off => one cu 0x66 (q ++ base ++ hint ++ off)
  | .cpy cu q base off dst len => two cu 0x67 (q ++ base ++ (0 : BitVec 2) ++ off) ((0 : BitVec 19) ++ len ++ dst)
  | .cpy2d cu q base off dst len rows ss ds => two cu 0x68 (q ++ base ++ (0 : BitVec 2) ++ off) ((0 : BitVec 4) ++ ds ++ ss ++ rows ++ len ++ dst)
  | .atOp cu q base off v op sc => two cu 0x69 (q ++ base ++ (0 : BitVec 2) ++ off) ((0 : BitVec 1) ++ sc ++ (0 : BitVec 16) ++ op ++ v)
  | .cas cu q base off cr n sc => two cu 0x6a (q ++ base ++ (0 : BitVec 2) ++ off) ((0 : BitVec 1) ++ sc ++ (0 : BitVec 14) ++ n ++ cr)
  | .red cu q base off idx op v ix sh sc o => two cu 0x6b (q ++ base ++ (0 : BitVec 2) ++ off) (BitVec.ofBool o ++ sc ++ (0 : BitVec 9) ++ sh ++ BitVec.ofBool ix ++ BitVec.ofBool v ++ op ++ idx)
  | .protSet cu d a b grp pb sr ur paired stall => two cu 0x6c (d ++ a ++ b ++ (0 : BitVec 2) ++ grp) ((0 : BitVec 12) ++ BitVec.ofBool stall ++ BitVec.ofBool paired ++ ur ++ sr ++ pb)
  | .protClr cu d => one cu 0x6d (d ++ (0 : BitVec 16))
  | .fenceAcq cu sc => one cu 0x6e ((1 : BitVec 18) ++ sc)
  | .fenceRel cu sc => one cu 0x6e ((2 : BitVec 18) ++ sc)
  | .fenceAr cu sc => one cu 0x6e ((3 : BitVec 18) ++ sc)
  | .drain cu => one cu 0x6f ((0 : BitVec 21))
  | .ldacq cu sc q base hint off => one cu 0x70 (sc ++ q ++ base ++ hint ++ off)
  | .strel cu sc q base off => one cu 0x71 (sc ++ q ++ base ++ (0 : BitVec 2) ++ off)
  | .lqskip cu d n => one cu 0x72 (d ++ (0 : BitVec 14) ++ n)
  | .colStart cu d a b n kind op set dg root o => two cu 0x73 (d ++ a ++ b ++ (0 : BitVec 1) ++ n) (BitVec.ofBool o ++ (0 : BitVec 11) ++ root ++ BitVec.ofBool dg ++ set ++ op ++ kind)
  | .colWait cu d a tst => one cu 0x74 (d ++ a ++ (0 : BitVec 10) ++ BitVec.ofBool tst)
  | .flogOld cu d w => one cu 0x75 (d ++ (0 : BitVec 13) ++ w)
  | .flogStat cu d clr => one cu 0x75 (d ++ (1 : BitVec 12) ++ BitVec.ofBool clr ++ (0 : BitVec 3))
  | .flogSeq cu d a w => one cu 0x75 (d ++ a ++ (4 : BitVec 8) ++ w)
  | .flogPop cu d a => one cu 0x75 (d ++ a ++ (48 : BitVec 11))
  | .actSpawn cu a => one cu 0x76 ((0 : BitVec 5) ++ a ++ (0 : BitVec 11))
  | .actNext cu d a b => one cu 0x77 (d ++ a ++ b ++ (0 : BitVec 6))
  | .actYield cu => one cu 0x78 ((0 : BitVec 21))
  | .actEnd cu => one cu 0x79 ((0 : BitVec 21))
  | .lnch cu d a => one cu 0x7a (d ++ a ++ (0 : BitVec 11))
  | .almW cu a b e ri => two cu 0x7b ((0 : BitVec 5) ++ a ++ b ++ (0 : BitVec 6)) ((0 : BitVec 23) ++ BitVec.ofBool ri ++ e)
  | .semSig cu a b sc => one cu 0x7c ((0 : BitVec 5) ++ a ++ b ++ (0 : BitVec 3) ++ sc)
  | .semSigSet cu a b sc => one cu 0x7c ((0 : BitVec 5) ++ a ++ b ++ (1 : BitVec 3) ++ sc)
  | .semWait cu a b sc imm i => two cu 0x7d ((0 : BitVec 5) ++ a ++ b ++ (0 : BitVec 3) ++ sc) ((0 : BitVec 1) ++ BitVec.ofBool i ++ imm)
  | .semRd cu d a sc => one cu 0x7e (d ++ a ++ (0 : BitVec 8) ++ sc)
  | .cwait cu a ch => one cu 0x7f ((0 : BitVec 5) ++ a ++ (0 : BitVec 8) ++ ch)
  | .illop _ _ => []
  | .backEdgeDecision _ => []
  | .instructionComplete _ => []
  | .heldOperationLeave _ => []
  | .hubOperationPerform _ => []
  | .generationAdvance _ => []
  | .semSignalPerform _ => []
  | .semWaitYieldTest _ => []
  | .intermissionRequest _ => []
  | .priorityWaitExpiry _ _ => []
  | .stealRequest _ => []
  | .upsetReport _ => []
  | .bankCommandStart _ => []
  | .copySectorTransfer _ => []
  | .collectivePerform _ _ _ _ => []
  | .digestMessage _ _ _ _ _ => []
  | .tlbMissWalk _ _ => []
  | .cowResolution _ _ _ => []
  | .invalidation _ _ _ => []
  | .contextCreation _ _ _ _ _ _ => []
  | .ringRegistration _ _ _ _ _ => []
  | .doorbell _ _ => []
  | .slotMapping _ => []
  | .launch _ => []
  | .level _ => []
  | .fence _ => []
  | .cancel _ => []
  | .cancelComplete _ => []
  | .startBarrier _ _ _ => []
  | .launchCompletion _ => []
  | .codingGroupConfig _ _ _ => []
  | .replicaConfig _ _ _ => []
  | .keyTableWrite _ _ _ _ => []
  | .sceneLoad _ _ => []
  | .registerWrite _ _ => []
  | .delta _ _ _ _ _ _ => []
  | .deltaAck _ _ _ => []
  | .endOfDeltas _ _ _ => []
  | .staged _ _ _ _ => []
  | .abort _ _ _ => []
  | .exch _ _ _ _ _ _ => []
  | .applyDone _ _ => []
  | .rollbackDone _ _ => []
  | .rebuild _ _ _ => []
  | .rebuildComplete _ _ _ => []
  | .reopen _ _ => []
  | .lossPoint _ _ => []
  | .peerAccess _ _ _ _ _ _ => []
  | .remoteResponse _ => []
  | .hostRead _ _ => []
  | .hostWrite _ _ => []
  | .energyAccrual _ _ _ => []
  | .creditRefill _ _ _ => []
  | .sceneUnload _ _ => []
  | .coreReplacement _ => []
  | .dirtyLineEviction _ _ => []
  | .scrubRead _ _ => []
  | .forcedRefresh _ _ => []
  | .refresh _ _ => []
  | .requestPromotion _ _ => []
  | .slotIdleExpiry _ => []
  | .countingWindowEnd _ => []
  | .laneFailure _ => []
  | .linkIdleTimeout _ => []
  | .peerLossNotice _ _ => []
  | .admtail _ => []
  | .admbase _ => []
  | .linkWidthChange _ => []
  | .backInvalidateResponse _ => []
  | .biasFlip _ _ => []
  | .understudyNaming _ _ _ => []
  | .priorityClassWrite _ _ => []
  | .contextEnd _ => []
  | .firmwareLoad _ _ _ => []
  | .attestationRequest _ => []
  | .checkpoint _ _ => []
  | .restore _ _ _ => []
  | .energyBudgetWrite _ => []
  | .bringUp _ => []
  | .hostKeyWindowWrite _ _ _ => []
  | .slotWaitExpiry _ => []
  | .linkLevelRetry _ => []
  | .cartenRetrainDone _ => []
  | .cuePointPass => []
  | .actPlacement => []
  | .actEndRendezvous => []
  | .actYieldRendezvous => []
  | .fullImageSuspension => []
  | .regionExpiry => []
  | .stealRestExpiry => []
  | .slowResultDelivery => []
  | .deadlock => []
  | .globalWritePerform => []
  | .globalLoadPerform => []
  | .atomicPerform => []
  | .reductionPerform => []
  | .brkResume => []
  | .hrel => []
  | .hostReleaseComplete => []
  | .hostLinkLoss => []
  | .handoverSwitch => []
  | .thermalStop => []
  | .powerLoss => []
  | .hostLinkDown => []
  | .hostLinkUp => []
  | .hostRetrainDone => []
  | .correctedSramError => []

/-- The instructions of the group of opcode 0x06, by function field (R64, R65). -/
def candGroup06 (cu : Cue) (f : BitVec 21) : Option Instr :=
  match (f.extractLsb' 18 1).toNat with
  | 0x1 => some (.loopImmediate cu (f.extractLsb' 19 2) (f.extractLsb' 10 8) (f.extractLsb' 0 10))
  | 0x0 => some (.loopRegister cu (f.extractLsb' 19 2) (f.extractLsb' 10 5) (f.extractLsb' 0 10))
  | _ => none

/-- The instructions of the group of opcode 0x10, by function field (R64, R65). -/
def candGroup10 (cu : Cue) (f : BitVec 21) : Option Instr :=
  match (f.extractLsb' 0 5).toNat with
  | 0x0 => some (.add cu (f.extractLsb' 16 5) (f.extractLsb' 11 5) (f.extractLsb' 6 5))
  | 0x1 => some (.sub cu (f.extractLsb' 16 5) (f.extractLsb' 11 5) (f.extractLsb' 6 5))
  | 0x2 => some (.mul cu (f.extractLsb' 16 5) (f.extractLsb' 11 5) (f.extractLsb' 6 5))
  | 0x3 => some (.mulh cu (f.extractLsb' 16 5) (f.extractLsb' 11 5) (f.extractLsb' 6 5))
  | 0x4 => some (.mulhn cu (f.extractLsb' 16 5) (f.extractLsb' 11 5) (f.extractLsb' 6 5))
  | 0x5 => some (.and cu (f.extractLsb' 16 5) (f.extractLsb' 11 5) (f.extractLsb' 6 5))
  | 0x6 => some (.or cu (f.extractLsb' 16 5) (f.extractLsb' 11 5) (f.extractLsb' 6 5))
  | 0x7 => some (.xor cu (f.extractLsb' 16 5) (f.extractLsb' 11 5) (f.extractLsb' 6 5))
  | 0x8 => some (.andn cu (f.extractLsb' 16 5) (f.extractLsb' 11 5) (f.extractLsb' 6 5))
  | 0x9 => some (.shl cu (f.extractLsb' 16 5) (f.extractLsb' 11 5) (f.extractLsb' 6 5))
  | 0xa => some (.shr cu (f.extractLsb' 16 5) (f.extractLsb' 11 5) (f.extractLsb' 6 5))
  | 0xb => some (.sra cu (f.extractLsb' 16 5) (f.extractLsb' 11 5) (f.extractLsb' 6 5))
  | 0xc => some (.minI cu (f.extractLsb' 16 5) (f.extractLsb' 11 5) (f.extractLsb' 6 5))
  | 0xd => some (.maxI cu (f.extractLsb' 16 5) (f.extractLsb' 11 5) (f.extractLsb' 6 5))
  | 0xe => some (.minN cu (f.extractLsb' 16 5) (f.extractLsb' 11 5) (f.extractLsb' 6 5))
  | 0xf => some (.maxN cu (f.extractLsb' 16 5) (f.extractLsb' 11 5) (f.extractLsb' 6 5))
  | 0x10 => some (.cmpEq cu (f.extractLsb' 16 5) (f.extractLsb' 11 5) (f.extractLsb' 6 5))
  | 0x11 => some (.cmpNe cu (f.extractLsb' 16 5) (f.extractLsb' 11 5) (f.extractLsb' 6 5))
  | 0x12 => some (.cmpLtI cu (f.extractLsb' 16 5) (f.extractLsb' 11 5) (f.extractLsb' 6 5))
  | 0x13 => some (.cmpGeI cu (f.extractLsb' 16 5) (f.extractLsb' 11 5) (f.extractLsb' 6 5))
  | 0x14 => some (.cmpLtN cu (f.extractLsb' 16 5) (f.extractLsb' 11 5) (f.extractLsb' 6 5))
  | 0x15 => some (.cmpGeN cu (f.extractLsb' 16 5) (f.extractLsb' 11 5) (f.extractLsb' 6 5))
  | _ => none

/-- The instructions of the group of opcode 0x11, by function field (R64, R65). -/
def candGroup11 (cu : Cue) (f : BitVec 21) : Option Instr :=
  match (f.extractLsb' 0 4).toNat with
  | 0x0 => some (.mov cu (f.extractLsb' 16 5) (f.extractLsb' 11 5))
  | 0x1 => some (.popc cu (f.extractLsb' 16 5) (f.extractLsb' 11 5))
  | 0x2 => some (.clz cu (f.extractLsb' 16 5) (f.extractLsb' 11 5))
  | 0x3 => some (.ctz cu (f.extractLsb' 16 5) (f.extractLsb' 11 5))
  | 0x4 => some (.sel cu (f.extractLsb' 16 5) (f.extractLsb' 11 5) (f.extractLsb' 6 5) (f.extractLsb' 0 2))
  | 0x5 => some (.sel cu (f.extractLsb' 16 5) (f.extractLsb' 11 5) (f.extractLsb' 6 5) (f.extractLsb' 0 2))
  | 0x6 => some (.sel cu (f.extractLsb' 16 5) (f.extractLsb' 11 5) (f.extractLsb' 6 5) (f.extractLsb' 0 2))
  | 0x7 => some (.sel cu (f.extractLsb' 16 5) (f.extractLsb' 11 5) (f.extractLsb' 6 5) (f.extractLsb' 0 2))
  | 0x8 => some (.bext cu (f.extractLsb' 16 5) (f.extractLsb' 11 5) (f.extractLsb' 6 5))
  | 0x9 => some (.bins cu (f.extractLsb' 16 5) (f.extractLsb' 11 5) (f.extractLsb' 6 5))
  | _ => none

/-- The instructions of the group of opcode 0x12, by function field (R64, R65). -/
def candGroup12 (cu : Cue) (f : BitVec 21) : Option Instr :=
  match (f.extractLsb' 0 2).toNat with
  | 0x0 => some (.divI cu (f.extractLsb' 16 5) (f.extractLsb' 11 5) (f.extractLsb' 6 5))
  | 0x1 => some (.divN cu (f.extractLsb' 16 5) (f.extractLsb' 11 5) (f.extractLsb' 6 5))
  | 0x2 => some (.remI cu (f.extractLsb' 16 5) (f.extractLsb' 11 5) (f.extractLsb' 6 5))
  | 0x3 => some (.remN cu (f.extractLsb' 16 5) (f.extractLsb' 11 5) (f.extractLsb' 6 5))
  | _ => none

/-- The instructions of the group of opcode 0x15, by function field (R64, R65). -/
def candGroup15 (cu : Cue) (f : BitVec 21) : Option Instr :=
  match (f.extractLsb' 9 2).toNat with
  | 0x0 => some (.shli cu (f.extractLsb' 16 5) (f.extractLsb' 11 5) (f.extractLsb' 0 5))
  | 0x1 => some (.shri cu (f.extractLsb' 16 5) (f.extractLsb' 11 5) (f.extractLsb' 0 5))
  | 0x2 => some (.srai cu (f.extractLsb' 16 5) (f.extractLsb' 11 5) (f.extractLsb' 0 5))
  | _ => none

/-- The instructions of the group of opcode 0x18, by function field (R64, R65). -/
def candGroup18 (cu : Cue) (f : BitVec 21) : Option Instr :=
  match (f.extractLsb' 0 4).toNat with
  | 0x0 => some (.fadd cu (f.extractLsb' 16 5) (f.extractLsb' 11 5) (f.extractLsb' 6 5) (f.extractLsb' 4 2))
  | 0x1 => some (.fsub cu (f.extractLsb' 16 5) (f.extractLsb' 11 5) (f.extractLsb' 6 5) (f.extractLsb' 4 2))
  | 0x2 => some (.fmul cu (f.extractLsb' 16 5) (f.extractLsb' 11 5) (f.extractLsb' 6 5) (f.extractLsb' 4 2))
  | 0x3 => some (.fmin cu (f.extractLsb' 16 5) (f.extractLsb' 11 5) (f.extractLsb' 6 5))
  | 0x4 => some (.fmax cu (f.extractLsb' 16 5) (f.extractLsb' 11 5) (f.extractLsb' 6 5))
  | 0x5 => some (.fcmpEq cu (f.extractLsb' 16 5) (f.extractLsb' 11 5) (f.extractLsb' 6 5))
  | 0x6 => some (.fcmpLt cu (f.extractLsb' 16 5) (f.extractLsb' 11 5) (f.extractLsb' 6 5))
  | 0x7 => some (.fcmpLe cu (f.extractLsb' 16 5) (f.extractLsb' 11 5) (f.extractLsb' 6 5))
  | 0x8 => some (.fcmpUn cu (f.extractLsb' 16 5) (f.extractLsb' 11 5) (f.extractLsb' 6 5))
  | 0x9 => some (.fsgn cu (f.extractLsb' 16 5) (f.extractLsb' 11 5) (f.extractLsb' 6 5))
  | 0xa => some (.fsgnN cu (f.extractLsb' 16 5) (f.extractLsb' 11 5) (f.extractLsb' 6 5))
  | 0xb => some (.fsgnX cu (f.extractLsb' 16 5) (f.extractLsb' 11 5) (f.extractLsb' 6 5))
  | 0xc => some (.fcvtI32F32 cu (f.extractLsb' 16 5) (f.extractLsb' 11 5) (f.extractLsb' 4 2))
  | 0xd => some (.fcvtN32F32 cu (f.extractLsb' 16 5) (f.extractLsb' 11 5) (f.extractLsb' 4 2))
  | 0xe => some (.fcvtF32I32 cu (f.extractLsb' 16 5) (f.extractLsb' 11 5) (f.extractLsb' 4 2))
  | 0xf => some (.fcvtF32N32 cu (f.extractLsb' 16 5) (f.extractLsb' 11 5) (f.extractLsb' 4 2))
  | _ => none

/-- The instructions of the group of opcode 0x1a, by function field (R64, R65). -/
def candGroup1A (cu : Cue) (f : BitVec 21) : Option Instr :=
  match (f.extractLsb' 0 2).toNat with
  | 0x0 => some (.fdiv cu (f.extractLsb' 16 5) (f.extractLsb' 11 5) (f.extractLsb' 6 5) (f.extractLsb' 4 2))
  | 0x1 => some (.fsqrt cu (f.extractLsb' 16 5) (f.extractLsb' 11 5) (f.extractLsb' 4 2))
  | 0x2 => some (.fsqrtCk cu (f.extractLsb' 16 5) (f.extractLsb' 11 5) (f.extractLsb' 4 2) (f.extractLsb' 2 2))
  | 0x3 => some (.frsq cu (f.extractLsb' 16 5) (f.extractLsb' 11 5) (f.extractLsb' 4 2))
  | _ => none

/-- The instructions of the group of opcode 0x1f, by function field (R64, R65). -/
def candGroup1F (cu : Cue) (f : BitVec 21) : Option Instr :=
  match (f.extractLsb' 0 2).toNat with
  | 0x0 => some (.aset cu (f.extractLsb' 16 5) (f.extractLsb' 11 5) (f.extractLsb' 6 5))
  | 0x1 => some (.agetLo cu (f.extractLsb' 16 5) (f.extractLsb' 11 5))
  | 0x2 => some (.agetHi cu (f.extractLsb' 16 5) (f.extractLsb' 11 5))
  | _ => none

/-- The instructions of the group of opcode 0x26, by function field (R64, R65). -/
def candGroup26 (cu : Cue) (f : BitVec 21) : Option Instr :=
  match (f.extractLsb' 6 3).toNat with
  | 0x0 => some (.vabs cu (f.extractLsb' 16 5) (f.extractLsb' 11 5) (f.extractLsb' 3 3) (f.extractLsb' 0 3))
  | 0x1 => some (.vneg cu (f.extractLsb' 16 5) (f.extractLsb' 11 5) (f.extractLsb' 3 3) (f.extractLsb' 0 3))
  | 0x2 => some (.vmov cu (f.extractLsb' 16 5) (f.extractLsb' 11 5) (f.extractLsb' 3 3) (f.extractLsb' 0 3))
  | 0x3 => some (.vexp2 cu (f.extractLsb' 16 5) (f.extractLsb' 11 5) (f.extractLsb' 3 3) (f.extractLsb' 0 3))
  | 0x4 => some (.vlog2 cu (f.extractLsb' 16 5) (f.extractLsb' 11 5) (f.extractLsb' 3 3) (f.extractLsb' 0 3))
  | 0x5 => some (.vrcp cu (f.extractLsb' 16 5) (f.extractLsb' 11 5) (f.extractLsb' 3 3) (f.extractLsb' 0 3))
  | 0x6 => some (.vrsq cu (f.extractLsb' 16 5) (f.extractLsb' 11 5) (f.extractLsb' 3 3) (f.extractLsb' 0 3))
  | 0x7 => some (.vsig cu (f.extractLsb' 16 5) (f.extractLsb' 11 5) (f.extractLsb' 3 3) (f.extractLsb' 0 3))
  | _ => none

/-- The instructions of the group of opcode 0x6e, by function field (R64, R65). -/
def candGroup6E (cu : Cue) (f : BitVec 21) : Option Instr :=
  match (f.extractLsb' 3 2).toNat with
  | 0x1 => some (.fenceAcq cu (f.extractLsb' 0 3))
  | 0x2 => some (.fenceRel cu (f.extractLsb' 0 3))
  | 0x3 => some (.fenceAr cu (f.extractLsb' 0 3))
  | _ => none

/-- The instructions of the group of opcode 0x75, by function field (R64, R65). -/
def candGroup75 (cu : Cue) (f : BitVec 21) : Option Instr :=
  match (f.extractLsb' 4 2).toNat with
  | 0x0 => some (.flogOld cu (f.extractLsb' 16 5) (f.extractLsb' 0 3))
  | 0x1 => some (.flogStat cu (f.extractLsb' 16 5) (f.getLsbD 3))
  | 0x2 => some (.flogSeq cu (f.extractLsb' 16 5) (f.extractLsb' 11 5) (f.extractLsb' 0 3))
  | 0x3 => some (.flogPop cu (f.extractLsb' 16 5) (f.extractLsb' 11 5))
  | _ => none

/-- The instructions of the group of opcode 0x7c, by function field (R64, R65). -/
def candGroup7C (cu : Cue) (f : BitVec 21) : Option Instr :=
  match (f.extractLsb' 3 1).toNat with
  | 0x0 => some (.semSig cu (f.extractLsb' 11 5) (f.extractLsb' 6 5) (f.extractLsb' 0 3))
  | 0x1 => some (.semSigSet cu (f.extractLsb' 11 5) (f.extractLsb' 6 5) (f.extractLsb' 0 3))
  | _ => none

/-- The candidate instruction of an opcode and its fields; which reserved values it holds is checked after (R69). -/
def candidate (cu : Cue) (op : BitVec 7) (f : BitVec 21) (x : BitVec 28) : Option Instr :=
  match op.toNat with
  | 0x01 => some (.nop cu)
  | 0x02 => some (.cue cu (f.extractLsb' 0 13))
  | 0x03 => some (.bprep cu (f.extractLsb' 16 2) (f.extractLsb' 0 13))
  | 0x04 => some (.br cu (f.extractLsb' 19 2) (f.extractLsb' 17 2) (f.extractLsb' 14 3))
  | 0x05 => some (.bl cu (f.extractLsb' 19 2) (f.extractLsb' 17 2) (f.extractLsb' 14 3) (f.extractLsb' 9 5))
  | 0x06 => candGroup06 cu f
  | 0x07 => some (.loopx cu (f.extractLsb' 19 2) (f.extractLsb' 15 2) (f.extractLsb' 10 5) (f.extractLsb' 0 10))
  | 0x08 => some (.trap cu (f.extractLsb' 0 16))
  | 0x09 => some (.tokw cu (f.extractLsb' 4 4) (f.extractLsb' 0 4))
  | 0x0a => some (.toks cu (f.extractLsb' 4 4) (f.extractLsb' 0 4))
  | 0x0b => some (.brk cu (f.extractLsb' 0 16))
  | 0x0c => some (.csrr cu (f.extractLsb' 16 5) (f.extractLsb' 0 11))
  | 0x0d => some (.csrw cu (f.extractLsb' 16 5) (f.extractLsb' 11 5) (f.extractLsb' 0 11))
  | 0x0e => some (.csrs cu (f.extractLsb' 16 5) (f.extractLsb' 11 5) (f.extractLsb' 0 11))
  | 0x0f => some (.csrc cu (f.extractLsb' 16 5) (f.extractLsb' 11 5) (f.extractLsb' 0 11))
  | 0x10 => candGroup10 cu f
  | 0x11 => candGroup11 cu f
  | 0x12 => candGroup12 cu f
  | 0x14 => some (.addi cu (f.extractLsb' 16 5) (f.extractLsb' 11 5) (f.extractLsb' 0 11))
  | 0x15 => candGroup15 cu f
  | 0x16 => some (.li cu (f.extractLsb' 16 5) (f.extractLsb' 0 4 ++ x))
  | 0x17 => some (.ctrRd cu (f.extractLsb' 16 5) (f.extractLsb' 11 5) (f.getLsbD 6) (f.extractLsb' 0 6))
  | 0x18 => candGroup18 cu f
  | 0x19 => some (.fma cu (f.extractLsb' 16 5) (f.extractLsb' 11 5) (f.extractLsb' 6 5) (x.extractLsb' 5 2) (x.extractLsb' 0 5))
  | 0x1a => candGroup1A cu f
  | 0x1d => some (.aadd cu (f.extractLsb' 16 5) (f.extractLsb' 11 5) (f.extractLsb' 6 5))
  | 0x1e => some (.aaddi cu (f.extractLsb' 16 5) (f.extractLsb' 11 5) (f.extractLsb' 0 11))
  | 0x1f => candGroup1F cu f
  | 0x20 => some (.vadd cu (f.extractLsb' 16 5) (f.extractLsb' 11 5) (f.extractLsb' 6 5) (f.extractLsb' 3 3) (f.extractLsb' 0 3))
  | 0x21 => some (.vsub cu (f.extractLsb' 16 5) (f.extractLsb' 11 5) (f.extractLsb' 6 5) (f.extractLsb' 3 3) (f.extractLsb' 0 3))
  | 0x22 => some (.vmul cu (f.extractLsb' 16 5) (f.extractLsb' 11 5) (f.extractLsb' 6 5) (f.extractLsb' 3 3) (f.extractLsb' 0 3))
  | 0x23 => some (.vfma cu (f.extractLsb' 16 5) (f.extractLsb' 11 5) (f.extractLsb' 6 5) (f.extractLsb' 3 3) (f.extractLsb' 0 3))
  | 0x24 => some (.vmin cu (f.extractLsb' 16 5) (f.extractLsb' 11 5) (f.extractLsb' 6 5) (f.extractLsb' 3 3) (f.extractLsb' 0 3))
  | 0x25 => some (.vmax cu (f.extractLsb' 16 5) (f.extractLsb' 11 5) (f.extractLsb' 6 5) (f.extractLsb' 3 3) (f.extractLsb' 0 3))
  | 0x26 => candGroup26 cu f
  | 0x27 => some (.vlogic cu (f.extractLsb' 16 5) (f.extractLsb' 11 5) (f.extractLsb' 6 5) (f.extractLsb' 3 3) (f.extractLsb' 0 3) (x.extractLsb' 0 4))
  | 0x28 => some (.vshl cu (f.extractLsb' 16 5) (f.extractLsb' 11 5) (f.extractLsb' 6 5) (f.extractLsb' 3 3) (f.extractLsb' 0 3))
  | 0x29 => some (.vshr cu (f.extractLsb' 16 5) (f.extractLsb' 11 5) (f.extractLsb' 6 5) (f.extractLsb' 3 3) (f.extractLsb' 0 3))
  | 0x2a => some (.vsra cu (f.extractLsb' 16 5) (f.extractLsb' 11 5) (f.extractLsb' 6 5) (f.extractLsb' 3 3) (f.extractLsb' 0 3))
  | 0x2b => some (.vcmp cu (f.extractLsb' 16 5) (f.extractLsb' 11 5) (f.extractLsb' 6 5) (f.extractLsb' 3 3) (f.extractLsb' 0 3) (x.extractLsb' 0 3))
  | 0x2c => some (.vsel cu (f.extractLsb' 16 5) (f.extractLsb' 11 5) (f.extractLsb' 6 5) (f.extractLsb' 3 3) (f.extractLsb' 0 3))
  | 0x2d => some (.vsplat cu (f.extractLsb' 16 5) (f.extractLsb' 11 5) (f.extractLsb' 3 3) (f.extractLsb' 0 3))
  | 0x2e => some (.vext cu (f.extractLsb' 16 5) (f.extractLsb' 11 5) (f.extractLsb' 3 3) (x.extractLsb' 0 11) (x.getLsbD 11) (x.extractLsb' 12 5))
  | 0x2f => some (.vins cu (f.extractLsb' 16 5) (f.extractLsb' 11 5) (f.extractLsb' 3 3) (x.extractLsb' 0 11) (x.getLsbD 11) (x.extractLsb' 12 5))
  | 0x30 => some (.viota cu (f.extractLsb' 16 5) (f.extractLsb' 11 5) (f.extractLsb' 6 5) (f.extractLsb' 3 3) (f.extractLsb' 0 3))
  | 0x31 => some (.vperm cu (f.extractLsb' 16 5) (f.extractLsb' 11 5) (f.extractLsb' 6 5) (f.extractLsb' 3 3) (f.extractLsb' 0 3))
  | 0x32 => some (.vshuf cu (f.extractLsb' 16 5) (f.extractLsb' 11 5) (f.extractLsb' 6 5) (f.extractLsb' 3 3) (f.extractLsb' 0 3) (x.extractLsb' 0 3))
  | 0x33 => some (.vslide cu (f.extractLsb' 16 5) (f.extractLsb' 11 5) (f.extractLsb' 6 5) (f.extractLsb' 3 3) (f.extractLsb' 0 3) (x.extractLsb' 0 11) (x.getLsbD 11) (x.extractLsb' 12 5) (x.getLsbD 17))
  | 0x34 => some (.vcvt cu (f.extractLsb' 16 5) (f.extractLsb' 11 5) (f.extractLsb' 3 3) (f.extractLsb' 0 3) (x.extractLsb' 0 4) (x.extractLsb' 4 4) (x.extractLsb' 8 2) (x.getLsbD 10))
  | 0x35 => some (.vwiden cu (f.extractLsb' 16 5) (f.extractLsb' 11 5) (f.extractLsb' 0 3) (x.extractLsb' 0 4) (x.extractLsb' 4 4) (x.extractLsb' 8 2))
  | 0x36 => some (.vnarrow cu (f.extractLsb' 16 5) (f.extractLsb' 11 5) (f.extractLsb' 0 3) (x.extractLsb' 0 4) (x.extractLsb' 4 4) (x.extractLsb' 8 2) (x.getLsbD 10))
  | 0x37 => some (.vscl cu (f.extractLsb' 16 5) (f.extractLsb' 11 5) (f.extractLsb' 6 5) (x.extractLsb' 0 4) (x.getLsbD 4))
  | 0x38 => some (.vscld cu (f.extractLsb' 16 5) (f.extractLsb' 11 5) (f.extractLsb' 6 5) (x.getLsbD 0))
  | 0x39 => some (.vredsum cu (f.extractLsb' 16 5) (f.extractLsb' 11 5) (f.extractLsb' 3 3) (f.extractLsb' 0 3) (x.extractLsb' 8 2) (x.getLsbD 27))
  | 0x3a => some (.vredmax cu (f.extractLsb' 16 5) (f.extractLsb' 11 5) (f.extractLsb' 3 3) (f.extractLsb' 0 3))
  | 0x3b => some (.vredmin cu (f.extractLsb' 16 5) (f.extractLsb' 11 5) (f.extractLsb' 3 3) (f.extractLsb' 0 3))
  | 0x3c => some (.vdot cu (f.extractLsb' 16 5) (f.extractLsb' 11 5) (f.extractLsb' 6 5) (f.extractLsb' 0 3) (x.extractLsb' 0 4) (x.extractLsb' 4 4) (x.extractLsb' 8 2) (x.getLsbD 27))
  | 0x3d => some (.vsortkv cu (f.extractLsb' 16 5) (f.extractLsb' 11 5) (f.extractLsb' 6 5) (f.extractLsb' 3 3) (f.extractLsb' 0 3) (x.getLsbD 0) (x.getLsbD 1))
  | 0x3e => some (.vsegsum cu (f.extractLsb' 16 5) (f.extractLsb' 11 5) (f.extractLsb' 6 5) (f.extractLsb' 3 3) (f.extractLsb' 0 3) (x.extractLsb' 8 2) (x.getLsbD 27))
  | 0x3f => some (.vcmprs cu (f.extractLsb' 16 5) (f.extractLsb' 11 5) (f.extractLsb' 3 3) (f.extractLsb' 0 3))
  | 0x40 => some (.smxStep cu (f.extractLsb' 16 5) (f.extractLsb' 11 5) (f.extractLsb' 6 5) (f.extractLsb' 0 3) (x.extractLsb' 0 3) (x.getLsbD 3) (x.getLsbD 4))
  | 0x41 => some (.smxFin cu (f.extractLsb' 16 5) (f.extractLsb' 11 5) (f.extractLsb' 6 5) (f.extractLsb' 0 3) (x.extractLsb' 0 5) (x.getLsbD 5))
  | 0x42 => some (.plogic cu (f.extractLsb' 16 5) (f.extractLsb' 11 5) (f.extractLsb' 6 5) (f.extractLsb' 0 3) (x.extractLsb' 0 4))
  | 0x43 => some (.pany cu (f.extractLsb' 16 5) (f.extractLsb' 11 5) (f.extractLsb' 3 3) (f.extractLsb' 0 3))
  | 0x44 => some (.pall cu (f.extractLsb' 16 5) (f.extractLsb' 11 5) (f.extractLsb' 3 3) (f.extractLsb' 0 3))
  | 0x45 => some (.pcnt cu (f.extractLsb' 16 5) (f.extractLsb' 11 5) (f.extractLsb' 3 3) (f.extractLsb' 0 3))
  | 0x46 => some (.pfirst cu (f.extractLsb' 16 5) (f.extractLsb' 11 5) (f.extractLsb' 3 3) (f.extractLsb' 0 3))
  | 0x47 => some (.psetn cu (f.extractLsb' 16 5) (f.extractLsb' 11 5) (f.extractLsb' 3 3) (f.extractLsb' 0 3))
  | 0x48 => some (.spStat cu (f.extractLsb' 16 5) (f.extractLsb' 11 5) (f.extractLsb' 6 5) (f.extractLsb' 0 6) (x.extractLsb' 0 7) (x.extractLsb' 7 4) (x.extractLsb' 11 4) (x.getLsbD 15) (x.getLsbD 16))
  | 0x49 => some (.spPlain cu (f.extractLsb' 16 5) (f.extractLsb' 0 6) (x.extractLsb' 0 7) (x.getLsbD 7))
  | 0x4a => some (.mmFeed cu (f.extractLsb' 16 5) (f.extractLsb' 11 5) (f.extractLsb' 6 5) (f.extractLsb' 0 4) (f.getLsbD 4) (f.getLsbD 5) (x.extractLsb' 0 3) (x.extractLsb' 3 3))
  | 0x4b => some (.mmPass cu (f.extractLsb' 16 5) (f.extractLsb' 11 5) (f.extractLsb' 0 3) (f.extractLsb' 3 3) (x.extractLsb' 0 5) (x.extractLsb' 5 5) (x.getLsbD 10))
  | 0x4c => some (.mmTile cu (f.extractLsb' 16 5) (f.extractLsb' 0 3))
  | 0x4d => some (.mmZero cu (f.extractLsb' 16 5))
  | 0x4e => some (.mmDrain cu (f.extractLsb' 16 5) (f.extractLsb' 11 5) (f.extractLsb' 6 5) (f.extractLsb' 0 3) (x.extractLsb' 0 4) (x.extractLsb' 4 2) (x.getLsbD 6) (x.getLsbD 7) (x.extractLsb' 8 5) (x.extractLsb' 13 5))
  | 0x4f => some (.mmRd cu (f.extractLsb' 16 5) (f.extractLsb' 11 5) (f.extractLsb' 6 5) (f.extractLsb' 0 3) (x.extractLsb' 0 5) (x.extractLsb' 5 8) (x.getLsbD 13))
  | 0x50 => some (.ldSp cu (f.extractLsb' 16 5) (f.extractLsb' 11 5) (f.extractLsb' 0 9))
  | 0x51 => some (.stSp cu (f.extractLsb' 11 5) (f.extractLsb' 0 9))
  | 0x52 => some (.bkAdd cu (f.extractLsb' 16 5) (f.extractLsb' 11 5) (f.extractLsb' 6 5) (f.extractLsb' 0 6) (x.extractLsb' 0 4) (x.extractLsb' 4 11) (x.extractLsb' 15 2))
  | 0x53 => some (.bkMul cu (f.extractLsb' 16 5) (f.extractLsb' 11 5) (f.extractLsb' 6 5) (f.extractLsb' 0 6) (x.extractLsb' 0 4) (x.extractLsb' 4 11) (x.extractLsb' 15 2))
  | 0x54 => some (.bkFma cu (f.extractLsb' 16 5) (f.extractLsb' 11 5) (f.extractLsb' 6 5) (f.extractLsb' 0 6) (x.extractLsb' 0 4) (x.extractLsb' 4 11) (x.extractLsb' 15 2))
  | 0x55 => some (.bkMax cu (f.extractLsb' 16 5) (f.extractLsb' 11 5) (f.extractLsb' 6 5) (f.extractLsb' 0 6) (x.extractLsb' 0 4) (x.extractLsb' 4 11))
  | 0x56 => some (.bkMin cu (f.extractLsb' 16 5) (f.extractLsb' 11 5) (f.extractLsb' 6 5) (f.extractLsb' 0 6) (x.extractLsb' 0 4) (x.extractLsb' 4 11))
  | 0x57 => some (.bkScale cu (f.extractLsb' 16 5) (f.extractLsb' 11 5) (f.extractLsb' 0 6) (x.extractLsb' 0 4) (x.extractLsb' 4 11) (x.extractLsb' 15 2) (x.extractLsb' 17 5))
  | 0x58 => some (.bkExpsum cu (f.extractLsb' 16 5) (f.extractLsb' 11 5) (f.extractLsb' 6 5) (f.extractLsb' 0 6) (x.extractLsb' 0 4) (x.extractLsb' 4 11) (x.extractLsb' 15 2) (x.extractLsb' 17 5) (x.getLsbD 27))
  | 0x59 => some (.bkRed cu (f.extractLsb' 16 5) (f.extractLsb' 11 5) (f.extractLsb' 0 6) (x.extractLsb' 0 4) (x.extractLsb' 4 11) (x.extractLsb' 15 2) (x.extractLsb' 22 2) (x.getLsbD 24) (x.getLsbD 27))
  | 0x5a => some (.bkCvt cu (f.extractLsb' 16 5) (f.extractLsb' 11 5) (f.extractLsb' 0 6) (x.extractLsb' 0 4) (x.extractLsb' 4 11) (x.extractLsb' 15 2) (x.extractLsb' 22 4))
  | 0x5b => some (.bkFill cu (f.extractLsb' 16 5) (f.extractLsb' 0 6) (x.extractLsb' 0 4) (x.extractLsb' 4 11) (x.extractLsb' 17 5))
  | 0x5c => some (.bkCopy cu (f.extractLsb' 16 5) (f.extractLsb' 11 5) (x.extractLsb' 4 11))
  | 0x5d => some (.curtPrep cu (f.extractLsb' 16 5) (f.extractLsb' 0 4))
  | 0x5e => some (.curtWait cu (f.extractLsb' 16 5) (f.getLsbD 5) (f.getLsbD 4) (f.extractLsb' 0 4))
  | 0x5f => some (.digRd cu (f.extractLsb' 16 5) (f.extractLsb' 11 5) (f.getLsbD 3) (f.getLsbD 2) (f.extractLsb' 0 2))
  | 0x60 => some (.ld cu (f.extractLsb' 16 5) (f.extractLsb' 11 5) (f.extractLsb' 9 2) (f.extractLsb' 0 9))
  | 0x61 => some (.lds cu (f.extractLsb' 16 5) (f.extractLsb' 11 5) (f.extractLsb' 9 2) (f.extractLsb' 0 9))
  | 0x62 => some (.st cu (f.extractLsb' 16 5) (f.extractLsb' 11 5) (f.extractLsb' 0 9))
  | 0x63 => some (.sts cu (f.extractLsb' 16 5) (f.extractLsb' 11 5) (f.extractLsb' 9 2) (f.extractLsb' 0 9))
  | 0x64 => some (.gather cu (f.extractLsb' 16 5) (f.extractLsb' 11 5) (f.extractLsb' 9 2) (f.extractLsb' 0 9) (x.extractLsb' 0 5) (x.extractLsb' 5 2) (x.extractLsb' 7 5))
  | 0x65 => some (.scatter cu (f.extractLsb' 16 5) (f.extractLsb' 11 5) (f.extractLsb' 0 9) (x.extractLsb' 0 5) (x.extractLsb' 5 2) (x.extractLsb' 7 5) (x.getLsbD 27))
  | 0x66 => some (.pf cu (f.extractLsb' 16 5) (f.extractLsb' 11 5) (f.extractLsb' 9 2) (f.extractLsb' 0 9))
  | 0x67 => some (.cpy cu (f.extractLsb' 16 5) (f.extractLsb' 11 5) (f.extractLsb' 0 9) (x.extractLsb' 0 4) (x.extractLsb' 4 5))
  | 0x68 => some (.cpy2d cu (f.extractLsb' 16 5) (f.extractLsb' 11 5) (f.extractLsb' 0 9) (x.extractLsb' 0 4) (x.extractLsb' 4 5) (x.extractLsb' 9 5) (x.extractLsb' 14 5) (x.extractLsb' 19 5))
  | 0x69 => some (.atOp cu (f.extractLsb' 16 5) (f.extractLsb' 11 5) (f.extractLsb' 0 9) (x.extractLsb' 0 5) (x.extractLsb' 5 3) (x.extractLsb' 24 3))
  | 0x6a => some (.cas cu (f.extractLsb' 16 5) (f.extractLsb' 11 5) (f.extractLsb' 0 9) (x.extractLsb' 0 5) (x.extractLsb' 5 5) (x.extractLsb' 24 3))
  | 0x6b => some (.red cu (f.extractLsb' 16 5) (f.extractLsb' 11 5) (f.extractLsb' 0 9) (x.extractLsb' 0 5) (x.extractLsb' 5 3) (x.getLsbD 8) (x.getLsbD 9) (x.extractLsb' 10 5) (x.extractLsb' 24 3) (x.getLsbD 27))
  | 0x6c => some (.protSet cu (f.extractLsb' 16 5) (f.extractLsb' 11 5) (f.extractLsb' 6 5) (f.extractLsb' 0 4) (x.extractLsb' 0 4) (x.extractLsb' 4 5) (x.extractLsb' 9 5) (x.getLsbD 14) (x.getLsbD 15))
  | 0x6d => some (.protClr cu (f.extractLsb' 16 5))
  | 0x6e => candGroup6E cu f
  | 0x6f => some (.drain cu)
  | 0x70 => some (.ldacq cu (f.extractLsb' 18 3) (f.extractLsb' 16 2) (f.extractLsb' 11 5) (f.extractLsb' 9 2) (f.extractLsb' 0 9))
  | 0x71 => some (.strel cu (f.extractLsb' 18 3) (f.extractLsb' 16 2) (f.extractLsb' 11 5) (f.extractLsb' 0 9))
  | 0x72 => some (.lqskip cu (f.extractLsb' 16 5) (f.extractLsb' 0 2))
  | 0x73 => some (.colStart cu (f.extractLsb' 16 5) (f.extractLsb' 11 5) (f.extractLsb' 6 5) (f.extractLsb' 0 5) (x.extractLsb' 0 2) (x.extractLsb' 2 3) (x.extractLsb' 5 4) (x.getLsbD 9) (x.extractLsb' 10 6) (x.getLsbD 27))
  | 0x74 => some (.colWait cu (f.extractLsb' 16 5) (f.extractLsb' 11 5) (f.getLsbD 0))
  | 0x75 => candGroup75 cu f
  | 0x76 => some (.actSpawn cu (f.extractLsb' 11 5))
  | 0x77 => some (.actNext cu (f.extractLsb' 16 5) (f.extractLsb' 11 5) (f.extractLsb' 6 5))
  | 0x78 => some (.actYield cu)
  | 0x79 => some (.actEnd cu)
  | 0x7a => some (.lnch cu (f.extractLsb' 16 5) (f.extractLsb' 11 5))
  | 0x7b => some (.almW cu (f.extractLsb' 11 5) (f.extractLsb' 6 5) (x.extractLsb' 0 4) (x.getLsbD 4))
  | 0x7c => candGroup7C cu f
  | 0x7d => some (.semWait cu (f.extractLsb' 11 5) (f.extractLsb' 6 5) (f.extractLsb' 0 3) (x.extractLsb' 0 26) (x.getLsbD 26))
  | 0x7e => some (.semRd cu (f.extractLsb' 16 5) (f.extractLsb' 11 5) (f.extractLsb' 0 3))
  | 0x7f => some (.cwait cu (f.extractLsb' 11 5) (f.extractLsb' 0 3))
  | _ => none

/-- The words of an instruction that starts with first word w and, in format W, goes on with extension word x. -/
def wordsOf (w x : Word) : List Word := if isWide (opOf w) then [w, x] else [w]

/-- Decode a first word and the word after it (R60, R69 rows 2, 4 and 5). -/
def decode (w x : Word) : Except Reject Instr :=
  if opAssigned (opOf w) then
    if isWide (opOf w) && x.extractLsb' 28 4 != 0 then .error .extension
    else
      match candidate (cueOf w) (opOf w) (w.extractLsb' 0 21) (x.extractLsb' 0 28) with
      | none => .error .reserved
      | some i => if WellFormed i && decide (encode i = wordsOf w x) then .ok i else .error .reserved
  else .error .opcode

/-- How many words an instruction whose first word is w has (R48). -/
def lengthOf (w : Word) : Nat := if isWide (opOf w) then 2 else 1

/-- A word from four bytes, lowest address first (R4). -/
def wordOfBytes (b0 b1 b2 b3 : Byte) : Word := b3 ++ b2 ++ b1 ++ b0

/-- The four bytes of a word, lowest address first (R4). -/
def bytesOfWord (w : Word) : List Byte :=
  [w.extractLsb' 0 8, w.extractLsb' 8 8, w.extractLsb' 16 8, w.extractLsb' 24 8]

/-- Decode the bytes of a stream: the instruction and the bytes after it (R47, R60). Total on every list of bytes. -/
def decodeBytes : List Byte → Except Reject (Instr × List Byte)
  | b0 :: b1 :: b2 :: b3 :: rest =>
    let w := wordOfBytes b0 b1 b2 b3
    if isWide (opOf w) && opAssigned (opOf w) then
      match rest with
      | c0 :: c1 :: c2 :: c3 :: rest' =>
        match decode w (wordOfBytes c0 c1 c2 c3) with
        | .ok i => .ok (i, rest')
        | .error e => .error e
      | _ => .error .short
    else
      match decode w 0 with
      | .ok i => .ok (i, rest)
      | .error e => .error e
  | _ => .error .short

/-- The bytes of an instruction as instruction memory stores them (R4, R47). -/
def encodeBytes (i : Instr) : List Byte := (encode i).flatMap bytesOfWord

/-- The instruction the decoder reads from an instruction whose bits are w, bit 0 the least significant bit of the first
word, a second word's bits counting on from bit 32; bits above nbits are zero. -/
def decodeTableWord (nbits w : Nat) : Option Instr :=
  let v := w % 2 ^ nbits
  let first : Word := BitVec.ofNat 32 v
  let second : Word := BitVec.ofNat 32 (v / 2 ^ 32)
  match decodeBytes (bytesOfWord first ++ bytesOfWord second) with
  | .ok (i, _) => some i
  | .error _ => none

end Sys2Proof
end

