-- ==== Sys2Proof/Config.lean ====
section
/-! DEFINITION. What the spec leaves to the machine: free values (opaque, so that nothing can prove a value of one) and the
capacities of the module (R1). -/

namespace Sys2Proof.Config

/-- A free choice among outcomes that a rule allows (R9); applied to the counter State.free. Log 6. -/
opaque freeNat : Nat → Nat

/-- The byte of an unspecified scratchpad or scale-store location: epoch of the cue point that left it, address (R18,
R210). Log 8. -/
opaque freeByte : Nat → Nat → Byte

/-- A counter value the model does not count: cycles, and the cycles that pmc 6 to 9 count (R389). Log 3. -/
opaque freeCount : Nat → DWord

/-- The secrets of an XMSS tree, three strings of 32 bytes: seed of the chains, key of the randomizers, public seed. Tree 0 is the
identity tree, tree n + 1 the attestation tree of the bring-up with identity leaf n (R403; log 15). -/
opaque treeSecret : Nat → BitVec 768

/-- Cores of a die that programs see (R11). -/
def coresPerDie : Nat := 40

/-- Logical cores of the module (R1). -/
def cores : Nat := 160

/-- Bytes of stacked memory, 1 TiB (R1, R233). -/
def memBytes : Nat := 2 ^ 40

/-- Bytes of a core's scratchpad, 4 MiB (R1, R204). -/
def spBytes : Nat := 2 ^ 22

/-- Depth of an operand queue (R286). -/
def queueDepth : Nat := 8

/-- Depth of a token queue (R14, R287). -/
def tokenDepth : Nat := 16

/-- Depth of a copy channel's command queue (R297). -/
def copyDepth : Nat := 4

/-- Depth of a bank's command FIFO (R299). -/
def bankDepth : Nat := 8

/-- Snapshots that the undo ring keeps: at least the changes of 64 executing cycles (R200). Log 20. -/
def ringDepth : Nat := 256

/-- Depth of the fault log (R307). -/
def flogDepth : Nat := 256

/-- The capability register (R192): bits 0 to 15 are 1, bits 16 to 127 are 0. -/
def caps : BitVec 128 := 0xFFFF

/-- The chain values of the signature of the empty image with which the module starts, and the public root under which it verifies
with seed 0 (DESIGN CHOICE: log 15). -/
def factoryChains : List Nat :=
  [0xEB37A23B453E060DC337C2CE5CB66E29B75A1D474BFD54D6F72B6057FC70515D,
    0x0000000000000000000000000000000000000000000000000000000000000000,
    0x0896B6EB7290163EFC357A256861A1C4F1CFA68992D2D785CDC9872B66DDEBFD,
    0x0000000000000000000000000000000000000000000000000000000000000000,
    0xAA341D3EC665FB1C127D650D987F43C7C7808F18740FF5E4427E3298EDC7D414,
    0x45FD6684E98E526CD924F5C2A9AC4813CF4AE00D8F5AF507177C54BF49C24893,
    0x0000000000000000000000000000000000000000000000000000000000000000,
    0x114DCCE033CEFD814647F12D615646202F1652FA536EB52BE6ACBD259D6FDDC8,
    0xF9ED7B2BBF3A256324A8F88D47ED041EDACF8943ADA1E6998CC392B55B2610C9,
    0x54FCF5235092D23913425EFA185934C735CD55375F57959AEE07A59323CC7095,
    0x5474AE4407E4B16CABD9BBADEF64CF542D03889B6A64AD5784A59B44DED4260A,
    0xD9C477ACFA387EAEDFFF184E4EFC6C29C68D1E8150BED8C27CC33C27BAB02579] ++
   [0xEC41F2CBDED438B536E70BAF5F6ABA3EE2950C665F42F9F3228F3EB93BC7F3B3,
    0xCC3D66B9034311C81EA490222991F56F6417009D24B61CC347F7E2056735617A,
    0x5A673AC4A978F224FA1DA5589CC8E3B9A99A322CCA2DC4692A8AD1DAA0898B40,
    0x353562A38B4E981EF6DCFCB62145731087497B595A334E2E9CCF775F38483B39,
    0xC749B66B475BCFB08C9C8C31DD12502E77B0AF09FA071FA9FFB54B9B9D5324CB,
    0x0000000000000000000000000000000000000000000000000000000000000000,
    0x4853EAFD648394D8A0760A97DFEFB91162BA48084CA4BCD59EA5AB81F6DC875F,
    0x5E6A8EC0E1FCDDF15E3BF1A78B6F7079EA92E1DB75FAD0F279C0E3F557E5C50A,
    0x4616EC6E9F547A6ED7320B51D302C5F1EA4B9EA56312B73B1C252FA57C6409D4,
    0xC51F09B0F0058FC4FB2116331A5D4306553EC5B19035B256AC376CB9BC038BC0,
    0x7FF4A0F9B52A427C390014B85830C39E2020F1D5D7D543C3EC7952F4305A2F65,
    0x280340983EAF79FD0AB3B911509334CF8040E1EDF7EAB1E5AA3E9F926A97898A] ++
   [0x0BA1B7E73281F66746B9AA6D1C7E6A5D4F659FF227E3A2C9FE56C3F618E85F7F,
    0x65A5B5A490971B78F67F6B0CEFB8218EEE0FAB83BEDBEB601714E928F60DF6AA,
    0xA91D01161D902C046A984F2AF6427185F5E698FD623BD5A161FD829EDD717588,
    0x13FD2E3DF642D35AA66B199100DF9B76F2826C19052A6AAC8C63657E31F5D7F3,
    0x1126A6EC48F0AD2CB6310D301122F0D2F12C74D7A9DE4AEF9F1BF5B73001CA4C,
    0x0DAB3ED876D48A077ABC135EACB7F992D58F87CDF0F6C10926175E9139B053B5,
    0xADB26004D5605AE84FDDC3F0B7DE922244874C5A202DB3DE1492DC6AEBBDAAE5,
    0xCAEE68867984767F59E90E04E56C325AA918C02B7A93A4EACE634A06F1C7F72C,
    0xB7697D174B29CE8AE69458D215C7D67109C7BFFE3DEF5CDBED710EA4476036BA,
    0x96A296F9C0A18A29B18EBC08281A1E6DFFA08D77F1A3C62EEE30694712C95824,
    0x21F82E1994E75814F6E8D2BDB225DD2727A6E7B82A22BD3A5709177D76C2B92E,
    0x0000000000000000000000000000000000000000000000000000000000000000] ++
   [0x4E5057BFC8F640C7AEFFE0B82AF3F367BCBD4A698B6D6D16DB3FDD04923F9FFA,
    0xC40F0613CB2E527948206EFBF8384B191C91D44E57E7622C6040D996FD141330,
    0x668A7EEE2FE58A460C5C124090A9DA344CDA454E0D06AF7E09B661722E89AE67,
    0xEF12204C89AB826ED00946B1678B602CBDA2DF50C2574112989FDDEE1049DA4C,
    0xBFDFFFF1C5501E7D3752F12314B0A76195675DC470F070C8B376BF31E6FEA474,
    0x1D9676692D4D04DE7867F2279B138B734E7219BE4910FD5E3897F5D0F77546F0,
    0x947FFBE6F52176AF75C07E87320B18E7B687C81E1D2BA0D475AA068717BE234A,
    0x8AC780E2531A36501F251A45B2EE996A719294751BB77DE0FCB2DB8EB2A0B1BD,
    0x4B4AF7C6276ABEBB1FDE98045A490C4E8E8FEED02975EAD886FAD208424AB00A,
    0xF210DA945CE9815321DA062BF83A61F7572612A99F7B55B2ED0189A2D3F4A565,
    0xDDA614398BB7CB83F8E2AE8154A443C970FA19BFFE312DA3DC5C1AED78B198AE,
    0x0000000000000000000000000000000000000000000000000000000000000000] ++
   [0x8283C1F781B7BCA42D70A424AFC098A79B50F7B9324D859928E2DF31B0F39A6D,
    0x9AF58121E303B09E7348F8EFA182F68DAACF3750EAFA23DD406B34C60577B753,
    0xA09DEA23E150DC1702285379E57EC62EEC1636D9A45DC24551126D3BAADE6F17,
    0xFB918500BCCE2342D7D0F312042512CB3AEB559EE1321AD8C5F75349932A06D8,
    0xB325B6C058F47202D2D86A406F4CBCDBB9CFC54F6DD3A3419BA44658824C087C,
    0xE9DCD3A3EBA013F031495B0125147DF424D1420E53199B9F369ECD9A4180C022,
    0x16A1772A178DF7E39289E625E3965F5668368A40AD9D7322D952014ED3709B96,
    0xD6FF6CEAFA4C3DD57DC1D01DF0443FD25D734496E1BB496FA0D3F347773A876E,
    0x5EDFE9A8A1BB6F379DB683E530DED52398E97CA6165FB1C2546F1E174EB6832E,
    0xFDB4DDC2BCCB3446DF6EA8227891909BC37486934BCE583562B7A9357A7C0FD4,
    0x045BA178A68C3984FF14F411F4E658AC0385152797F9D12A17BA0F16EDC16BEC,
    0xF55E3F8366F022C412D7DA077D5B932D82AE15E24BF3E93F1B4DB12B7DFF7433] ++
   [0x7793BA49564B7BB2A63C335E6376F5FAA8F2A904A9DDEBD01DA89D2751FE7908,
    0x0000000000000000000000000000000000000000000000000000000000000000,
    0x0000000000000000000000000000000000000000000000000000000000000000,
    0x596B973DDDABBAF15F91629C4FC3E310F95BD8F3639C80570A65021725D26075,
    0xFD3AF69BA60C6C7C1CF92C804C59DBA4D29090EFDEE86E3FD19B408F82C0C1B1,
    0x0000000000000000000000000000000000000000000000000000000000000000,
    0xED35BCB5BBD32FB3BA8DB4A5A3E1059D82FFF800C15DCC5C4CD26A5B99F7C146]

/-- The signature of the empty image: leaf 0, randomizer 0, the chain values, and a path of zeros. -/
def factorySig : BitVec 22560 := BitVec.ofNat 22560 (factoryChains.foldl (fun v c => 2 ^ 256 * v + c) 0 * 2 ^ 5120)

/-- The public root under which it verifies. -/
def factoryRoot : BitVec 256 :=
  0xE3AA94F1198D19BA11277D6B4D5F6A569E367A0DA11F6EE93AA29230FD510294

end Sys2Proof.Config
end

