-- ==== Sys2Proof/Machine/State.lean ====
section
/-! DEFINITION. The state of the module: the focused core, the other cores, memory, the contexts and the hub, as plain
data; the reasons a step can stop; and the state after bring-up. -/

namespace Sys2Proof.Machine

open Sys2Proof

/-- A sparse map: keys strictly rising, no entry equal to what an unlisted key reads as. -/
abbrev Sparse (α : Type) := List (Nat × α)

/-- The reasons a step stops with a fault. -/
inductive Fault
  /-- Raised by step when the module has no power or its STATE is failed or stopped and the agenda is empty (R392, R397,
  R405): nothing can happen until a bring-up. Safe. -/
  | moduleStopped
deriving DecidableEq, Repr

/-- The reasons a step is refused. -/
inductive Refusal
  /-- Raised only by an arm of exec whose instruction has no meaning yet. Safe. -/
  | notModelled (mnemonic : String)
deriving DecidableEq, Repr

/-! ### Registers of an engine -/

/-- A loop level (R138). -/
structure LoopLevel where
  act : Bool
  cnt : Word
  iter : Word
  start : BitVec 13
  stop : BitVec 13
  xf : Option (BitVec 2)
  seq : Nat
  lstart : BitVec 13
  lend : BitVec 13
  pend : Bool
deriving DecidableEq, Repr

/-- Every field of a loop level zero (R138). -/
def LoopLevel.zero : LoopLevel := ⟨false, 0, 0, 0, 0, none, 0, 0, 0, false⟩

/-- What an instruction that waits at issue waits for (R292). -/
inductive Wait
  /-- This many tokens of the queue from the previous engine (true) or the next engine (false). -/
  | token (fromPrev : Bool) (need : Nat)
  /-- This many entries of load queue q. -/
  | lqEntry (q : Nat) (need : Nat)
  /-- Room in load queue q. -/
  | lqRoom (q : Nat)
  /-- This many entries of store queue q. -/
  | sqEntry (q : Nat) (need : Nat)
  /-- Room in store queue q. -/
  | sqRoom (q : Nat)
  /-- Room in the A row buffer, or vectors of an issued pass (R213). -/
  | rowBuffer
  /-- A free slot in the FIFOs of these banks (R299). -/
  | bankRoom (banks : List Nat)
  /-- The completion of the earlier instructions of B (R225). -/
  | earlier
  /-- The condition of `drain` (R278). -/
  | drain
  /-- A rendezvous with this index: `cue n`, 0x2000 `act.yield`, 0x2001 `act.end` (R17, R328). -/
  | rendezvous (index : Nat)
  /-- Memory, a semaphore, a collective, a channel, a round or a halt: never blocked (R292). -/
  | external
deriving DecidableEq, Repr

/-- An issued instruction of an engine whose completion or token pushes are not yet made (R289). -/
structure Retire where
  seq : Nat
  done : Bool
  sp : Nat
  sn : Nat
  /-- Instructions of A whose completion precedes its own pushes (R15, R273). -/
  known : List Nat
deriving DecidableEq, Repr

/-- The registers and the issue state of one engine (R13, R109). -/
structure EngState where
  /-- s0 to s31; index 0 is never read (R111). -/
  s : Vector Word 32
  /-- Condition flags c0 to c3 (R113). -/
  c : Vector Bool 4
  /-- Branch targets b0 to b3 (R114). -/
  bt : Vector (BitVec 13) 4
  /-- Loop levels lc0 to lc3 (R138). -/
  lc : Vector LoopLevel 4
  /-- The next entry-order number of a loop level (R138). -/
  loopSeq : Nat
  /-- Word address of the next instruction, 0 to 8,192 (R47, R63). -/
  pc : Nat
  /-- Delay slots still to issue (R136). -/
  slots : Nat
  /-- The target of a taken branch whose slots are still to issue (R135). -/
  redir : Option (BitVec 13)
  /-- End word of the last issued instruction, whose back-edge decision is still to be made (R141). -/
  backEdge : Option Nat
  /-- The next instruction has started: its tokens are popped (R288). -/
  started : Bool
  /-- Steps that the started instruction has made while it stays at issue, and its number. -/
  phase : Nat
  phaseSeq : Nat
  /-- The almanac entry as it stood when the next instruction's tokens were all present (R106, R288). -/
  alment : Word
  /-- What the next instruction waits for. -/
  wait : Option Wait
  /-- Rendezvous index at which the engine waits (R17, R328). -/
  rend : Option Nat
  /-- Issued instructions in issue order with their completions and pushes (R289). -/
  retire : List Retire
  cause : Word
  epc : Word
  tval0 : Word
  tval1 : Word
  tvec : Word
  /-- RIDX of X, M, B; A has none and its copy stays zero (R188). -/
  ridx : Word
  /-- ALMLVL of X, M, B; A has none and its copy stays zero (R188). -/
  almlvl : BitVec 2
  /-- Instruction memory, unlisted words 0 (R230). -/
  imem : Sparse Word
  /-- Words that carry the extension tag, ascending (R60). -/
  tags : List Nat
  /-- Instructions issued since bring-up (R389 code 0x01). -/
  issued : DWord
  /-- Claims that `act.next` has made in this engine since the act was placed (R326). -/
  claims : Nat
  /-- The engine issues nothing further: its act has ended (R195). -/
  stopped : Bool
deriving DecidableEq, Repr

/-- An engine after bring-up (R111, R114, R138, R186, R230). -/
def EngState.reset : EngState :=
  { s := Vector.replicate 32 0, c := Vector.replicate 4 false, bt := Vector.replicate 4 0,
    lc := Vector.replicate 4 LoopLevel.zero, loopSeq := 0, pc := 0, slots := 0, redir := none, backEdge := none,
    started := false, phase := 0, phaseSeq := 0, alment := 0, wait := none, rend := none, retire := [], cause := 0, epc := 0, tval0 := 0, tval1 := 0,
    tvec := 0, ridx := 0, almlvl := 0, imem := [], tags := [], issued := 0, claims := 0, stopped := false }

/-! ### Vector, matrix and queue state of a core -/

/-- A vector register or queue payload: 512 data bytes and a 32-byte sidecar (R146, R148). -/
structure VReg where
  data : BitVec 4096
  side : BitVec 256
deriving DecidableEq, Repr

/-- All bytes zero (R146). -/
def VReg.zero : VReg := ⟨0, 0⟩

/-- A load-queue entry: reserved by instruction `seq`, filled when its data have come, with its marks (R294, R295). -/
structure LEntry where
  seq : Nat
  filled : Bool
  val : VReg
  /-- Virtual address of the first poisoned sector (R260). -/
  poison : Option DWord
  /-- Virtual address of the first conflicting granule (R270). -/
  mmx : Option DWord
  /-- Virtual address of the first refused sector (R346). -/
  refused : Option DWord
deriving DecidableEq, Repr

/-- B format of a stationary macro (R205). -/
inductive BFmt
  | mxi8
  | mxi4
deriving DecidableEq, Repr

/-- A vector of the A row buffer: width, 256 aligned integers, 8 exponents, 8 bad marks (R211). -/
structure AVec where
  w : Nat
  a : List Int
  ea : List Int
  bad : List Bool
deriving DecidableEq, Repr

/-- A pass that has issued and still takes vectors (R214, R215). -/
structure PassRun where
  seq : Nat
  tile : Nat
  group : Nat
  /-- First macro and B format of the group, and its N-slices, as they stood at issue (R206, R228). -/
  first : Nat
  fmt : BFmt
  nd : Nat
  kd : Nat
  w : Nat
  nv : Nat
  row0 : Nat
  fused : Bool
  /-- Rows already formed, and the vectors taken for the next one. -/
  rows : Nat
  part : List AVec
deriving DecidableEq, Repr

/-- A retained command of the window, with what a replay needs of it (R218, R219). -/
inductive WinCmd
  | feed (vecs : List AVec)
  | pass (p : PassRun)
  | zero (tile : Nat)
  /-- `mm.drain`, `sp.stat` or `sp.plain`: it counts, and a replay repeats nothing of it. -/
  | other
deriving DecidableEq, Repr

/-- The mark of a stationary macro: group and B format (R205). -/
structure Mark where
  group : Nat
  fmt : BFmt
deriving DecidableEq, Repr

/-- What an unlisted byte of a range reads as: a fixed byte, or the free byte of an epoch (R18, R20, R210). -/
inductive FillVal
  | byte (b : Byte)
  | free (epoch : Nat)
deriving DecidableEq, Repr

/-- The bytes lo to hi - 1 were filled with a value. -/
structure Fill where
  lo : Nat
  hi : Nat
  val : FillVal
deriving DecidableEq, Repr

/-- A byte store whose unlisted bytes read as the newest fill that covers them, and as zero where none does (R204). -/
structure Scratch where
  cells : Sparse Byte
  fills : List Fill
deriving DecidableEq, Repr

/-- A pending slow result of X: counted instructions still to issue before delivery, destination, value, flags and the
condition flag of `fsqrt.ck` (R124, R125). -/
structure Slow where
  left : Nat
  dst : BitVec 5
  val : Word
  flags : BitVec 5
  cflag : Option (BitVec 2 × Bool)
deriving DecidableEq, Repr

/-! ### Global accesses -/

/-- A run of bytes of one access on one page: virtual address, physical address, length, position in the entry, scaled
mode and key of the translation (R241, R342). -/
structure Piece where
  va : DWord
  pa : BitVec 52
  len : Nat
  off : Nat
  sm : BitVec 2
  key : Byte
deriving DecidableEq, Repr

/-- What one instruction writes at one place (R242 to R249): bytes, with the scales of the sectors they touch where the page
is scaled, or one reduction of a word; `hold` says that it places a hold (R266). -/
inductive Job
  | write (p : Piece) (hold : Bool) (bytes : List Byte) (scales : List (BitVec 16))
  | rmw (p : Piece) (op : Nat) (hold : Bool) (v : Word)
deriving DecidableEq, Repr

/-- An operation performed at the hub, which returns its result to the register `d` (R201). -/
inductive HubOp
  | curtPrep (grp : Nat) (d : BitVec 5)
  | colStart (inp : DWord) (out : DWord) (count : Nat) (kind : BitVec 2) (op : BitVec 3) (set : Nat) (dg : Bool)
      (root : Nat) (ordered : Bool) (d : BitVec 5)
  | lnch (bytes : List Byte) (d : BitVec 5)
  /-- The reads of `lnch` and `act.spawn`, which their instructions wait for (R327, R329). -/
  | lnchRead (p : Piece)
  /-- A `sem.wait` for a value of a semaphore (R362, R364). -/
  | semWait (num : Nat) (v : Word)
  | flogPop (seq : Word) (d : BitVec 5)
  | flogStatClr (d : BitVec 5)
  | semRd (num : Nat) (d : BitVec 5)
  | spawn (p : Piece)
deriving DecidableEq, Repr

/-- A copy command of a channel and its progress (R250). -/
structure CopyCmd where
  seq : Nat
  src : DWord
  dst : DWord
  len : Nat
  rows : Nat
  ss : Int
  ds : Int
  row : Nat
  off : Nat
  /-- A request to a peer is outstanding: false for the read, true for the write (R251). -/
  sent : Option Bool
  /-- Data, scales and poison of a sector that a peer has returned, or the error value of a lost one. -/
  got : Option (BitVec 512 × BitVec 16 × Bool)
  /-- The data are the error value of a lost peer (R189, R251). -/
  ones : Bool
deriving DecidableEq, Repr

/-- A global access or held operation between its issue and its performance (R201, R264). -/
inductive AccKind
  /-- A load into queue q: its pieces still to read, whether the sidecar receives scales (R240), the reuse hint (R237), and
  whether the entry settles whole when a peer is lost (R396). -/
  | load (q : Nat) (pieces : List Piece) (scaled : Bool) (hint : BitVec 2) (whole : Bool)
  | write (jobs : List Job)
  | reduce (jobs : List Job)
  | atomic (p : Piece) (op : Nat) (cmp : Option Word) (v : Word) (d : BitVec 5)
  | copy (ch : Nat) (cmd : CopyCmd)
  /-- A release at a scope; once its generations have advanced, the peers whose homes have still to apply them (R267). -/
  | release (scope : Nat) (away : Option (List Nat))
  | semSig (sel : Word) (set : Bool) (v : Word)
  | hub (op : HubOp)
deriving DecidableEq, Repr

/-- One entry of the list of accesses in issue order. -/
structure Access where
  seq : Nat
  eng : Engine
  kind : AccKind
  /-- It has left the core (R201); an access that is not held counts as left. -/
  left : Bool
  /-- A request to a peer is outstanding (R346). -/
  sent : Bool
  /-- Parts of it that wait at a sequencer (R256). -/
  waits : Nat
  /-- A part of it was settled as an access to a lost peer (R251). -/
  lost : Bool
  /-- First conflicting, key-refused and protection-refused address of a write (R256, R270, R346). -/
  conf : Option DWord
  keyr : Option DWord
  protr : Option DWord
  /-- Instructions of A whose completion tokens or semaphores order before it (R273). -/
  known : List Nat
deriving DecidableEq, Repr

/-- A copy channel (R297, R365). -/
structure Channel where
  cwp : Word
  queue : List CopyCmd
deriving DecidableEq, Repr

/-- A drain to the scratchpad that has issued: its number and the writes it has still to make, each within one bank: address
and bytes (R220, R226). -/
structure SpDrain where
  seq : Nat
  parts : List (Nat × List Byte)
deriving DecidableEq, Repr

/-- A command in a bank's FIFO: the instruction with the register values it read at issue (R222, R299). -/
structure BankCmd where
  seq : Nat
  instr : Instr
  dv : Word
  av : Word
  bv : Word
  kv : Word
  ridx : Word
  /-- The entry of `st.sp`. -/
  data : BitVec 4096
deriving DecidableEq, Repr

/-! ### Acts -/

/-- An act record (R21). -/
structure ActRec where
  scene : Word
  cueix : BitVec 16
  flags : BitVec 16
  lo : Word
  hi : Word
  live : List Word
deriving DecidableEq, Repr

/-- What tokens have carried of the completion of A's instructions (R15, R273, log 32): every instruction under `floor` completed
before the last cue point; beside them the numbers that each token of each queue carries, oldest first, and those that each engine has
learnt. -/
structure Told where
  floor : Nat
  queues : Vector (List (List Nat)) 8
  engines : Vector (List Nat) 4
deriving DecidableEq, Repr

/-- Nothing carried; every instruction under n has completed. -/
def Told.start (n : Nat) : Told := ⟨n, Vector.replicate 8 [], Vector.replicate 4 []⟩

/-- The part of a core that an upset rolls back and a full image saves: registers, queues, row buffer, scratchpad, tiles,
operations not yet left (R200, R201). -/
structure Live where
  ea : EngState
  ex : EngState
  em : EngState
  eb : EngState
  /-- a0 to a15 (R112). -/
  a : Vector DWord 16
  /-- v0 to v27 (R146). -/
  v : Vector VReg 28
  /-- p0 to p7; index 0 is never read (R152). -/
  p : Vector (BitVec 1024) 8
  /-- Load queues lq0 to lq3, oldest first (R148). -/
  lq : Vector (List LEntry) 4
  /-- Store queues sq0 to sq3, oldest first (R148). -/
  sq : Vector (List VReg) 4
  /-- Token counts: AX, XA, XM, MX, MB, BM, BA, AB (R14). -/
  tok : Vector Nat 8
  told : Told
  /-- Accumulator tiles: element tile t, row i, column n at key 8192 t + 256 i + n, unlisted +0 (R180). -/
  tiles : Sparse Word
  accst : Word
  /-- WIN.CUR, CV, CNT, OVF (R190). -/
  winCur : BitVec 3
  winCv : Bool
  winCnt : Nat
  winOvf : Bool
  /-- First tile and tile count of the window's set (R217). -/
  winSet : Nat × Nat
  /-- Retained commands, oldest first, and the FIFO's contents at the marker (R218, R219). -/
  window : List WinCmd
  retained : List AVec
  /-- A macro read by a pass of the window has been written since, or a tile outside the set (R219). -/
  winBad : Bool
  /-- Macros read by passes of the window. -/
  winMacros : List Nat
  rowbuf : List AVec
  pass : Option PassRun
  /-- Issued `mm.drain`s to lq3, oldest first, with the entries still to push (R220). -/
  drains : List (Nat × List VReg)
  /-- Issued `mm.drain`s to the scratchpad, oldest first (R220, R227). -/
  spDrains : List SpDrain
  scratch : Scratch
  marks : Vector (Option Mark) 64
  /-- Scale stores, macro i at 4096 i (R205). -/
  scales : Scratch
  alm : Vector Word 16
  fpflags : BitVec 5
  lerr : BitVec 5
  slow : List Slow
  bankFifo : Vector (List BankCmd) 64
  /-- Bank parts an instruction still waits for: instruction and count (R225). -/
  bankLeft : List (Nat × Nat)
  acc : List Access
  /-- The register an outstanding held result will be written to: a later reader waits (R201). -/
  pendReg : List (Engine × BitVec 5)
  /-- The record that `lnch` has read and not yet entered (R329). -/
  record : List Byte
  /-- Next instruction number of the core. -/
  seq : Nat
deriving DecidableEq, Repr

/-- The live state after bring-up. -/
def Live.reset : Live :=
  { ea := .reset, ex := .reset, em := .reset, eb := .reset, a := Vector.replicate 16 0,
    v := Vector.replicate 28 VReg.zero, p := Vector.replicate 8 0, lq := Vector.replicate 4 [],
    sq := Vector.replicate 4 [], tok := Vector.replicate 8 0, told := .start 0, tiles := [], accst := 0, winCur := 0, winCv := false,
    winCnt := 0, winOvf := false, winSet := (0, 8), window := [], retained := [], winBad := false, winMacros := [],
    rowbuf := [], pass := none, drains := [], spDrains := [], scratch := ⟨[], []⟩, marks := Vector.replicate 64 none,
    scales := ⟨[], []⟩, alm := Vector.replicate 16 0, fpflags := 0, lerr := 0, slow := [],
    bankFifo := Vector.replicate 64 [], bankLeft := [], acc := [], pendReg := [], record := [], seq := 0 }

/-- The saved image of a suspended act (R330, R331). -/
inductive Image
  /-- No image: the act starts as R20 states. -/
  | none
  /-- Cue-point image: FPFLAGS, core of the suspension, scratchpad and scale-store bytes kept. -/
  | cue (fpflags : BitVec 5) (core : Nat) (ranges : Scratch) (scales : Scratch)
  /-- Full image: the whole core state with its copy channels. -/
  | full (core : Nat) (live : Live) (chans : Vector Channel 8) (lastCue : Nat) (yieldMark : Bool)
deriving DecidableEq, Repr

/-- An act: its record, the record it last started with, the context, the launch, the level of its launch, and its image. -/
structure Act where
  record : ActRec
  origin : ActRec
  ctx : Nat
  launch : Nat
  /-- Number of the act in its launch (R25). -/
  num : Nat
  image : Image
  /-- Placement order, for the longest resident (R322). -/
  placed : Nat
  /-- The core where it last was, or was made (R317, R321). -/
  home : Nat
  /-- It was made by `act.spawn` (R321, R327). -/
  spawned : Bool
  /-- The slot of the act store that holds its record (R330). -/
  slot : Option Nat
  /-- The replacement of its core has suspended it, and it resumes there (R348). -/
  pinned : Bool
deriving DecidableEq, Repr

/-- A line of a cache: line address, way, RRPV, dirty (R237, R261). -/
structure CLine where
  line : Nat
  way : Nat
  rrpv : Nat
  dirty : Bool
deriving DecidableEq, Repr

/-- A translation (R338, R339): page base and size, and the leaf's fields. -/
structure Trans where
  ctx : Nat
  va : Nat
  size : Nat
  pa : Nat
  r : Bool
  w : Bool
  cow : Bool
  sm : BitVec 2
  key : Byte
  /-- The leaf belongs to a 64 KiB group (R339). -/
  group : Bool
deriving DecidableEq, Repr

/-- How an act whose engines have stopped leaves its core (R195, R201, R202, R316, R331): by a precise fault of an engine, by
an upset that cannot be replayed, by a cancel, or by a suspension, at a cue point or with a full image. -/
inductive Ending
  | fault (code : Nat) (eng : Engine) (tv0 : Word) (tv1 : Word)
  | upset (win : Word)
  | cancel
  /-- It does not end: it suspends with a full image, waiting for a semaphore and value, or ready (R36, R331). -/
  | image (wait : Option (Nat × Word))
  /-- It has passed this cue point and suspends there: its record is held (R201, R331). -/
  | suspend (cue : Nat)
deriving DecidableEq, Repr

/-- What an upset restores (R196, R198, R200): the live state, with the halt, the ending and the marks that the core itself
had set. -/
structure Cut where
  live : Live
  halt : Bool
  ending : Option Ending
  yieldMark : Bool
  lastCue : Nat
deriving DecidableEq, Repr

/-- A core. -/
structure Core where
  num : Nat
  live : Live
  /-- The undo ring: states at earlier cuts, newest first (R200). -/
  ring : List Cut
  /-- The resident act (R23). -/
  act : Option Act
  /-- The resident scene: context and id (R231). -/
  scene : Option (Nat × Word)
  detlvl : BitVec 2
  actCur : Word
  actCeil : Word
  lvl : Vector (BitVec 16) 8
  hen : Bool
  halt : Bool
  /-- Last cue point passed (R331). -/
  lastCue : Nat
  /-- The act is marked to yield at the next cue point (R328). -/
  yieldMark : Bool
  /-- A pending intermission request; true for a full image by policy (R322). -/
  request : Option Bool
  /-- The act is stopped by a CANCEL (R316). -/
  cancelled : Bool
  /-- The act is ending by a fault or a cancel, and operations already started still complete (R195). -/
  ending : Option Ending
  /-- The act has released as it leaves its core, and these peers' homes have still to apply it (R30, R267). -/
  releasing : Option (List Nat)
  chans : Vector Channel 8
  /-- Claims made: engine, number of the claim in it, first index and count, newest first (R326). -/
  claims : List (Engine × Nat × Word × Word)
  /-- Hold generations .clus, .die, .chip, .grp (R388). -/
  gens : Vector DWord 4
  /-- The wings, head first (R323). -/
  wings : List Act
  /-- Steal requests sent since bring-up, requests left in the round, resting (R324). -/
  attempts : Nat
  stealsLeft : Nat
  resting : Bool
  /-- Upset reports and corrected errors of the window, lasting mark (R385). -/
  ups : Nat
  cor : Nat
  lasting : Bool
  pmc : Vector DWord 16
  l1 : List CLine
  tlb : List Trans
deriving DecidableEq, Repr

/-- Core n after bring-up. -/
def Core.reset (n : Nat) : Core :=
  { num := n, live := .reset, ring := [], act := none, scene := none, detlvl := 0, actCur := 0, actCeil := 0,
    lvl := Vector.replicate 8 0, hen := false, halt := false, lastCue := 0, yieldMark := false, request := none,
    cancelled := false, ending := none, releasing := none,
    chans := Vector.replicate 8 ⟨0, []⟩, claims := [], gens := Vector.replicate 4 0, wings := [],
    attempts := 0, stealsLeft := 16, resting := false, ups := 0, cor := 0, lasting := false,
    pmc := Vector.replicate 16 0, l1 := [], tlb := [] }

/-! ### Memory of the module -/

/-- An agent that writes memory (R262). -/
inductive Agent
  | core (module : Nat) (n : Nat)
  | collective (module : Nat)
  | host (module : Nat)
deriving DecidableEq, Repr

/-- A hold: writer, the context it wrote for, and its generations .clus, .die, .chip, .grp at the hold point (R266). -/
structure Hold where
  who : Agent
  ctx : Nat
  gens : List DWord
deriving DecidableEq, Repr

/-- The refreshes, forced refreshes and promoted commands that one pseudo-channel has issued (R258). -/
structure PcState where
  refreshes : Nat
  forced : Nat
  promoted : Nat
deriving DecidableEq, Repr

/-! ### Contexts -/

/-- A loaded scene (R16, R355). -/
structure Scene where
  id : Word
  retiring : Bool
  streams : List (List Word)
  cues : List (List Nat)
  live : List (List (BitVec 16))
  ranges : List (Nat × Nat × Nat)
  stats : List (Nat × Nat × BFmt × Nat)
  almanac : List Word
  feat : BitVec 128
  region : Word
  promise : Bool
deriving DecidableEq, Repr

/-- The states of the curtain (R372, R378). -/
inductive CState
  | open_ | prep | staged | commit | exchange | rollback | halted | beyond
deriving DecidableEq, Repr

/-- A staged delta: entry, parity-area sector and its 66 symbols (R371). -/
structure StagedDelta where
  entry : Nat
  sector : Nat
  syms : List Byte
deriving DecidableEq, Repr

/-- A coding group of a context with its round state (R349, R369). -/
structure Group where
  cfg : GroupCfg
  st : CState
  cr : Word
  notices : BitVec 32
  eod : BitVec 32
  ackd : Bool
  lost : BitVec 32
  epoch : BitVec 16
  dec : Bool
  dpend : BitVec 16
  dpend2 : BitVec 16
  dbad : Bool
  dbad2 : Bool
  lastab : Bool
  /-- Deltas sent and not yet acknowledged (R371). -/
  unacked : Nat
  deltas : List StagedDelta
  /-- EXCH messages of the current epoch: member and DEC (R374). -/
  exch : List (Nat × Bool)
  /-- The conclusion of the exchange, which answers later epochs (R374). -/
  concluded : Option Bool
  /-- The epoch in which it concluded. -/
  concEpoch : BitVec 16
  /-- The round was applied before the exchange (R429). -/
  applied : Bool
  /-- Replica entries in which this module's outcome was MINORITY (R438). -/
  minority : List Nat
  /-- Replica entries whose descriptor count restarts at reopen (R437). -/
  restart : List Nat
  /-- The lost member for which this member has sent its contributions (R377). -/
  rebuilding : Option Nat
deriving DecidableEq, Repr

/-- The result of one collective (R305, R384). -/
structure ColStat where
  id : Word
  /-- 0 pending, 1 complete, 2 faulted. -/
  st : Nat
  reason : Nat
  dg : Bool
  set : Nat
  pos : Nat
  digest : BitVec 128
  /-- Digests held, by member (R381). -/
  digests : List (Nat × BitVec 128)
  /-- OUT, A, KP and FMIN of the outcome word. -/
  out : Nat
  cls : Nat
  kp : Nat
  fmin : Nat
  /-- It belongs to round r (true) or r + 1 (false) of its coding group, or its round has been rolled back (R375, R382). -/
  round : Option Bool
deriving DecidableEq, Repr

/-- What a collective of this member still waits for: the words of its output, the peers whose homes have still to perform their part of
it or to apply the release that follows, and whether that release has been told (R267, R284). -/
structure ColAway where
  words : List Word
  peers : List Nat
  told : Bool
deriving DecidableEq, Repr

/-- A queued descriptor (R302). -/
structure ColDesc where
  id : Word
  inp : DWord
  out : DWord
  count : Nat
  kind : BitVec 2
  op : BitVec 3
  set : Nat
  dg : Bool
  root : Nat
  ordered : Bool
  pos : Nat
  /-- Its output is written but for what peers have still to do (R284). -/
  away : Option ColAway
deriving DecidableEq, Repr

/-- A replica entry with its launch generation and descriptor count (R351, R387, R437). -/
structure Replica where
  cfg : ReplicaCfg
  lgen : Word
  count : Nat
deriving DecidableEq, Repr

/-- An undo record, or a held write (R253, R257): sector address, 64 bytes and scales, the key index and material under which the
bytes were written (R345), and whether they are poisoned (R260). -/
structure UndoRec where
  sector : Nat
  data : BitVec 512
  scales : BitVec 16
  key : Option (Byte × BitVec 512)
  bad : Bool
deriving DecidableEq, Repr

/-- A protected-region entry (R352). Areas are lists of physical 4 KiB page addresses. -/
structure Prot where
  paired : Bool
  stall : Bool
  cg : Nat
  rgnVa : DWord
  undVa : DWord
  parVa : DWord
  rgn : List Nat
  und : List Nat
  par : List Nat
  cur : Bool
  ucnt : Nat
  unab : Bool
  undop : Word
  undoLogged : Bool
  undo : List UndoRec
  /-- Sectors written in the round without a record (R257). -/
  bare : List Nat
  /-- Deferred first writes: sector and held contents (R257). -/
  deferred : List UndoRec
  /-- The key of each page, as translated by `prot.set` (R345, R352). -/
  keys : List (Nat × Byte)
deriving DecidableEq, Repr

/-- What a waiting write does when it is performed (R256): bytes of its sector, or one operation on a word of it. -/
inductive WaitAct
  | write (mask : List (Option Byte)) (scales : Option (BitVec 16))
  | rmw (word : Nat) (op : Nat) (cmp : Option Word) (v : Word) (scales : Option (BitVec 16))
  /-- The sector of a copy whose source is poisoned (R250). -/
  | poison
deriving DecidableEq, Repr

/-- Who is told that a waiting write is settled. -/
inductive WaitRet
  | access (core : Nat) (seq : Nat)
  | atomic (core : Nat) (seq : Nat)
  /-- A peer that is sent this answer, if any, or the old word of an atomic. -/
  | peer (ctx : Nat) (peer : Nat) (ans : Option RemoteAns)
  | peerOld (ctx : Nat) (peer : Nat)
  | host
  | copy (core : Nat) (ch : Nat)
  | collective
deriving DecidableEq, Repr

/-- A write that waits at its sequencer (R256): its coding group, sector, effect, key, agent, context and order. -/
structure Waiting where
  grp : Nat
  sector : Nat
  act : WaitAct
  key : Byte
  who : Agent
  ctx : Nat
  ret : WaitRet
  /-- Order of its arrival (R268). -/
  stamp : Nat
deriving DecidableEq, Repr

/-- A fault-log entry (R307). -/
structure FLog where
  hdr : Word
  tval0 : Word
  tval1 : Word
  seq : Word
  core : Word
  scene : Word
  pcax : Word
  pcmb : Word
deriving DecidableEq, Repr

/-- A context on this module. -/
structure Ctx where
  ttb : BitVec 52
  level : BitVec 2
  scenes : List Scene
  sems : Sparse Word
  /-- Core and instruction of A whose completion the signals of a semaphore order before its waits, while its write is to come
  (R273). -/
  semTold : List (Nat × List (Nat × Nat))
  /-- Fabric group: address of each index and the links that route to it, own index, indices marked lost, indices with traffic
  (R344). -/
  fabric : List Nat
  routes : List (List Nat)
  self : Nat
  lost : List Nat
  traffic : List Nat
  /-- Peers whose loss has been noticed and is not yet recorded (R396). -/
  lossDue : List Nat
  groups : List (Nat × Group)
  /-- Minority outcomes by coding group since its last commit, which outlive the group's entry (R383, R438). -/
  minorities : List (Nat × Nat)
  reps : List (Nat × Replica)
  prot : List (Nat × Prot)
  waiting : List Waiting
  flog : List FLog
  flogLost : Nat
  flogSeq : Word
  colNext : Word
  colQ : List ColDesc
  colStat : List ColStat
  /-- Device launch queue: records not yet taken, records taken, records entered (R329). -/
  devQ : List (List Byte)
  devHead : Nat
  devTail : Nat
  /-- Order of its last service, and whether a bad DONE address halted it (R312, R314). -/
  devServed : Nat
  devHalted : Bool
  /-- Slots of the act store, and the page-aligned address of their area in device memory (R330). -/
  store : Nat
  area : Nat
  ectx : Vector Nat 4
  credit : Vector Int 4
  /-- Copy-on-write resolutions asked and refusals not yet seen: virtual page address, and the access that waits (R340). -/
  cowAsked : List (DWord × Nat)
  cowRefused : List (DWord × Nat)
deriving DecidableEq, Repr

/-! ### Launches and the hub -/

/-- A launch record (R311). -/
structure LaunchRec where
  bytes : List Byte
deriving DecidableEq, Repr

/-- An admitted launch (R25, R315). -/
structure Launch where
  id : Nat
  src : LaunchSrc
  seq : Word
  ctx : Nat
  record : LaunchRec
  det : BitVec 2
  status : Nat
  /-- Acts not yet yielded by the generator: ascending ranges [lo, hi) (R317). -/
  toYield : List (Nat × Nat)
  /-- Acts created and not yet ended, bad or dropped. -/
  open_ : Nat
  ended : Nat
  faulted : Nat
  bad : Nat
  dropped : Nat
  /-- It waits at its start barrier (R32). -/
  barrier : Bool
  cancelled : Bool
  /-- Its co-resident acts have started (R31). -/
  started : Bool
  /-- Bindings: level, instance number, and the number of the die, cluster or core (R318); under level 8, the core that is
  reserved for an act of a co-resident launch (R31). -/
  binds : List (Nat × Nat × Nat)
  doneWritten : Bool
  /-- Its completion entry is on its way to a peer's memory (R312). -/
  away : Option Nat
deriving DecidableEq, Repr

/-- An item of a ready pool: a launch's generator or an act (R317). -/
inductive PoolItem
  | gen (id : Nat)
  | act (a : Act)
deriving DecidableEq, Repr

/-- A launch ring (R310). -/
structure Ring where
  ctx : Nat
  cls : Nat
  size : Nat
  base : Nat
  head : Word
  tail : Word
  halted : Bool
  /-- Order of its first pending doorbell, and of its last service (R313, R314). -/
  pendAt : Nat
  served : Nat
  /-- It is served next, whatever its class (R314). -/
  urgent : Bool
deriving DecidableEq, Repr

/-- A hardware queue slot: the ring mapped to it and the order of mapping (R313). -/
structure Slot where
  q : Nat
  mappedAt : Nat
deriving DecidableEq, Repr

/-- A key-table entry (R345). -/
structure Key where
  mask : DWord
  bound : Bool
  keys : BitVec 512
deriving DecidableEq, Repr

/-- A Carten link: data lanes failed, lanes carrying data, retraining, down, flits replayed (R395). -/
structure Link where
  failed : Nat
  lanes : Nat
  retraining : Bool
  down : Bool
  replays : Nat
deriving DecidableEq, Repr

/-- What the module tells the stage manager, the board or the host (R310, R312, R383, R385, R393, R348). -/
inductive Notice
  | ringHalted (q : Nat)
  | doneUnwritten (launch : Nat)
  | brk (core : Nat) (code : Nat)
  | noUnderstudy (core : Nat)
  | lasting (core : Nat)
  | disagree (ctx : Nat) (set : Nat)
  | lastingDivergent (ctx : Nat) (grp : Nat)
  | minority (ctx : Nat) (set : Nat)
  | orphan (addr : Nat)
  | hostError (addr : Nat) (cause : Nat)
  | pseudoChannel (stack : Nat) (pc : Nat)
  /-- An attestation report, signed with a leaf of the attestation tree of a bring-up (R403). -/
  | report (bytes : List Byte) (boots : Nat) (leaf : Nat)
  | status (code : Nat)
  /-- Data for the host, and whether the response grants a cached copy (R357). -/
  | hostData (bytes : List Byte) (cached : Bool)
  | hostPoison
  | checkpoint (sectors : List SavedSector) (rounds : List (Nat × Word))
  | sceneStatus (ctx : Nat) (code : Nat)
  | peerAnswer (ctx : Nat) (peer : Nat) (ans : RemoteAns)
deriving DecidableEq, Repr

/-- What the module sends to a peer (R346, R371, R374, R377, R381). -/
inductive Msg
  | request (ctx : Nat) (peer : Nat) (core : Nat) (gens : List DWord) (key : Byte) (req : MemReq)
  | release (ctx : Nat) (who : Agent) (gens : List DWord)
  | delta (ctx : Nat) (grp : Nat) (member : Nat) (entry : Nat) (sector : Nat) (syms : List Byte)
  | deltaAck (ctx : Nat) (grp : Nat) (member : Nat)
  | endOfDeltas (ctx : Nat) (grp : Nat) (member : Nat)
  | staged (ctx : Nat) (grp : Nat) (round : Word)
  | abort (ctx : Nat) (grp : Nat) (round : Word)
  | exch (ctx : Nat) (grp : Nat) (member : Nat) (round : Word) (epoch : BitVec 16) (dec : Bool)
  | digest (ctx : Nat) (set : Nat) (pos : Nat) (digest : BitVec 128)
  | rebuild (ctx : Nat) (grp : Nat) (understudy : Nat) (entry : Nat) (parity : Bool) (sector : Nat) (syms : List Byte)
deriving DecidableEq, Repr

/-- A bank with a firmware image and its XMSS signature of 2,820 bytes (R402). -/
structure Bank where
  image : List Byte
  sig : BitVec 22560
deriving DecidableEq, Repr

/-- Firmware and identity (R402, R403): the active bank, the bank of an accepted incoming image, the vendor's public key (root and
public seed), the attestation tree's next leaf, and the identity tree's leaf of this bring-up. -/
structure Firmware where
  active : Bank
  incoming : Option Bank
  root : BitVec 256
  seed : BitVec 256
  leaf : Nat
  boots : Nat
deriving DecidableEq, Repr

/-- A 128-bit value of the stage manager with its tag (R398). -/
structure CapCell where
  value : BitVec 128
  tag : Bool
deriving DecidableEq, Repr

/-- The capabilities of the stage manager, the capability faults counted, and the status with which such a fault refuses the command
being parsed (R398, R399). -/
structure Manager where
  caps : List (Nat × CapCell)
  faults : Nat
  refused : Option Nat
deriving DecidableEq, Repr

/-- The host side of the module (R268, R310, R392, R394). -/
structure HostPort where
  mem : Sparse Byte
  /-- Lines that copies have written poisoned, ascending (R250). -/
  poison : List Nat
  holds : Sparse Hold
  genChip : DWord
  genGrp : DWord
  /-- Host releases started and not yet complete, by their order (R268). -/
  releases : List Nat
  admBase : DWord
  admTail : DWord
  admHead : DWord
  /-- Commands completed, and statuses that wait for the link: host address and code (R392). -/
  admDone : DWord
  due : List (Nat × Nat)
  /-- The link is up; the 100 ms count runs; the host is lost; a width change is under way; lanes (R394). -/
  up : Bool
  counting : Bool
  lost : Bool
  retraining : Bool
  width : Nat
  /-- Pages in host bias; host key windows with KEY and EN (R356). -/
  hostBias : List Nat
  windows : Sparse (BitVec 9)
  /-- Back-invalidate snoops sent and not yet answered (R357). -/
  snoops : List Nat
  /-- Accesses for which a snoop has been sent and which have not performed, and those of them for which the response has come: line and
  who (R357, R358). -/
  pledged : List (Nat × Nat)
  acked : List (Nat × Nat)
  /-- A bias flip to device that waits for snoops (R358). -/
  flips : List Nat
deriving DecidableEq, Repr

/-- The unit that moves next when the agenda is empty. -/
inductive Turn
  | eng (e : Engine)
  | uncore
deriving DecidableEq, Repr

/-- One entry of the agenda: an engine of a core takes its next step, or an event happens with that core in focus. -/
inductive Move
  | run (core : Nat) (e : Engine)
  | event (core : Nat) (i : Instr)
deriving DecidableEq, Repr

/-- The power and STATE of the module (R392, R397, R405). -/
inductive Power
  | ready
  | failed (code : Nat)
  | stopped
  | off
deriving DecidableEq, Repr

/-- The module. -/
structure State where
  core : Core
  /-- The engine of the focused core that moves. -/
  cur : Engine
  /-- The other cores that are not as `Core.reset` leaves them, by number. -/
  parked : List (Nat × Core)
  agenda : List Move
  turn : Turn
  /-- Free values drawn so far. -/
  free : Nat
  power : Power
  /-- Stacked memory, unlisted bytes 0 (R406). -/
  mem : List Host.Cell
  /-- Sector scales S0 (low) and S1, unlisted 0x7F7F (R239, R406). -/
  secScale : Sparse (BitVec 16)
  /-- Poisoned sectors, ascending (R260). -/
  poison : List Nat
  /-- Holds by 16-byte granule (R266). -/
  holds : Sparse Hold
  /-- The generations of peer agents that this module's homes apply (R267), by 256 (fabric address + 1) + core. -/
  peerGens : List (Nat × List DWord)
  /-- Key index and key material under which a sector's line was written, unlisted key 0 never bound (R261, R345). -/
  secKey : Sparse (Byte × BitVec 512)
  l2 : List CLine
  clusTlb : List (Nat × Trans)
  pcs : Sparse PcState
  /-- Corrected sectors in the window, by pseudo-channel (R385). -/
  stackCor : Sparse Nat
  ctxs : List (Nat × Ctx)
  keys : Sparse Key
  /-- PHYS and AV of each logical core (R347). -/
  coreMap : Vector (BitVec 8) 160
  /-- Physical cores that have left service: die and number (R348). -/
  retired : List (Nat × Nat)
  /-- Logical cores whose replacement is under way: they take no more acts (R348). -/
  replacing : List Nat
  classMin : Vector Nat 4
  rings : List (Nat × Ring)
  slots : List Slot
  /-- The last TAIL written at each doorbell, by queue number (R392). -/
  bells : Sparse Word
  /-- Order counter of doorbells, mappings, services and placements. -/
  order : Nat
  launches : List Launch
  nextLaunch : Nat
  /-- CANCEL records that hold their source until the acts of a launch have left, with their own completion (R316). -/
  holding : List (LaunchSrc × Nat × Launch)
  /-- Ready pools by die: priority and item, oldest first (R317). -/
  pools : Vector (List (Nat × PoolItem)) 4
  /-- Acts that wait for a semaphore: act, number and value (R36). -/
  waiters : List (Act × Nat × Word)
  colGens : Vector DWord 4
  edie : Vector Nat 4
  /-- Microjoules carried by the accruals: die, and context and die (R386). -/
  carry : Sparse Nat
  budget : Nat
  host : HostPort
  links : Vector Link 24
  fw : Firmware
  sm : Manager
  notices : List Notice
  outbox : List Msg
deriving DecidableEq, Repr

/-- The module right after bring-up (R8, R45, R406). -/
def State.reset : State :=
  { core := Core.reset 0, cur := .a, parked := [], agenda := [], turn := .eng .a, free := 0, power := .ready, mem := [],
    secScale := [], poison := [], holds := [], peerGens := [], secKey := [], l2 := [], clusTlb := [], pcs := [], stackCor := [],
    ctxs := [], keys := [], coreMap := Vector.ofFn fun i => BitVec.ofNat 8 (64 + i.val % 40), retired := [], replacing := [],
    classMin := Vector.replicate 4 64, rings := [], slots := [], bells := [], order := 0, launches := [], nextLaunch := 1,
    holding := [], pools := Vector.replicate 4 [], waiters := [], colGens := Vector.replicate 4 0,
    edie := Vector.replicate 4 0, carry := [], budget := 3400,
    host := { mem := [], poison := [], holds := [], genChip := 0, genGrp := 0, releases := [], admBase := 0, admTail := 0, admHead := 0, admDone := 0, due := [],
              up := true, counting := false, lost := false, retraining := false, width := 16, hostBias := [],
              windows := [], snoops := [], pledged := [], acked := [], flips := [] },
    links := Vector.replicate 24 ⟨0, 8, false, false, 0⟩,
    fw := { active := ⟨[], Config.factorySig⟩, incoming := none, root := Config.factoryRoot, seed := 0, leaf := 0,
            boots := 0 },
    sm := { caps := [], faults := 0, refused := none }, notices := [], outbox := [] }

end Sys2Proof.Machine
end

