-- ==== Sys2Proof/Machine/Sparse.lean ====
section
/-! DEFINITION. Sparse maps and byte stores: reads, writes and the canonical form of memory, and elements of 512-byte
registers. -/

namespace Sys2Proof.Machine

open Sys2Proof

/-- What a sparse map with default d reads at key k. -/
def Sparse.get {α : Type} (d : α) (m : Sparse α) (k : Nat) : α :=
  match m with
  | [] => d
  | (k', v) :: rest => if k' = k then v else Sparse.get d rest k

/-- The entries that list a run of values from key base on, leaving out those equal to the default. -/
def Sparse.run {α : Type} [DecidableEq α] (d : α) (base : Nat) : List α → Sparse α
  | [] => []
  | v :: vs => if v = d then Sparse.run d (base + 1) vs else (base, v) :: Sparse.run d (base + 1) vs

/-- Write consecutive values from key base on, keeping the canonical form. -/
def Sparse.write {α : Type} [DecidableEq α] (d : α) (m : Sparse α) (base : Nat) (vs : List α) : Sparse α :=
  m.filter (fun c => c.1 < base) ++ Sparse.run d base vs ++ m.filter (fun c => base + vs.length ≤ c.1)

/-- Write one value. -/
def Sparse.set {α : Type} [DecidableEq α] (d : α) (m : Sparse α) (k : Nat) (v : α) : Sparse α :=
  Sparse.write d m k [v]

/-- Read n consecutive values from key base on. -/
def Sparse.read {α : Type} (d : α) (m : Sparse α) (base n : Nat) : List α :=
  let r := m.filter (fun c => base ≤ c.1 && c.1 < base + n)
  (List.range n).map fun i => Sparse.get d r (base + i)

/-- Every key at or above lo and below hi is removed. -/
def Sparse.clear {α : Type} (m : Sparse α) (lo hi : Nat) : Sparse α :=
  m.filter (fun c => c.1 < lo || hi ≤ c.1)

/-- The canonical form: keys strictly rising from lo on, and no entry equal to the default. -/
def Sparse.wfFrom {α : Type} [DecidableEq α] (d : α) (lo : Nat) : Sparse α → Bool
  | [] => true
  | (k, v) :: rest => lo ≤ k && v ≠ d && Sparse.wfFrom d (k + 1) rest

/-- The canonical form of a sparse map with default d. -/
def Sparse.wf {α : Type} [DecidableEq α] (d : α) (m : Sparse α) : Bool := Sparse.wfFrom d 0 m

/-- The canonical form of stacked memory (unlisted bytes read 0). -/
def Memory.wf (m : List Host.Cell) : Bool := Sparse.wf (0 : Byte) m

/-- Look up an association list by number. -/
def assoc {α : Type} (m : List (Nat × α)) (k : Nat) : Option α :=
  match m with
  | [] => none
  | (k', v) :: rest => if k' = k then some v else assoc rest k

/-- Put a value under a number, replacing the one held. -/
def assocSet {α : Type} (m : List (Nat × α)) (k : Nat) (v : α) : List (Nat × α) :=
  match m with
  | [] => [(k, v)]
  | (k', v') :: rest => if k' = k then (k, v) :: rest else if k < k' then (k, v) :: (k', v') :: rest else (k', v') :: assocSet rest k v

/-- Remove the value under a number. -/
def assocDel {α : Type} (m : List (Nat × α)) (k : Nat) : List (Nat × α) := m.filter (fun c => c.1 != k)

/-- Change the value under a number, if there is one. -/
def assocMod {α : Type} (m : List (Nat × α)) (k : Nat) (f : α → α) : List (Nat × α) :=
  m.map fun c => if c.1 = k then (c.1, f c.2) else c

/-- Insert into an ascending list without repeats. -/
def insertSorted (k : Nat) : List Nat → List Nat
  | [] => [k]
  | x :: xs => if k < x then k :: x :: xs else if k = x then x :: xs else x :: insertSorted k xs

/-! ### Vectors of registers -/

/-- Read position i of a vector; d beyond its end. -/
def vget {α : Type} {n : Nat} (v : Vector α n) (i : Nat) (d : α) : α := v[i]?.getD d

/-- Write position i of a vector; nothing beyond its end. -/
def vset {α : Type} {n : Nat} (v : Vector α n) (i : Nat) (x : α) : Vector α n := v.setIfInBounds i x

/-- Every entry of a vector changed by f. -/
def vmap {α β : Type} {n : Nat} (f : α → β) (v : Vector α n) : Vector β n := Vector.ofFn fun i => f v[i]

/-- Every entry of a vector meets f. -/
def vall {α : Type} {n : Nat} (v : Vector α n) (f : α → Bool) : Bool := v.toList.all f

/-! ### Byte stores with fills (R18, R20, R204, R210) -/

/-- What the newest fill that covers address a makes an unlisted byte read as; zero where none covers it. -/
def fillAt (fs : List Fill) (a : Nat) : FillVal :=
  match fs with
  | [] => .byte 0
  | f :: rest => if f.lo ≤ a && a < f.hi then f.val else fillAt rest a

/-- The byte of a fill value at address a. -/
def FillVal.at_ (v : FillVal) (a : Nat) : Byte :=
  match v with
  | .byte b => b
  | .free e => Config.freeByte e a

/-- Read the byte at address a of a store. -/
def Scratch.get (m : Scratch) (a : Nat) : Byte :=
  match assoc m.cells a with
  | some b => b
  | none => (fillAt m.fills a).at_ a

/-- Read n bytes. -/
def Scratch.read (m : Scratch) (base n : Nat) : List Byte :=
  let r : Scratch := { m with cells := m.cells.filter (fun c => base ≤ c.1 && c.1 < base + n) }
  (List.range n).map fun i => r.get (base + i)

/-- The entries of a run of bytes, leaving out those equal to a fixed fill byte. -/
def Scratch.run (fs : List Fill) (base : Nat) : List Byte → Sparse Byte
  | [] => []
  | b :: bs => if fillAt fs base = .byte b then Scratch.run fs (base + 1) bs else (base, b) :: Scratch.run fs (base + 1) bs

/-- Write bytes from address base on, keeping the canonical form. -/
def Scratch.write (m : Scratch) (base : Nat) (bs : List Byte) : Scratch :=
  { m with cells := m.cells.filter (fun c => c.1 < base) ++ Scratch.run m.fills base bs ++
      m.cells.filter (fun c => base + bs.length ≤ c.1) }

/-- Fill the bytes lo to hi - 1 with a value. -/
def Scratch.fill (m : Scratch) (lo hi : Nat) (v : FillVal) : Scratch :=
  { cells := Sparse.clear m.cells lo hi, fills := ⟨lo, hi, v⟩ :: m.fills }

/-- The canonical form of a byte store: keys strictly rising from lo on, and no entry equal to a fixed fill byte. -/
def Scratch.wfFrom (fs : List Fill) (lo : Nat) : Sparse Byte → Bool
  | [] => true
  | (k, v) :: rest => lo ≤ k && fillAt fs k ≠ .byte v && Scratch.wfFrom fs (k + 1) rest

/-- The canonical form of a byte store. -/
def Scratch.wf (m : Scratch) : Bool := Scratch.wfFrom m.fills 0 m.cells

/-! ### Elements and bytes of 512-byte values (R146) -/

/-- Element i of width w bits: bits [w i + w - 1 : w i] (R146). -/
def elem {n : Nat} (w : Nat) (x : BitVec n) (i : Nat) : Nat := (x.toNat >>> (w * i)) % 2 ^ w

/-- The number whose elements of width w are the codes, element 0 lowest (R146). -/
def packNat (w : Nat) : List Nat → Nat
  | [] => 0
  | c :: cs => c % 2 ^ w + 2 ^ w * packNat w cs

/-- A register of the codes (R146). -/
def pack (w : Nat) (cs : List Nat) : BitVec 4096 := BitVec.ofNat 4096 (packNat w cs)

/-- The first k elements of width w. -/
def elems {n : Nat} (w : Nat) (x : BitVec n) (k : Nat) : List Nat := (List.range k).map (elem w x)

/-- The number whose little-endian bytes are bs (R4). -/
def natOfBytes : List Byte → Nat
  | [] => 0
  | b :: bs => b.toNat + 256 * natOfBytes bs

/-- The n little-endian bytes of a number (R4). -/
def bytesOfNat (n : Nat) (x : Nat) : List Byte := (List.range n).map fun i => BitVec.ofNat 8 (x >>> (8 * i))

/-- All 32 sidecar entries 0x7F (R147). -/
def side7F : BitVec 256 := BitVec.ofNat 256 (packNat 8 (List.replicate 32 0x7F))

/-- Sign-extend the low w bits of a number. -/
def signedOf (w : Nat) (x : Nat) : Int := if x % 2 ^ w < 2 ^ (w - 1) then (x % 2 ^ w : Nat) else ((x % 2 ^ w : Nat) : Int) - 2 ^ w

/-- An integer as w bits (R92). -/
def natOfInt (w : Nat) (x : Int) : Nat := (x % (2 ^ w : Int)).toNat

end Sys2Proof.Machine
end

