-- ==== Sys2Proof/Machine/Formats.lean ====
section
/-! DEFINITION. Number formats: exact values of codes, rounding, conversion and the flags of a conversion (R85 to R101). -/

namespace Sys2Proof.Machine

open Sys2Proof

/-- An exact value: NaN (or NaR), an infinity, or (-1)^neg m 2^e. -/
inductive FVal
  | nan
  | inf (neg : Bool)
  | fin (neg : Bool) (m : Nat) (e : Int)
deriving DecidableEq, Repr

/-- Sticky flags in the order of FPFLAGS: NV, DZ, OF, UF, NX (R188). -/
abbrev Flags := BitVec 5

def flagNV : Flags := 1
def flagDZ : Flags := 2
def flagOF : Flags := 4
def flagUF : Flags := 8
def flagNX : Flags := 16

/-- Rounding modes; RSK carries the draw u of its element (R57, R93, R94). -/
inductive Mode
  | rne
  | rtz
  | rsk (u : Nat)
deriving DecidableEq, Repr

/-- A binary floating-point format: exponent and fraction widths, bias, code of the largest finite magnitude, code of
infinity, and the NaN produced (R85). -/
structure Ieee where
  ebits : Nat
  fbits : Nat
  bias : Nat
  maxCode : Nat
  infCode : Option Nat
  /-- Lowest magnitude code that is a NaN. -/
  nanFrom : Option Nat
  nanCode : Option Nat
  /-- Conversion of an infinity or a finite value beyond the maximum clamps (R96). -/
  clamps : Bool
deriving DecidableEq, Repr

/-- Width of the whole code. -/
def Ieee.width (f : Ieee) : Nat := 1 + f.ebits + f.fbits

def fp32 : Ieee := ⟨8, 23, 127, 0x7F7FFFFF, some 0x7F800000, some 0x7F800001, some 0x7FC00000, false⟩
def bf16 : Ieee := ⟨8, 7, 127, 0x7F7F, some 0x7F80, some 0x7F81, some 0x7FC0, false⟩
def fp16 : Ieee := ⟨5, 10, 15, 0x7BFF, some 0x7C00, some 0x7C01, some 0x7E00, false⟩
def e5m2 : Ieee := ⟨5, 2, 15, 0x7B, some 0x7C, some 0x7D, some 0x7F, true⟩
def e4m3 : Ieee := ⟨4, 3, 7, 0x7E, none, some 0x7F, some 0x7F, true⟩
def e2m1 : Ieee := ⟨2, 1, 1, 0x7, none, none, none, true⟩

/-- The kinds of storage format (R56, R88 to R92). -/
inductive Kind
  | ieee (f : Ieee)
  /-- T8 (true) or T6 (false): R88, R89. -/
  | taper (t8 : Bool)
  /-- A block element: width and fraction bits (R91). -/
  | block (w : Nat) (frac : Nat)
  /-- An integer: width, signed (R92). -/
  | int (w : Nat) (signed : Bool)
  | e8m0
deriving DecidableEq, Repr

/-- The format of a code (R56). -/
def kindOf (f : BitVec 4) : Kind :=
  match f.toNat with
  | 0 => .ieee fp32
  | 1 => .ieee bf16
  | 2 => .ieee fp16
  | 3 => .ieee e4m3
  | 4 => .ieee e5m2
  | 5 => .ieee e2m1
  | 6 => .taper true
  | 7 => .taper false
  | 8 => .block 8 6
  | 9 => .block 4 2
  | 10 => .int 8 true
  | 11 => .int 8 false
  | 12 => .int 16 true
  | 13 => .int 32 true
  | 14 => .int 32 false
  | _ => .e8m0

/-! ### Exact values of codes -/

/-- The exact value of a binary floating-point code (R85). -/
def Ieee.decode (f : Ieee) (code : Nat) : FVal :=
  let neg := code.testBit (f.ebits + f.fbits)
  let mag := code % 2 ^ (f.ebits + f.fbits)
  if f.infCode = some mag then .inf neg
  else if (match f.nanFrom with | some n => decide (n ≤ mag) | none => false) then .nan
  else
    let ex := mag / 2 ^ f.fbits
    let fr := mag % 2 ^ f.fbits
    if ex = 0 then .fin neg fr (1 - (f.bias : Int) - f.fbits)
    else .fin neg (fr + 2 ^ f.fbits) ((ex : Int) - f.bias - f.fbits)

/-- Length of the run of bits equal to b from bit position n - 1 of x downward. -/
def runLength (b : Bool) (x : Nat) : Nat → Nat
  | 0 => 0
  | n + 1 => if x.testBit n = b then runLength b x n + 1 else 0

/-- The exact magnitude of a tapered magnitude field of n bits that is not zero, with an exponent bit when `ebit` (R88, R89). -/
def taperMag (n : Nat) (ebit : Bool) (mag : Nat) : Nat × Int :=
  let b := mag.testBit (n - 1)
  let k := runLength b mag n
  let rho : Int := if b then (k : Int) - 1 else -(k : Int)
  let rest := n - k - 1
  if ebit then
    let e := if rest = 0 then 0 else if mag.testBit (rest - 1) then 1 else 0
    let fb := rest - 1
    (2 ^ fb + mag % 2 ^ fb, 2 * rho + e - fb)
  else (2 ^ rest + mag % 2 ^ rest, rho - rest)

/-- The exact value of a T8 or T6 code; NaR reads as NaN (R88, R89). -/
def taperDecode (t8 : Bool) (code : Nat) : FVal :=
  if t8 then
    let mag := code % 128
    let neg := code.testBit 7
    if mag = 0 then (if neg then .nan else .fin false 0 0)
    else let (m, e) := taperMag 7 true mag; .fin neg m e
  else if 64 ≤ code % 256 then .nan
  else
    let mag := code % 32
    let neg := code.testBit 5
    if mag = 0 then (if neg then .nan else .fin false 0 0)
    else let (m, e) := taperMag 5 false mag; .fin neg m e

/-- The value of an integer with 2^e weight. -/
def FVal.ofInt (x : Int) (e : Int) : FVal := .fin (x < 0) x.natAbs e

/-- The exact value of a code, unscaled (R85 to R92). -/
def decodeCode (f : BitVec 4) (code : Nat) : FVal :=
  match kindOf f with
  | .ieee g => g.decode code
  | .taper t8 => taperDecode t8 code
  | .block w frac => .ofInt (signedOf w code) (-(frac : Int))
  | .int w s => if s then .ofInt (signedOf w code) 0 else .fin false (code % 2 ^ w) 0
  | .e8m0 => if code % 256 = 255 then .nan else .fin false 1 ((code % 256 : Nat) - 127 : Int)

/-- A value times the E8M0 scale s (R90, R99). -/
def FVal.scale (v : FVal) (s : Nat) : FVal :=
  if s % 256 = 255 then .nan
  else match v with
    | .nan => .nan
    | .inf n => .inf n
    | .fin n m e => .fin n m (e + (s % 256 : Nat) - 127)

/-! ### Rounding -/

/-- Whether a magnitude that lies `rem` of `2^sh` above the lower neighbour n is rounded up; `st` says that the exact value
lies strictly above what m shows (R93, R94). -/
def roundUp (mode : Mode) (n rem sh : Nat) (st : Bool) : Bool :=
  match mode with
  | .rtz => false
  | .rne =>
    let half := 2 ^ (sh - 1)
    half < rem || (rem = half && (st || n % 2 = 1))
  | .rsk u => u < rem * 65536 / 2 ^ sh

/-- Round m 2^e (plus a sticky remainder) to a multiple of 2^q: the multiple, and whether it is inexact. -/
def roundAt (mode : Mode) (m : Nat) (e : Int) (st : Bool) (q : Int) : Nat × Bool :=
  if q ≤ e then (m * 2 ^ (e - q).toNat, st)
  else
    let sh := (q - e).toNat
    let n := m / 2 ^ sh
    let rem := m % 2 ^ sh
    if rem = 0 && !st then (n, false)
    else (if roundUp mode n rem sh st then n + 1 else n, true)

/-- Compare m1 2^e1 with m2 2^e2. -/
def magLe (m1 : Nat) (e1 : Int) (m2 : Nat) (e2 : Int) : Bool :=
  if e1 ≤ e2 then decide (m1 ≤ m2 * 2 ^ (e2 - e1).toNat) else decide (m1 * 2 ^ (e1 - e2).toNat ≤ m2)

/-- The magnitude m 2^e, with a sticky remainder, lies beyond the largest finite magnitude of the format (R93, R96). -/
def Ieee.beyond (f : Ieee) (m : Nat) (e : Int) (st : Bool) : Bool :=
  match f.decode f.maxCode with
  | .fin _ tm te => !magLe m e tm te || (st && magLe tm te m e)
  | _ => false

/-- Round a nonzero magnitude m 2^e (plus a sticky remainder) to a binary floating-point format: the magnitude code and the
flags. A value beyond the maximum is not rounded: R96 gives its result (R93, R96, R97). -/
def Ieee.roundMag (f : Ieee) (mode : Mode) (m : Nat) (e : Int) (st : Bool) : Nat × Flags :=
  let emin : Int := 1 - (f.bias : Int)
  let top : Int := (Nat.log2 m : Int) + e
  let q0 := top - f.fbits
  let q := max q0 (emin - f.fbits)
  let (n, inexact) := roundAt mode m e st q
  let code := (q - (emin - f.fbits)).toNat * 2 ^ f.fbits + n
  if f.beyond m e st then
    let top1 := if mode = .rtz || f.clamps then f.maxCode else f.infCode.getD f.maxCode
    (top1, flagOF ||| flagNX)
  else
    let tiny := decide (top < emin) && decide ((roundAt mode m e st q0).1 < 2 ^ (emin - q0).toNat)
    (code, if inexact then (if tiny then flagUF ||| flagNX else flagNX) else 0)

/-- The code of a sign and a magnitude code. -/
def Ieee.signed (f : Ieee) (neg : Bool) (mag : Nat) : Nat := if neg then mag + 2 ^ (f.ebits + f.fbits) else mag

/-- Convert an exact value (with a sticky remainder above a nonzero magnitude) to a binary floating-point format (R93, R96,
R97). -/
def Ieee.round (f : Ieee) (mode : Mode) (v : FVal) (st : Bool := false) : Nat × Flags :=
  match v with
  | .nan => match f.nanCode with
    | some c => (c, 0)
    | none => (0, flagNV)
  | .inf neg => match f.infCode with
      | some c => (f.signed neg c, 0)
      | none => (f.signed neg f.maxCode, flagNV)
  | .fin neg m e =>
    if m = 0 then (f.signed neg 0, 0)
    else let (c, fl) := f.roundMag mode m e st; (f.signed neg c, fl)

/-- The largest magnitude field from 1 to n whose value is at most m 2^e, or 0 (tapered values rise with the field). -/
def taperFloor (bits : Nat) (ebit : Bool) (m : Nat) (e : Int) : Nat → Nat
  | 0 => 0
  | n + 1 =>
    let (tm, te) := taperMag bits ebit (n + 1)
    if magLe tm te m e then n + 1 else taperFloor bits ebit m e n

/-- Convert an exact value to T8 or T6 (R88, R89, R93, R96, R97). -/
def taperRound (t8 : Bool) (mode : Mode) (v : FVal) : Nat × Flags :=
  let bits := if t8 then 7 else 5
  let sgn := 2 ^ bits
  let maxMag := 2 ^ bits - 1
  match v with
  | .nan => (sgn, 0)
  | .inf _ => (sgn, flagNV)
  | .fin neg m e =>
    if m = 0 then (0, 0)
    else
      let a := taperFloor bits t8 m e maxMag
      let sign := fun (c : Nat) => if neg then c + sgn else c
      if a = 0 then (sign 1, flagNX)
      else
        let (am, ae) := taperMag bits t8 a
        if magLe m e am ae then (sign a, 0)
        else if a = maxMag then (sign maxMag, flagOF ||| flagNX)
        else
          let (bm, be) := taperMag bits t8 (a + 1)
          let lo := min e (min ae be)
          let x := m * 2 ^ (e - lo).toNat
          let av := am * 2 ^ (ae - lo).toNat
          let bv := bm * 2 ^ (be - lo).toNat
          let up := match mode with
            | .rtz => false
            | .rne => decide (bv - x < x - av) || (bv - x = x - av && a % 2 = 1)
            | .rsk u => decide (u < (x - av) * 65536 / (bv - av))
          (sign (if up then a + 1 else a), flagNX)

/-- Round an exact value to an integer, half to even or as the mode says. -/
def roundInt (mode : Mode) (m : Nat) (e : Int) : Nat × Bool := roundAt mode m e false 0

/-- Convert an exact value to an integer type: it is rounded to an integer first, as R120 says for i32 and n32 (R96, R97; log 17).
-/
def intRound (w : Nat) (s : Bool) (mode : Mode) (v : FVal) : Nat × Flags :=
  let hi : Int := if s then 2 ^ (w - 1) - 1 else 2 ^ w - 1
  let lo : Int := if s then -(2 ^ (w - 1)) else 0
  match v with
  | .nan => (0, flagNV)
  | .inf neg => (natOfInt w (if neg then lo else hi), flagNV)
  | .fin neg m e =>
    let (n, inexact) := roundInt mode m e
    let x : Int := if neg then -(n : Int) else n
    if hi < x then (natOfInt w hi, flagNV)
    else if x < lo then (natOfInt w lo, flagNV)
    else (natOfInt w x, if inexact then flagNX else 0)

/-- Convert an exact value, already divided by the block scale, to an element code of MXINT8 or MXINT4 (R91, R96, R97). -/
def blockRound (w frac : Nat) (mode : Mode) (v : FVal) : Nat × Flags :=
  let top : Nat := 2 ^ (w - 1) - 1
  match v with
  | .nan => (0, flagNV)
  | .inf neg => (natOfInt w (if neg then -(top : Int) else top), flagNV)
  | .fin neg m e =>
    let (n, inexact) := roundInt mode m (e + frac)
    let c := min n top
    (natOfInt w (if neg then -(c : Int) else c),
      if !magLe m (e + frac) top 0 then flagOF ||| flagNX else if inexact then flagNX else 0)

/-- Convert an exact value to a format code, for the scaled formats after division by the block scale (R96). -/
def convert (f : BitVec 4) (mode : Mode) (v : FVal) : Nat × Flags :=
  match kindOf f with
  | .ieee g => g.round mode v
  | .taper t8 => taperRound t8 mode v
  | .block w frac => blockRound w frac mode v
  | .int w s => intRound w s mode v
  | .e8m0 => (0, 0)

/-- Convert a value against a block scale s: a scale of 0xFF writes code 0 and sets no flag (R96). -/
def convertScaled (f : BitVec 4) (mode : Mode) (v : FVal) (s : Nat) : Nat × Flags :=
  if s % 256 = 255 then (0, 0)
  else match v with
    | .fin n m e => convert f mode (.fin n m (e - ((s % 256 : Nat) : Int) + 127))
    | v => convert f mode v

/-! ### Scale derivation (R101) -/

/-- The offset t of a target format (R101). -/
def deriveT (f : BitVec 4) : Int :=
  match f.toNat with
  | 3 => 8
  | 4 => 15
  | 5 => 2
  | _ => 0

/-- Floor of the base-2 logarithm of a nonzero finite magnitude. -/
def FVal.top? (v : FVal) : Option Int :=
  match v with
  | .fin _ m e => if m = 0 then none else some ((Nat.log2 m : Int) + e)
  | _ => none

/-- The largest exponent of the nonzero values of a block. -/
def maxTop : List FVal → Option Int
  | [] => none
  | v :: vs => match v.top?, maxTop vs with
    | some a, some b => some (max a b)
    | some a, none => some a
    | none, r => r

/-- A value is NaN or an infinity. -/
def FVal.special (v : FVal) : Bool :=
  match v with
  | .fin _ _ _ => false
  | _ => true

/-- A value is an infinity. -/
def FVal.isInf (v : FVal) : Bool :=
  match v with
  | .inf _ => true
  | _ => false

/-- The block scale of R101. -/
def deriveScale (f : BitVec 4) (vs : List FVal) : Nat :=
  if vs.any FVal.special then 255
  else match maxTop vs with
    | none => 0x7F
    | some x => (max 0 (min 254 (x - deriveT f + 127))).toNat

/-- Derive a block: the scale, the codes and the flags that an X instruction sets (R101): a block that is all zero takes zero
codes. The modes stand for the elements' draws. -/
def deriveBlock (f : BitVec 4) (modes : List Mode) (vs : List FVal) : Nat × List Nat × Flags :=
  let s := deriveScale f vs
  if s = 255 then (255, vs.map (fun _ => 0), if vs.any FVal.isInf then flagNV else 0)
  else if (maxTop vs).isNone then (s, vs.map (fun _ => 0), 0)
  else
    let r := (List.zip modes vs).map fun (mo, v) => convertScaled f mo v s
    (s, r.map (·.1), r.foldl (fun acc x => acc ||| x.2) 0)

end Sys2Proof.Machine
end

