-- ==== Sys2Proof/Machine/Regs.lean ====
section
/-! DEFINITION. The accessors of a core's registers and queues: each register kind has one read and one write, with its
hard-wired cases (R109 to R114, R146 to R152), and token queues with the pushes of completed instructions (R287 to R289). -/

namespace Sys2Proof.Machine

open Sys2Proof

/-! ### Focus -/

/-- The state of engine e. -/
def Live.eng (l : Live) (e : Engine) : EngState :=
  match e with
  | .a => l.ea
  | .x => l.ex
  | .m => l.em
  | .b => l.eb

/-- Replace the state of engine e. -/
def Live.setEng (l : Live) (e : Engine) (x : EngState) : Live :=
  match e with
  | .a => { l with ea := x }
  | .x => { l with ex := x }
  | .m => { l with em := x }
  | .b => { l with eb := x }

/-- Change the state of engine e. -/
def Live.modEng (l : Live) (e : Engine) (f : EngState → EngState) : Live := l.setEng e (f (l.eng e))

/-- The live state of the focused core. -/
def State.live (s : State) : Live := s.core.live

/-- Replace the live state of the focused core. -/
def State.setLive (s : State) (l : Live) : State := { s with core := { s.core with live := l } }

/-- Change the live state of the focused core. -/
def State.modLive (s : State) (f : Live → Live) : State := s.setLive (f s.core.live)

/-- Change the live state of the focused core and every snapshot of its undo ring: what comes from outside the core is
not undone (R201, R202). -/
def State.modAll (s : State) (f : Live → Live) : State :=
  { s with core := { s.core with live := f s.core.live, ring := s.core.ring.map fun k => { k with live := f k.live } } }

/-- The engine that moves. -/
def State.eng (s : State) : EngState := s.core.live.eng s.cur

/-- Change the engine that moves. -/
def State.modEng (s : State) (f : EngState → EngState) : State := s.modLive fun l => l.modEng s.cur f

/-- Performance counter i of the focused core counts one event (R389). -/
def State.bump (s : State) (i : Nat) : State :=
  { s with core := { s.core with pmc := vset s.core.pmc i (vget s.core.pmc i 0 + 1) } }

/-! ### Scalar registers, flags, branch targets, address registers -/

/-- Scalar register n of an engine; s0 reads zero (R111). -/
def EngState.sreg (x : EngState) (n : BitVec 5) : Word := if n = 0 then 0 else vget x.s n.toNat 0

/-- Write scalar register n; a write to s0 is discarded (R111). -/
def EngState.setS (x : EngState) (n : BitVec 5) (v : Word) : EngState :=
  if n = 0 then x else { x with s := vset x.s n.toNat v }

/-- Scalar register n of the engine that moves. -/
def State.rs (s : State) (n : BitVec 5) : Word := s.eng.sreg n

/-- Write scalar register n of the engine that moves. -/
def State.ws (s : State) (n : BitVec 5) (v : Word) : State := s.modEng fun x => x.setS n v

/-- Condition flag n of an engine (R113). -/
def EngState.flag (x : EngState) (n : BitVec 2) : Bool := vget x.c n.toNat false

/-- Write condition flag n. -/
def EngState.setFlag (x : EngState) (n : BitVec 2) (v : Bool) : EngState := { x with c := vset x.c n.toNat v }

/-- Condition flag n of the engine that moves. -/
def State.rc (s : State) (n : BitVec 2) : Bool := s.eng.flag n

/-- Write condition flag n of the engine that moves. -/
def State.wc (s : State) (n : BitVec 2) (v : Bool) : State := s.modEng fun x => x.setFlag n v

/-- Branch target n (R114). -/
def EngState.target (x : EngState) (n : BitVec 2) : BitVec 13 := vget x.bt n.toNat 0

/-- Write branch target n. -/
def EngState.setTarget (x : EngState) (n : BitVec 2) (v : BitVec 13) : EngState := { x with bt := vset x.bt n.toNat v }

/-- Loop level n. -/
def EngState.level (x : EngState) (n : BitVec 2) : LoopLevel := vget x.lc n.toNat LoopLevel.zero

/-- Write loop level n. -/
def EngState.setLevel (x : EngState) (n : BitVec 2) (v : LoopLevel) : EngState := { x with lc := vset x.lc n.toNat v }

/-- Address register n (R112). -/
def State.ra (s : State) (n : BitVec 5) : DWord := vget s.core.live.a n.toNat 0

/-- Write address register n. -/
def State.wa (s : State) (n : BitVec 5) (v : DWord) : State := s.modLive fun l => { l with a := vset l.a n.toNat v }

/-! ### Vector registers, predicates and operand queues -/

/-- The bits of predicate n; p0 reads all-true (R152). -/
def Live.pred (l : Live) (n : BitVec 3) : BitVec 1024 := if n = 0 then BitVec.allOnes 1024 else vget l.p n.toNat 0

/-- Write predicate n; a write to p0 is discarded (never encoded, R51). -/
def Live.setPred (l : Live) (n : BitVec 3) (v : BitVec 1024) : Live :=
  if n = 0 then l else { l with p := vset l.p n.toNat v }

/-- Vector register f (R146). -/
def Live.vreg (l : Live) (f : BitVec 5) : VReg := vget l.v f.toNat VReg.zero

/-- Entries of load queue q, oldest first. -/
def Live.loadQ (l : Live) (q : Nat) : List LEntry := vget l.lq q []

/-- Entries of store queue q, oldest first. -/
def Live.storeQ (l : Live) (q : Nat) : List VReg := vget l.sq q []

/-- Replace the entries of load queue q. -/
def Live.setLoadQ (l : Live) (q : Nat) (es : List LEntry) : Live := { l with lq := vset l.lq q es }

/-- Replace the entries of store queue q. -/
def Live.setStoreQ (l : Live) (q : Nat) (es : List VReg) : Live := { l with sq := vset l.sq q es }

/-- A field that names a queue head (R52). -/
def isQueue (f : BitVec 5) : Bool := decide (28 ≤ f.toNat)

/-- The queue a field names (R52). -/
def queueOf (f : BitVec 5) : Nat := f.toNat - 28

/-- Number of entries at the head of a load queue that can be popped (R294). -/
def poppable : List LEntry → Nat
  | [] => 0
  | e :: es => if e.filled then poppable es + 1 else 0

/-- What a pop of n entries of load queue q waits for, if anything (R149, R294). -/
def Live.popWait (l : Live) (q n : Nat) : Option Wait :=
  if n ≤ poppable (l.loadQ q) then none
  else if n ≤ (l.loadQ q).length then some .external
  else some (.lqEntry q n)

/-- What the reads of source fields fs wait for (R149, R53). -/
def Live.srcWait (l : Live) (fs : List (BitVec 5)) : Option Wait :=
  (List.range 4).findSome? fun q => l.popWait q (fs.filter fun f => isQueue f && queueOf f == q).length

/-- What a push to destination field f waits for (R149). -/
def Live.dstWait (l : Live) (f : BitVec 5) : Option Wait :=
  if isQueue f && decide (Config.queueDepth ≤ (l.storeQ (queueOf f)).length) then some (.sqRoom (queueOf f)) else none

/-- Read source field f: a register, or the head of a queue, which is popped (R52, R148). -/
def Live.takeV (l : Live) (f : BitVec 5) : Option LEntry × VReg × Live :=
  if isQueue f then
    match l.loadQ (queueOf f) with
    | [] => (none, VReg.zero, l)
    | e :: es => (some e, e.val, l.setLoadQ (queueOf f) es)
  else (none, l.vreg f, l)

/-- Write destination field f: a register, or the tail of a store queue (R52, R148). -/
def Live.putV (l : Live) (f : BitVec 5) (r : VReg) : Live :=
  if isQueue f then l.setStoreQ (queueOf f) (l.storeQ (queueOf f) ++ [r])
  else { l with v := vset l.v f.toNat r }

/-- Put a newly reserved entry at the tail of load queue q (R294). -/
def Live.reserve (l : Live) (q seq : Nat) : Live :=
  l.setLoadQ q (l.loadQ q ++ [⟨seq, false, VReg.zero, none, none, none⟩])

/-- Fill the reserved entry of instruction seq in load queue q (R294, R295). -/
def Live.fill (l : Live) (q : Nat) (e : LEntry) : Live :=
  l.setLoadQ q ((l.loadQ q).map fun x => if x.seq = e.seq && !x.filled then e else x)

/-! ### Token queues -/

/-- Index of the queue from engine e to the next engine: AX, XM, MB, BA (R14). -/
def toNextIdx (e : Engine) : Nat :=
  match e with
  | .a => 0
  | .x => 2
  | .m => 4
  | .b => 6

/-- Index of the queue from engine e to the previous engine: AB, XA, MX, BM (R14). -/
def toPrevIdx (e : Engine) : Nat :=
  match e with
  | .a => 7
  | .x => 1
  | .m => 3
  | .b => 5

/-- Index of the queue to engine e from the previous engine. -/
def fromPrevIdx (e : Engine) : Nat := toNextIdx e.prev

/-- Index of the queue to engine e from the next engine. -/
def fromNextIdx (e : Engine) : Nat := toPrevIdx e.next

/-- Tokens in queue i. -/
def Live.tokens (l : Live) (i : Nat) : Nat := vget l.tok i 0

/-- Set the count of token queue i. -/
def Live.setTokens (l : Live) (i n : Nat) : Live := { l with tok := vset l.tok i n }

/-- Set what tokens have carried. -/
def Live.setTold (l : Live) (t : Told) : Live := { l with told := t }

/-- Instructions of A that engine e knows complete beside those under the floor (R15, R273). -/
def Live.known (l : Live) (e : Engine) : List Nat := vget l.told.engines e.idx []

/-- What the pushes of an instruction carry: what its engine knows, and for A the instruction itself (R15, R273). -/
def Live.knownWith (l : Live) (e : Engine) (seq : Nat) : List Nat :=
  match e with
  | .a => insertSorted seq (l.known e)
  | _ => l.known e

/-- Engine e learns that these instructions of A are complete (R15, R273). -/
def Live.learn (l : Live) (e : Engine) (ns : List Nat) : Live :=
  l.setTold { l.told with engines := vset l.told.engines e.idx (ns.foldl (fun k n => insertSorted n k) (l.known e)) }

/-- Engine e pops n tokens of queue i, and learns what they carry (R15, R287). -/
def Live.hear (l : Live) (e : Engine) (i n : Nat) : Live :=
  let q := vget l.told.queues i []
  let l1 := l.learn e (q.take n).flatten
  l1.setTold { l1.told with queues := vset l1.told.queues i (q.drop n) }

/-- What is left of the pushes of a list of issued instructions: the list, the room left in the two queues, and whether a
completed instruction's push still waits for room (R289). `bp` and `bn` say that an earlier push to that queue is not made. -/
def settleList (rp rn : Nat) (bp bn : Bool) : List Retire → List Retire × Nat × Nat × Bool
  | [] => ([], rp, rn, false)
  | r :: rs =>
    if r.done then
      let p := if bp then 0 else min r.sp rp
      let n := if bn then 0 else min r.sn rn
      let stall := (!bp && decide (p < r.sp)) || (!bn && decide (n < r.sn))
      let (rest, rp', rn', st) := settleList (rp - p) (rn - n) (bp || decide (p < r.sp)) (bn || decide (n < r.sn)) rs
      if r.sp = p && r.sn = n then (rest, rp', rn', st)
      else ({ r with sp := r.sp - p, sn := r.sn - n } :: rest, rp', rn', stall || st)
    else
      let (rest, rp', rn', st) := settleList rp rn (bp || decide (0 < r.sp)) (bn || decide (0 < r.sn)) rs
      (r :: rest, rp', rn', st)

/-- Room in the queues from engine e to its previous and next engines. -/
def Live.room (l : Live) (e : Engine) : Nat × Nat :=
  (Config.tokenDepth - l.tokens (toPrevIdx e), Config.tokenDepth - l.tokens (toNextIdx e))

/-- What the tokens carry that an engine pushes to the previous and to the next engine, in order: one list for each token (R15, R273,
R289). -/
def carryList (rp rn : Nat) (bp bn : Bool) : List Retire → List (List Nat) × List (List Nat)
  | [] => ([], [])
  | r :: rs =>
    if r.done then
      let p := if bp then 0 else min r.sp rp
      let n := if bn then 0 else min r.sn rn
      let q := carryList (rp - p) (rn - n) (bp || decide (p < r.sp)) (bn || decide (n < r.sn)) rs
      (List.replicate p r.known ++ q.1, List.replicate n r.known ++ q.2)
    else carryList rp rn (bp || decide (0 < r.sp)) (bn || decide (0 < r.sn)) rs

/-- Tokens join queue i with what they carry (R287). -/
def Told.carry (t : Told) (i : Nat) (ts : List (List Nat)) : Told := { t with queues := vset t.queues i (vget t.queues i [] ++ ts) }

/-- Make the pushes of engine e that can be made, in issue order, and drop the instructions that are wholly complete (R289). -/
def Live.settle (l : Live) (e : Engine) : Live :=
  match (l.eng e).retire with
  | [] => l
  | _ :: _ =>
    let r := settleList (l.room e).1 (l.room e).2 false false (l.eng e).retire
    let c := carryList (l.room e).1 (l.room e).2 false false (l.eng e).retire
    let l1 := (l.setTold ((l.told.carry (toPrevIdx e) c.1).carry (toNextIdx e) c.2)).modEng e fun x => { x with retire := r.1 }
    (l1.setTokens (toPrevIdx e) (Config.tokenDepth - r.2.1)).setTokens (toNextIdx e) (Config.tokenDepth - r.2.2.1)

/-- Whether a completed instruction's push to the previous engine, and one to the next, waits for room (R289). -/
def stallList (rp rn : Nat) (bp bn : Bool) : List Retire → Bool × Bool
  | [] => (false, false)
  | r :: rs =>
    if r.done then
      let wp := !bp && decide (rp < r.sp)
      let wn := !bn && decide (rn < r.sn)
      let q := stallList (rp - (if bp then 0 else min r.sp rp)) (rn - (if bn then 0 else min r.sn rn)) (bp || wp) (bn || wn) rs
      (wp || q.1, wn || q.2)
    else stallList rp rn (bp || decide (0 < r.sp)) (bn || decide (0 < r.sn)) rs

/-- The queues of engine e, to its previous and its next engine, for room in which a push of it waits (R289, R292). -/
def Live.pushWaits (l : Live) (e : Engine) : Bool × Bool := stallList (l.room e).1 (l.room e).2 false false (l.eng e).retire

/-- A completed instruction's push waits for room, so the engine issues nothing (R289). -/
def Live.pushStalled (l : Live) (e : Engine) : Bool :=
  (settleList (l.room e).1 (l.room e).2 false false (l.eng e).retire).2.2.2

/-- Instruction seq of engine e has completed: its pushes are made as they can be (R289). -/
def Live.retireDone (l : Live) (e : Engine) (seq : Nat) : Live :=
  (l.modEng e fun x => { x with retire := x.retire.map fun r => if r.seq = seq then { r with done := true } else r }).settle e

/-! ### Slow results of X (R124 to R127) -/

/-- Deliver one slow result: it stands over what an instruction issued before this point writes to its register, so a held operation
whose result is still to come writes that register no more (R110, R124, R127). -/
def Live.deliver (l : Live) (r : Slow) : Live :=
  let l1 := l.modEng .x fun x =>
    let x1 := x.setS r.dst r.val
    match r.cflag with
    | some (n, v) => x1.setFlag n v
    | none => x1
  { l1 with fpflags := l1.fpflags ||| r.flags, pendReg := l1.pendReg.filter fun x => x != (.x, r.dst) }

/-- Count one issued X instruction: results whose count is reached are delivered, in issue order (R125). -/
def Live.countSlow (l : Live) : Live :=
  match l.slow with
  | [] => l
  | _ :: _ =>
    let due := l.slow.filter fun r => decide (r.left ≤ 1)
    let rest := (l.slow.filter fun r => decide (1 < r.left)).map fun r => { r with left := r.left - 1 }
    due.foldl Live.deliver { l with slow := rest }

/-- Deliver every pending slow result, in issue order (R126). -/
def Live.flushSlow (l : Live) : Live := l.slow.foldl Live.deliver { l with slow := [] }

end Sys2Proof.Machine
end

