-- ==== Sys2Proof/Machine/Ops.lean ====
section
/-! DEFINITION. The shared operations of every instruction: issue, completion, stalls, taking an exception, the end of an
act, and the fault log (R15, R69, R106, R136, R194, R195, R288, R289, R307). -/

namespace Sys2Proof.Machine

open Sys2Proof

/-! ### Contexts, launches and the fault log -/

/-- The context of the resident act; 0 where there is none. -/
def State.ctxId (s : State) : Nat :=
  match s.core.act with
  | some a => a.ctx
  | none => 0

/-- The context with a number. -/
def State.ctxAt (s : State) (n : Nat) : Option Ctx := assoc s.ctxs n

/-- Change a context, if it exists. -/
def State.modCtx (s : State) (n : Nat) (f : Ctx → Ctx) : State := { s with ctxs := assocMod s.ctxs n f }

/-- Change the launch with a number, if it exists. -/
def State.modLaunch (s : State) (id : Nat) (f : Launch → Launch) : State :=
  { s with launches := s.launches.map fun l => if l.id = id then f l else l }

/-- The launch with a number. -/
def State.launchAt (s : State) (id : Nat) : Option Launch := s.launches.find? fun l => l.id == id

/-- The launch of the resident act. -/
def State.curLaunch (s : State) : Option Launch :=
  match s.core.act with
  | some a => s.launchAt a.launch
  | none => none

/-- The sequence number after n: 0 is skipped (R302, R307). -/
def nextSeq (n : Word) : Word := if n + 1 = 0 then 1 else n + 1

/-- Append an entry to a context's fault log, or count it as lost (R307, R308). -/
def Ctx.log (c : Ctx) (e : FLog) : Ctx :=
  if c.flog.length < Config.flogDepth then
    { c with flog := c.flog ++ [{ e with seq := c.flogSeq }], flogSeq := nextSeq c.flogSeq }
  else { c with flogLost := min 65535 (c.flogLost + 1) }

/-- HDR of a fault-log entry (R307). -/
def flogHdr (code eng : Nat) (prec fin cv : Bool) : Word :=
  BitVec.ofNat 32 (code + 256 * eng + (if prec then 1024 else 0) + (if fin then 2048 else 0) + (if cv then 4096 else 0))

/-- An asynchronous fault with an engine and a core (R307); the program counters are 0. -/
def State.logAsync (s : State) (ctx code eng : Nat) (cv fin : Bool) (tv0 tv1 : Word) : State :=
  s.modCtx ctx fun c => c.log
    { hdr := flogHdr code eng false fin cv, tval0 := tv0, tval1 := tv1, seq := 0,
      core := if cv then BitVec.ofNat 32 s.core.num else 0,
      scene := if cv then (match s.core.act with | some a => a.record.scene | none => 0) else 0, pcax := 0, pcmb := 0 }

/-- An asynchronous fault of an operation of the resident act (R197). -/
def State.logOp (s : State) (code : Nat) (eng : Engine) (tv0 tv1 : Word) : State :=
  s.logAsync s.ctxId code eng.idx true false tv0 tv1

/-- Two program counters in one word of a fault-log entry (R307). -/
def pcPair (x y : EngState) : Word := BitVec.ofNat 32 (x.pc % 8192 + 65536 * (y.pc % 8192))

/-- The entry of a fault that ends the act (R195, R307). -/
def State.logEnd (s : State) (code eng : Nat) (prec : Bool) (tv0 tv1 : Word) : State :=
  s.modCtx s.ctxId fun c => c.log
    { hdr := flogHdr code eng prec true true, tval0 := tv0, tval1 := tv1, seq := 0,
      core := BitVec.ofNat 32 s.core.num,
      scene := match s.core.act with | some a => a.record.scene | none => 0,
      pcax := pcPair s.core.live.ea s.core.live.ex, pcmb := pcPair s.core.live.em s.core.live.eb }

/-! ### The end of an act -/

/-- How an ended act counts for its launch (R312). -/
inductive Tally
  | ended | faulted | bad | dropped
deriving DecidableEq, Repr

/-- Count an act that leaves its launch (R22, R312). -/
def State.tally (s : State) (id : Nat) (t : Tally) : State :=
  s.modLaunch id fun l =>
    match t with
    | .ended => { l with ended := l.ended + 1, open_ := l.open_ - 1 }
    | .faulted => { l with faulted := l.faulted + 1, open_ := l.open_ - 1 }
    | .bad => { l with bad := l.bad + 1, open_ := l.open_ - 1 }
    | .dropped => { l with dropped := l.dropped + 1, open_ := l.open_ - 1 }

/-- The 64 lines of a page. -/
def linesOf (page : Nat) : List Nat := (List.range 64).map (64 * page + ·)

/-- Who waits for snoops (R357): A of a core and its copy channels, the collective engine for a context, a peer of a context, a flip of a
page, and a write that waits at its sequencer. -/
def snoopCore (n : Nat) : Nat := 16 * n
def snoopChan (n ch : Nat) : Nat := 16 * n + ch + 1
def snoopCol (ctx : Nat) : Nat := 4096 + ctx
def snoopPeer (ctx peer : Nat) : Nat := 8192 + 64 * ctx + peer
def snoopFlip (page : Nat) : Nat := 16384 + 2 * page
def snoopLate (stamp : Nat) : Nat := 16385 + 2 * stamp

/-- The host has given up every line of a page that flips to device bias, and no access for which a snoop was sent is left (R358). -/
def State.flipDue (s : State) (p : Nat) : Bool :=
  (linesOf p).all fun k => s.host.acked.contains (k, snoopFlip p) && s.host.pledged.all fun x => x.1 != k || x.2 == snoopFlip p

/-- Flips to device bias that wait for nothing more set their bit (R358). -/
def State.endFlips (s : State) : State :=
  let due := s.host.flips.filter s.flipDue
  { s with host := { s.host with
      flips := s.host.flips.filter fun p => !due.contains p,
      hostBias := s.host.hostBias.filter fun p => !due.contains p,
      pledged := s.host.pledged.filter fun x => !due.contains (x.1 / 64),
      acked := s.host.acked.filter fun x => !due.contains (x.1 / 64) } }

/-- Those that a predicate names wait for no snoop any more. -/
def State.unpledge (s : State) (f : Nat → Bool) : State :=
  State.endFlips { s with host := { s.host with pledged := s.host.pledged.filter fun x => !f x.2,
                                                acked := s.host.acked.filter fun x => !f x.2 } }

/-- Who waits for a snoop in core n. -/
def snoopsOf (n who : Nat) : Bool := decide (who / 16 = n)

/-- The core has no resident act any more: requests are satisfied, and no engine issues (R23, R24, R195, R196). -/
def State.vacate (s : State) : State :=
  { s.unpledge (snoopsOf s.core.num) with
    core := { s.core with act := none, ring := [], request := none, yieldMark := false, cancelled := false,
                          ending := none, releasing := none, halt := false, live := { s.core.live with pendReg := [], acc := [] } } }

/-- Nothing the act has started outside its queues is under way: accesses, held operations, bank commands, copies. -/
def State.quiet (s : State) : Bool :=
  s.core.live.acc.isEmpty && vall s.core.live.bankFifo (·.isEmpty) && vall s.core.chans (·.queue.isEmpty)

/-- An ending after which the act is not resumed. -/
def Ending.final (k : Ending) : Bool :=
  match k with
  | .image _ => false
  | .suspend _ => false
  | _ => true

/-- Stop every engine of the core and begin to end its act: nothing new issues (R195 steps 1 and 2). The first final ending
stands. -/
def State.beginEnd (s : State) (k : Ending) : State :=
  let stop := fun (x : EngState) => { x with stopped := true, rend := none }
  ({ s with core := { s.core with ending := match s.core.ending with
      | some k' => if k'.final then some k' else some k
      | none => some k } }).modLive
    fun l => { l with ea := stop l.ea, ex := stop l.ex, em := stop l.em, eb := stop l.eb }

/-! ### Taking an exception (R194, R195) -/

/-- A precise fault: its cause code and fault values (R199). -/
structure Trap where
  code : Nat
  tv0 : Word
  tv1 : Word
deriving DecidableEq, Repr

/-- Causes that a handler may take (R199). -/
def handleable (code : Nat) : Bool := code == 1 || code == 4 || code == 5 || code == 6

/-- The four trap registers of a fault at the engine's program counter (R187). -/
def EngState.record (x : EngState) (t : Trap) (h : Bool) : EngState :=
  { x with cause := BitVec.ofNat 32 (t.code + if h then 256 else 0), epc := BitVec.ofNat 32 (x.pc % 8192),
           tval0 := t.tv0, tval1 := t.tv1 }

/-- The engine's issue state with no instruction begun and no redirect pending (R137, R194). -/
def EngState.idle (x : EngState) : EngState :=
  { x with slots := 0, redir := none, backEdge := none, started := false, phase := 0, wait := none }

/-- Handler entry (R194). -/
def EngState.enter (x : EngState) (t : Trap) : EngState :=
  let y := (x.record t true).idle
  { y with tvec := x.tvec &&& 0x7FFFFFFF, pc := (x.tvec.extractLsb' 0 13).toNat }

/-- The fault enters the handler: its cause is handleable and TVEC.EN is set (R194). -/
def EngState.handles (x : EngState) (t : Trap) : Bool := handleable t.code && x.tvec.getLsbD 31

/-- The count of an MMX raised (R389). -/
def State.countTrap (s : State) (t : Trap) : State := if t.code = 0x14 then s.bump 13 else s

/-- Taking a precise fault in engine e (R194, R195): pending slow results of X are delivered, then the fault enters the
handler or ends the act. -/
def State.take (s : State) (e : Engine) (t : Trap) : State :=
  let s1 := (if e = .x then s.modLive Live.flushSlow else s).countTrap t
  let x := s1.core.live.eng e
  if x.handles t then s1.setLive (s1.core.live.setEng e (x.enter t))
  else (s1.setLive (s1.core.live.setEng e (x.record t false).idle)).beginEnd (.fault t.code e t.tv0 t.tv1)

/-- A drain to the scratchpad still writes into a macro of a pass (R228). -/
def SpDrain.heldBy (d : SpDrain) (p : PassRun) : Bool :=
  d.parts.any fun x => decide (p.first ≤ x.1 / 65536) && decide (x.1 / 65536 < p.first + p.nd * p.kd)

/-- The engine's issued pass that lacks vectors, which only it can feed, and its drains that wait for that pass (R213, R228). -/
def Live.starved (l : Live) (e : Engine) : List Nat :=
  match e, l.pass with
  | .m, some p => p.seq :: (l.spDrains.filter fun d => d.heldBy p).map (·.seq)
  | _, _ => []

/-- Every earlier instruction of the moving engine has completed, but for a pass that only this engine could feed and what is held
behind it: a fault is taken now (R194, R213; log 39). -/
def State.mayTake (s : State) : Bool :=
  s.eng.retire.all fun r => r.done || (s.core.live.starved s.cur).contains r.seq

/-- What an instruction waits for that waits for the earlier ones of its engine to complete: room in lq3 for a drain, or what
no engine gives; B's instructions wait for their parts at the banks (R220, R225, R292). -/
def State.earlierWait (s : State) : Wait :=
  if s.cur = .b then .earlier else if s.cur = .m && !s.core.live.drains.isEmpty then .lqRoom 3 else .external

/-- A precise fault at the instruction of the moving engine, with s as it stands when the fault is not yet taken: it is taken
once every earlier instruction of the engine has completed (R194). -/
def State.raiseFrom (s : State) (s' : State) (t : Trap) : State :=
  if s.mayTake then s'.take s.cur t else s.modEng fun x => { x with wait := some s.earlierWait }

/-- A precise fault at the instruction of the moving engine (R194). -/
def State.raise (s : State) (t : Trap) : State := s.raiseFrom s t

/-- ILLOP at an instruction (R69, R199). -/
def illopOf (i : Instr) : Trap := ⟨1, (encode i).getD 0 0, (encode i).getD 1 0⟩

/-! ### Issue (R69, R288, R106, R137) -/

/-- What an instruction does when it is asked to go on at issue. -/
inductive Res
  /-- It waits, and nothing has changed. -/
  | wait (w : Wait)
  /-- It stays at issue, having made a step of its own. -/
  | hold (s : State) (w : Wait)
  /-- It raises a precise fault; s holds what it took at its start. -/
  | fault (s : State) (t : Trap)
  /-- It issues and completes. -/
  | done (s : State)
  /-- It issues, and completes later. -/
  | pend (s : State)
  /-- It issues and completes, and the flow goes on at a word of its own. -/
  | jump (s : State) (next : Nat)
  /-- It issues and completes as a branch: two delay slots follow, then the target, if taken (R135, R136). -/
  | branch (s : State) (tgt : Option (BitVec 13))

/-- How an instruction issues: its words, what it takes and pushes beside its cue nibble, its checks of R69 rows 5 and 6
that depend on the state, whether it may stand in a delay slot, whether it delivers slow results first (R126), the scalar
registers it names, and what it does. -/
structure Issue where
  i : Instr
  cu : Cue
  op : BitVec 7
  takes : Nat × Nat := (0, 0)
  gives : Nat × Nat := (0, 0)
  chk : State → Option Trap := fun _ => none
  alm : State → Option Trap := fun _ => none
  slot : Bool := true
  flush : Bool := false
  uses : List (BitVec 5) := []
  body : State → Res

/-- 1 for true. -/
def b2n (b : Bool) : Nat := if b then 1 else 0

/-- Tokens popped from the previous engine's queue (R15, R290). -/
def Issue.np (p : Issue) : Nat := p.takes.1 + b2n p.cu.wp

/-- Tokens popped from the next engine's queue. -/
def Issue.nn (p : Issue) : Nat := p.takes.2 + b2n p.cu.wn

/-- Words of the instruction (R48). -/
def Issue.len (p : Issue) : Nat := if isWide p.op then 2 else 1

/-- The instruction stays at issue and waits (R288). -/
def State.stall (s : State) (w : Wait) : State := s.modEng fun x => { x with wait := some w }

/-- The almanac entry index and entry for the moving engine (R106). -/
def State.almNow (s : State) : Nat × Word :=
  let n := ((s.eng.level s.eng.almlvl).iter % 16).toNat
  (n, vget s.core.live.alm n 0)

/-- The start of an instruction that takes np tokens from the previous engine and nn from the next: they are popped, the almanac
entry is fixed, and X counts the instruction, or delivers all its slow results first (R125, R126, R288). -/
def State.begun (s : State) (np nn : Nat) (flush : Bool) : State :=
  s.modLive fun l =>
    let e := s.cur
    let l0 := (l.hear e (fromPrevIdx e) np).hear e (fromNextIdx e) nn
    let l1 := l0.setTokens (fromPrevIdx e) (l0.tokens (fromPrevIdx e) - np)
    let l2 := l1.setTokens (fromNextIdx e) (l1.tokens (fromNextIdx e) - nn)
    let l3 := l2.modEng e fun x =>
      { x with started := true, phase := 0, phaseSeq := 0, wait := none, issued := x.issued + 1, alment := s.almNow.2 }
    if e = .x then (if flush then l3.flushSlow else l3.countSlow) else l3

/-- An instruction of len words has issued: it joins the engine's list with its completion and its pushes of sp and sn tokens,
the flow goes on at `next`, or past it, and the back-edge decision of its end word is due (R136, R141, R289). -/
def State.passed (s : State) (len sp sn : Nat) (isDone : Bool) (next : Option Nat) : State :=
  s.modLive fun l =>
    let e := s.cur
    let l1 := l.modEng e fun x =>
      { x with
        retire := x.retire ++ [⟨l.seq, isDone, sp, sn, l.knownWith e l.seq⟩], backEdge := some (x.pc + len - 1), pc := next.getD (x.pc + len),
        slots := x.slots - 1, started := false, phase := 0, wait := none }
    ({ l1 with seq := l.seq + 1 }).settle e

/-- The start of an instruction. -/
def Issue.start (p : Issue) (s : State) : State := s.begun p.np p.nn p.flush

/-- The instruction has issued, and goes on at `next` or past it. -/
def Issue.advance (p : Issue) (s : State) (isDone : Bool) (next : Option Nat) : State :=
  s.passed p.len (p.gives.1 + b2n p.cu.sp) (p.gives.2 + b2n p.cu.sn) isDone next

/-- The instruction issues and completes. -/
def Issue.finish (p : Issue) (s : State) : State := p.advance s true none

/-- What follows from the instruction's own account of itself. -/
def Issue.settle (p : Issue) (s : State) : Res → State
  | .wait w => s.stall w
  | .hold s' w => s'.stall w
  | .fault s' t => s.raiseFrom s' t
  | .done s' => p.finish s'
  | .pend s' => p.advance s' false none
  | .jump s' next => p.advance s' true (some next)
  | .branch s' tgt => (p.advance s' true none).modEng fun x => { x with slots := 2, redir := tgt }

/-- The wait for tokens of an instruction (R15, R288). -/
def Issue.tokenWait (p : Issue) (s : State) : Option Wait :=
  if s.core.live.tokens (fromPrevIdx s.cur) < p.np then some (.token true p.np)
  else if s.core.live.tokens (fromNextIdx s.cur) < p.nn then some (.token false p.nn)
  else none

/-- A register that the instruction names still waits for the result of a held operation (R110, R201). -/
def Issue.regWait (p : Issue) (s : State) : Bool :=
  s.core.live.pendReg.any fun r => r.1 == s.cur && p.uses.contains r.2

/-- A started instruction goes on, unless a register that it names still waits for its result (R110). -/
def Issue.go (p : Issue) (s : State) : State := if p.regWait s then s.stall .external else p.settle s (p.body s)

/-- One try of an instruction by the moving engine, in the order of R69 and R288: the engine check, the checks of row 5, the
tokens, the almanac check of row 6, the delay-slot rule of R137, then its start and what it does. -/
def Issue.step (p : Issue) (s : State) : State :=
  if s.eng.started then p.go s
  else if !opLegal p.op s.cur then s.raise ⟨2, (encode p.i).getD 0 0, 0⟩
  else match p.chk s with
    | some t => s.raise t
    | none => match p.tokenWait s with
      | some w => s.stall w
      | none => match p.alm s with
        | some t => s.raise t
        | none =>
          if !p.slot && decide (0 < s.eng.slots) then s.raise (illopOf p.i)
          else p.go (p.start s)

/-- The outcome of an instruction: always a next state. -/
def Issue.run (p : Issue) (s : State) : Host.Outcome State Fault Refusal := .next (p.step s)

/-- An instruction of one word or two that always completes at issue with the effect f. -/
def plain (i : Instr) (cu : Cue) (op : BitVec 7) (uses : List (BitVec 5)) (f : State → State) (s : State) :
    Host.Outcome State Fault Refusal :=
  ({ i := i, cu := cu, op := op, uses := uses, body := fun s => .done (f s) } : Issue).run s

/-! ### Free values -/

/-- Draw a free value: the counter of free values rises (R9). -/
def State.draw (s : State) : Nat × State := (Config.freeNat s.free, { s with free := s.free + 1 })

end Sys2Proof.Machine
end

