-- ==== Sys2Proof/Machine/Fetch.lean ====
section
/-! DEFINITION. Fetching an instruction from an engine's instruction memory, when an engine may issue, and placing a word
where the next step fetches it (R46 to R48, R60 to R63, R69, R230). -/

namespace Sys2Proof.Machine

open Sys2Proof

/-- Word a of an engine's instruction memory (R230). -/
def EngState.word (x : EngState) (a : Nat) : Word := Sparse.get 0 x.imem a

/-- The instruction at the engine's program counter; words that are refused become the row ILLOP (R62, R63, R69). -/
def EngState.fetched (x : EngState) : Instr :=
  if 8192 ≤ x.pc ∨ x.tags.contains x.pc = true then .illop (x.word x.pc) (x.word (x.pc + 1))
  else match decode (x.word x.pc) (x.word (x.pc + 1)) with
    | .ok i => i
    | .error _ => .illop (x.word x.pc) (x.word (x.pc + 1))

/-- The engines issue: an act is resident, and the core is neither halted nor ending its act (R23, R195, R198). -/
def State.running (s : State) : Bool := s.core.act.isSome && !s.core.halt && s.core.ending.isNone

/-- An instruction that waits, once it has started, for a condition outside itself: a full image saves it as started (R331), and
an act that ends does not wait for it (log 37). -/
def waitsOutside (i : Instr) : Bool :=
  match i with
  | .cue _ _ => true
  | .actYield _ => true
  | .actEnd _ => true
  | .drain _ => true
  | .semWait _ _ _ _ _ _ => true
  | .cwait _ _ _ => true
  | .colWait .. => true
  | .curtWait .. => true
  | .digRd .. => true
  | .brk _ _ => true
  | _ => false

/-- Engine e has started an instruction that completes while nothing new issues (R195, R198, R331): at a halt, every one but the
`brk` itself; while the act ends or suspends, every one that waits for nothing outside itself. -/
def State.goesOn (s : State) (e : Engine) : Bool :=
  let x := s.core.live.eng e
  x.started &&
    (match s.core.ending with
     | none => !(match x.fetched with | .brk _ _ => decide (x.phase = 1) | _ => false)
     | some (.suspend _) => false
     | some _ => !waitsOutside x.fetched)

/-- Engine e may take a step at its program counter: an act is resident, the engine is not at a rendezvous and none of its pushes
waits for room, and it issues, or completes what it has started (R17, R195, R198, R289, R331). -/
def State.canIssue (s : State) (e : Engine) : Bool :=
  s.core.act.isSome && (s.running && !(s.core.live.eng e).stopped || s.goesOn e) && (s.core.live.eng e).rend.isNone &&
    !s.core.live.pushStalled e

/-- What an upset would restore of a core as it stands (R200). -/
def Core.cut (c : Core) : Cut := ⟨c.live, c.halt, c.ending, c.yieldMark, c.lastCue⟩

/-- Keep a snapshot in the undo ring (R200). -/
def State.snapshot (s : State) : State :=
  { s with core := { s.core with ring := (s.core.cut :: s.core.ring).take Config.ringDepth } }

/-- Bring core n into focus: the focused core is parked, core n is taken from the parked ones or as bring-up leaves it. -/
def State.focus (s : State) (n : Nat) : State :=
  if s.core.num = n then s
  else
    let ps := assocSet s.parked s.core.num s.core
    { s with core := (assoc ps n).getD (Core.reset n), parked := assocDel ps n }

/-- The first engine, in A, X, M, B order, where an opcode is legal (R64). -/
def firstEngine (op : BitVec 7) : Engine :=
  if opLegal op .a then .a else if opLegal op .x then .x else if opLegal op .m then .m else .b

/-- Put the words w and x at an engine's program counter, x tagged when w opens a W instruction, with the engine free to
issue (R60, R230). -/
def EngState.place (y : EngState) (w x : Word) : EngState :=
  { y with imem := Sparse.write 0 y.imem y.pc [w, x],
           tags := (y.tags.filter fun t => t != y.pc && t != y.pc + 1) ++ (if isWide (opOf w) then [y.pc + 1] else []),
           slots := 0, redir := none, backEdge := none, started := false, phase := 0, wait := none, rend := none,
           stopped := false }

/-- The act that withFetchWord makes resident where there is none: the record, context and launch 0 (log 21). -/
def blankAct : Act :=
  { record := ⟨0, 0, 0, 0, 0, []⟩, origin := ⟨0, 0, 0, 0, 0, []⟩, ctx := 0, launch := 0, num := 0, image := .none, placed := 0,
    home := 0, spawned := false, slot := none, pinned := false }

/-- The state whose very next step fetches and runs the words w and x in the first engine where w is legal (log 21). -/
def State.placeWords (s : State) (w x : Word) : State :=
  let e := firstEngine (opOf w)
  { s with
    core := { s.core with
      live := s.core.live.setEng e ((s.core.live.eng e).place w x),
      act := match s.core.act with
        | some a => some a
        | none => some blankAct,
      halt := false, ending := none },
    power := .ready, agenda := [], turn := .eng e, cur := e }

end Sys2Proof.Machine
end

