-- ==== Sys2Proof/Machine/Arrive.lean ====
section
/-! DEFINITION. What arrives at the banks of the scratchpad and when it may be performed there: the marks of stationary macros, the
macros that a pass reads, drains of M, and the FIFOs of bank commands (R204 to R206, R220, R226 to R228, R299). -/

namespace Sys2Proof.Machine

open Sys2Proof

/-! ### Macros and passes -/

/-- The mark of macro m. -/
def Live.mark (l : Live) (m : Nat) : Option Mark := vget l.marks m none

/-- Mark or unmark macro m. -/
def Live.setMark (l : Live) (m : Nat) (k : Option Mark) : Live := { l with marks := vset l.marks m k }

/-- The macros of group g, ascending. -/
def Live.groupOf (l : Live) (g : Nat) : List Nat :=
  (List.range 64).filter fun m => match l.mark m with | some k => k.group == g | none => false

/-- The pass reads macro m. -/
def PassRun.reads (p : PassRun) (m : Nat) : Bool := decide (p.first ≤ m) && decide (m < p.first + p.nd * p.kd)

/-- A row of the pass has been formed, as its vectors were there, so it has begun to read the macros of its group (R216, R226). -/
def PassRun.begun (p : PassRun) : Bool := decide (0 < p.rows)

/-- The pass under way reads the bank of an address (R228). -/
def Live.passReads (l : Live) (a : Nat) : Bool :=
  match l.pass with
  | some p => p.reads (a / 65536)
  | none => false

/-- A pass under way makes the instruction wait for ever: only M feeds it (R213). -/
def Live.passBlocks (l : Live) (f : PassRun → Bool) : Bool :=
  match l.pass with
  | some p => f p
  | none => false

/-! ### Drains to the scratchpad (R220, R226 to R228) -/

/-- Two byte ranges share a granule of 4 bytes (R226). -/
def sameGranule (a n b m : Nat) : Bool :=
  decide (0 < n) && decide (0 < m) && decide (a / 4 ≤ (b + m - 1) / 4) && decide (b / 4 ≤ (a + n - 1) / 4)

/-- The writes of a list that no earlier one shares a granule with: accesses to a granule perform in the order of their arrival, and
those to different granules in any order (R226, R227). -/
def drainHeads (seen : List (Nat × List Byte)) : List (Nat × Nat × List Byte) → List (Nat × Nat × List Byte)
  | [] => []
  | x :: xs =>
    if seen.any fun y => sameGranule y.1 y.2.length x.2.1 x.2.2.length then drainHeads (x.2 :: seen) xs
    else x :: drainHeads (x.2 :: seen) xs

/-- The writes of pending drains that may be performed now, unless the pass under way reads their macro: instruction, address and
bytes. -/
def Live.drainReady (l : Live) : List (Nat × Nat × List Byte) :=
  (drainHeads [] (l.spDrains.flatMap fun d => d.parts.map fun x => (d.seq, x))).filter fun x => !l.passReads x.2.1

/-- The pending drains with a write into a macro that the pass under way reads: they wait until it completes (R228). -/
def Live.heldDrains (l : Live) : List Nat := (l.spDrains.filter fun d => d.parts.any fun x => l.passReads x.1).map (·.seq)

/-- A write of a pending drain is performed at its bank; with its last one the drain completes (R220, R289). -/
def Live.drainWrite (l : Live) (x : Nat × Nat × List Byte) : Live :=
  let ds := l.spDrains.map fun d => if d.seq = x.1 then { d with parts := d.parts.erase x.2 } else d
  let l1 := { l with scratch := l.scratch.write x.2.1 x.2.2, spDrains := ds.filter fun d => !d.parts.isEmpty }
  if l1.spDrains.any fun d => d.seq == x.1 then l1 else l1.retireDone .m x.1

/-! ### The FIFOs of bank commands (R226, R228, R299) -/

/-- The banks that n bytes at a scratchpad address touch (R204). -/
def banksOf (off n : Nat) : List Nat := (List.range 64).filter fun j => decide (off < 65536 * (j + 1)) && decide (65536 * j < off + n)

/-- The banks that a copy of n bytes reads or writes. -/
def copyBanks (d a : Word) (n : Nat) : List Nat :=
  (List.range 64).filter fun j => (banksOf d.toNat n).contains j || (banksOf a.toNat n).contains j

/-- The commands in the FIFO of bank j. -/
def Live.fifo (l : Live) (j : Nat) : List BankCmd := vget l.bankFifo j []

/-- Replace the commands in the FIFO of bank j. -/
def Live.setFifo (l : Live) (j : Nat) (cs : List BankCmd) : Live := { l with bankFifo := vset l.bankFifo j cs }

/-- The macros of the group of bank j that a command in its FIFO writes, or bank j alone: a write of several macros of one group is
performed wholly before or wholly after a pass's read of the group (R228). -/
def Live.joint (l : Live) (c : BankCmd) (j : Nat) : List Nat :=
  match l.mark j with
  | some k => (l.groupOf k.group).filter fun i => (l.fifo i).any fun x => x.seq == c.seq
  | none => [j]

/-- The banks at which a command is performed together with bank j: a copy has one part (R224, R228). -/
def BankCmd.parts (c : BankCmd) (l : Live) (j : Nat) : List Nat :=
  match c.instr with
  | .bkCopy _ _ _ _ => [j]
  | _ => l.joint c j

/-- The banks that these parts of a command write (R228). -/
def BankCmd.writes (c : BankCmd) (l : Live) (j : Nat) : List Nat :=
  match c.instr with
  | .bkCopy _ _ _ len => banksOf c.dv.toNat ((len.toNat + 1) * 32)
  | _ => l.joint c j

/-- The banks whose FIFO the command leaves with these parts. -/
def BankCmd.frees (c : BankCmd) (l : Live) (j : Nat) : List Nat :=
  match c.instr with
  | .bkCopy _ _ _ len => copyBanks c.dv c.av ((len.toNat + 1) * 32)
  | _ => l.joint c j

/-- The head of bank j's FIFO may begin: it is at the head of every bank that it leaves, and no pass that has begun to read its
macros reads what it writes (R226, R228, R299). -/
def Live.bankReady (l : Live) (j : Nat) : Option BankCmd :=
  match l.fifo j with
  | [] => none
  | c :: _ =>
    if ((c.frees l j).all fun k => match l.fifo k with | x :: _ => x.seq == c.seq | [] => false) &&
        !(l.passBlocks fun p => p.begun && (c.writes l j).any p.reads)
    then some c else none

/-- Commands stand in the FIFOs and none may begin: they wait for a pass that lacks vectors (R228). -/
def Live.banksHeld (l : Live) : Bool :=
  !vall l.bankFifo (·.isEmpty) && (List.range 64).all fun j => (l.bankReady j).isNone

/-- What the core has started goes on by itself: accesses, copies, bank commands and drains that may be performed (R292). -/
def State.goesByItself (s : State) : Bool :=
  !s.core.live.acc.isEmpty || !vall s.core.chans (·.queue.isEmpty) || !s.core.live.drainReady.isEmpty ||
    (List.range 64).any fun j => (s.core.live.bankReady j).isSome

end Sys2Proof.Machine
end

