-- ==== Sys2Proof/Machine/Control.lean ====
section
/-! DEFINITION. Control flow: cue points as rendezvous, branches with two delay slots, hardware loops and back-edge
decisions, traps, breakpoints, tokens, refused words and deadlock (R17, R62, R69, R131 to R144, R198, R287 to R293). -/

namespace Sys2Proof.Machine

open Sys2Proof

/-! ### Rendezvous -/

/-- The index at which an engine other than e waits, the first in A, X, M, B order (R199). -/
def Live.otherRend (l : Live) (e : Engine) : Option Nat :=
  [Engine.a, .x, .m, .b].findSome? fun f => if f = e then none else (l.eng f).rend

/-- An issued pass still lacks vectors, which only the M engine feeds (R213). -/
def State.hopeless (s : State) : Bool := s.cur == .m && s.core.live.pass.isSome

/-- The DEADLOCK fault of the M engine alone (R213). -/
def deadlockM : Trap := ⟨8, 4, 0⟩

/-- An instruction that waits for its engine's rendezvous at an index (R17, R131, R328): CUEMIS where another engine waits
at a different one. -/
def rendezvous (index : Nat) (s : State) : Res :=
  if s.hopeless then .fault s deadlockM
  else match s.core.live.otherRend s.cur with
    | some n =>
      if n = index then .hold (s.modEng fun x => { x with rend := some index, phase := 1 }) (.rendezvous index)
      else .fault s ⟨7, BitVec.ofNat 32 index, BitVec.ofNat 32 n⟩
    | none => .hold (s.modEng fun x => { x with rend := some index, phase := 1 }) (.rendezvous index)

/-- CUE n: the engine waits at cue point n; X delivers its slow results first (R17, R126, R131). -/
def execCue (cu : Cue) (n : BitVec 13) (s : State) : Host.Outcome State Fault Refusal :=
  ({ i := .cue cu n, cu := cu, op := 0x02, slot := false, flush := true,
     body := rendezvous n.toNat } : Issue).run s

/-! ### Back-edge decisions (R141) -/

/-- Insert a level into a list of levels with the newest entry order first. -/
def insertLevel (x : EngState) (n : BitVec 2) : List (BitVec 2) → List (BitVec 2)
  | [] => [n]
  | m :: ms => if (x.level m).seq < (x.level n).seq then n :: m :: ms else m :: insertLevel x n ms

/-- The active levels whose body ends at word w, newest first (R141). -/
def EngState.ending (x : EngState) (w : Nat) : List (BitVec 2) :=
  ([0, 1, 2, 3] : List (BitVec 2)).foldr (fun n acc =>
    if (x.level n).act && decide ((x.level n).stop.toNat = w) then insertLevel x n acc else acc) []

/-- Take the decision over a list of levels; the flags are read by c (R141). -/
def decideLevels (c : BitVec 2 → Bool) (x : EngState) : List (BitVec 2) → EngState × Option Nat
  | [] => (x, none)
  | n :: ns =>
    let v := x.level n
    if decide (v.cnt.toNat ≤ 1) || (match v.xf with | some f => c f | none => false) then
      decideLevels c (x.setLevel n { v with act := false, cnt := 0, iter := 0 }) ns
    else (x.setLevel n { v with cnt := v.cnt - 1, iter := v.iter + 1 }, some v.start.toNat)

/-- The back-edge decision at end word w: the levels after it, and the word it goes back to, if any (R141). -/
def EngState.decision (x : EngState) (c : BitVec 2 → Bool) (w : Nat) : EngState × Option Nat :=
  decideLevels c x (x.ending w)

/-- The flags of engine e as an instruction issued next would read them: slow results that are due count (R125, R141). -/
def Live.flagsNext (l : Live) (e : Engine) : BitVec 2 → Bool :=
  let l1 := if e = .x then (l.slow.filter fun r => decide (r.left ≤ 1)).foldl Live.deliver l else l
  fun n => (l1.eng e).flag n

/-- The flow after the decision: a back-edge taken sets the program counter, and a taken branch whose slots have issued
overrides it (R135, R142). -/
def EngState.flow (x : EngState) (back : Option Nat) : EngState :=
  let y := { x with backEdge := none, pc := back.getD x.pc }
  match y.redir with
  | some t => if y.slots = 0 then { y with pc := t.toNat, redir := none } else y
  | none => y

/-- BACK_EDGE_DECISION of engine e after the issue of an instruction (R141, R142). -/
def execBackEdgeDecision (e : Engine) (s : State) : Host.Outcome State Fault Refusal :=
  .next (match (s.core.live.eng e).backEdge with
    | none => s
    | some w => s.modLive fun l =>
        let r := (l.eng e).decision (l.flagsNext e) w
        l.setEng e (r.1.flow r.2))

/-! ### Branches -/

/-- BPREP: b[k] receives the target (R134). -/
def execBprep (cu : Cue) (k : BitVec 2) (tgt : BitVec 13) (s : State) : Host.Outcome State Fault Refusal :=
  plain (.bprep cu k tgt) cu 0x03 [] (fun s => s.modEng fun x => x.setTarget k tgt) s

/-- The branch is taken (R49, R135). -/
def State.taken (s : State) (c : BitVec 2) (cnd : BitVec 3) : Bool :=
  match cnd.toNat with
  | 0 => true
  | 1 => s.rc c
  | _ => !s.rc c

/-- The target of a branch, if taken. -/
def State.target (s : State) (t c : BitVec 2) (cnd : BitVec 3) : Option (BitVec 13) :=
  if s.taken c cnd then some (s.eng.target t) else none

/-- Words of the instruction at word a (R48). -/
def EngState.lenAt (x : EngState) (a : Nat) : Nat := lengthOf (x.word a)

/-- The return address of a link written at the program counter: the word after the second delay slot in the flow as it
stands (R135). -/
def EngState.link (x : EngState) (c : BitVec 2 → Bool) : Nat :=
  let r0 := x.decision c x.pc
  let w1 := r0.2.getD (x.pc + 1)
  let e1 := w1 + x.lenAt w1 - 1
  let r1 := r0.1.decision c e1
  let w2 := r1.2.getD (e1 + 1)
  w2 + x.lenAt w2

/-- BR: two delay slots follow, then the target if taken (R135, R136). -/
def execBr (cu : Cue) (t c : BitVec 2) (cnd : BitVec 3) (s : State) : Host.Outcome State Fault Refusal :=
  ({ i := .br cu t c cnd, cu := cu, op := 0x04, slot := false,
     body := fun s => .branch s (s.target t c cnd) } : Issue).run s

/-- BL: as BR, and s[ls] receives the return address whether or not it is taken (R135). -/
def execBl (cu : Cue) (t c : BitVec 2) (cnd : BitVec 3) (ls : BitVec 5) (s : State) : Host.Outcome State Fault Refusal :=
  ({ i := .bl cu t c cnd ls, cu := cu, op := 0x05, slot := false, uses := [ls],
     body := fun s =>
       .branch (s.ws ls (BitVec.ofNat 32 (s.eng.link s.eng.flag))) (s.target t c cnd) } : Issue).run s

/-! ### Loops (R140) -/

/-- The bounds a loop instruction at the program counter would use (R140). -/
def EngState.bounds (x : EngState) (lvl : BitVec 2) (len : BitVec 10) : Nat × Nat :=
  let v := x.level lvl
  if v.pend then (v.lstart.toNat, v.lend.toNat) else (x.pc + 1, x.pc + len.toNat)

/-- The bounds are ill-formed (R140). -/
def EngState.badBounds (x : EngState) (b : Nat × Nat) : Bool :=
  decide (b.2 < b.1) || decide (1023 ≤ b.2 - b.1) || decide (8191 < b.2) || x.tags.contains (b.2 + 1)

/-- Enter level lvl with count c: the engine after it and where it goes on (R140). -/
def EngState.enterLoop (x : EngState) (lvl : BitVec 2) (len : BitVec 10) (c : Word) (xf : Option (BitVec 2)) :
    EngState × Nat :=
  let b := x.bounds lvl len
  let v := { x.level lvl with pend := false }
  if c = 0 then (x.setLevel lvl { v with act := false, cnt := 0, iter := 0 }, b.2 + 1)
  else
    ({ x.setLevel lvl { v with act := true, cnt := c, iter := 0, start := BitVec.ofNat 13 b.1, stop := BitVec.ofNat 13 b.2,
                               seq := x.loopSeq, xf := xf } with loopSeq := x.loopSeq + 1 }, b.1)

/-- A loop instruction of level lvl with count c (R140). -/
def loopOp (i : Instr) (cu : Cue) (op : BitVec 7) (uses : List (BitVec 5)) (lvl : BitVec 2) (len : BitVec 10)
    (c : State → Word) (xf : Option (BitVec 2)) (s : State) : Host.Outcome State Fault Refusal :=
  ({ i := i, cu := cu, op := op, slot := false, uses := uses,
     chk := fun s => if s.eng.badBounds (s.eng.bounds lvl len) then some (illopOf i) else none,
     body := fun s =>
       let r := s.eng.enterLoop lvl len (c s) xf
       .jump (s.modEng fun _ => r.1) r.2 } : Issue).run s

/-- LOOP_IMMEDIATE: a counted loop with an immediate count (R140). -/
def execLoopImmediate (cu : Cue) (lvl : BitVec 2) (cnt : BitVec 8) (len : BitVec 10) (s : State) :
    Host.Outcome State Fault Refusal :=
  loopOp (.loopImmediate cu lvl cnt len) cu 0x06 [] lvl len (fun _ => cnt.setWidth 32) none s

/-- LOOP_REGISTER: a counted loop with its count in s[r] (R140). -/
def execLoopRegister (cu : Cue) (lvl : BitVec 2) (r : BitVec 5) (len : BitVec 10) (s : State) :
    Host.Outcome State Fault Refusal :=
  loopOp (.loopRegister cu lvl r len) cu 0x06 [r] lvl len (fun s => s.rs r) none s

/-- LOOPX: a counted loop that also exits when flag e is set at a decision (R140, R141). -/
def execLoopx (cu : Cue) (lvl e : BitVec 2) (r : BitVec 5) (len : BitVec 10) (s : State) :
    Host.Outcome State Fault Refusal :=
  loopOp (.loopx cu lvl e r len) cu 0x07 [r] lvl len (fun s => s.rs r) (some e) s

/-! ### Traps and breakpoints -/

/-- TRAP: starts, then raises TRAP with its code (R132). -/
def execTrap (cu : Cue) (code : BitVec 16) (s : State) : Host.Outcome State Fault Refusal :=
  ({ i := .trap cu code, cu := cu, op := 0x08, body := fun s => .fault s ⟨5, code.setWidth 32, 0⟩ } : Issue).run s

/-- BRK: halts the core when HEN is 1, and otherwise raises BRK with its code (R198). -/
def execBrk (cu : Cue) (code : BitVec 16) (s : State) : Host.Outcome State Fault Refusal :=
  ({ i := .brk cu code, cu := cu, op := 0x0B,
     body := fun s =>
       if s.core.hen then
         .hold (({ s with core := { s.core with halt := true }, notices := s.notices ++ [Notice.brk s.core.num code.toNat] }).modEng
           fun x => { x with phase := 1 }) .external
       else .fault s ⟨6, code.setWidth 32, 0⟩ } : Issue).run s

/-- The halted engine's `brk`, if the core is halted at one. -/
def Live.brkAt (l : Live) : Option (Engine × Cue × BitVec 16) :=
  [Engine.a, .x, .m, .b].findSome? fun e =>
    if (l.eng e).started && decide ((l.eng e).phase = 1) then
      match (l.eng e).fetched with
      | .brk cu code => some (e, cu, code)
      | _ => none
    else none

/-- BRK_RESUME: the stage manager resumes a halted core, and the `brk` completes (R198). -/
def execBrkResume (s : State) : Host.Outcome State Fault Refusal :=
  .next (if s.core.halt then
    match s.core.live.brkAt with
    | some (e, cu, code) =>
      let s1 : State := { s with cur := e, core := { s.core with halt := false } }
      ({ i := .brk cu code, cu := cu, op := 0x0B, body := fun s => .done s } : Issue).finish s1
    | none => { s with core := { s.core with halt := false } }
  else s)

/-- The fault of a word that is refused: the first of rows 1 to 5 of R69 that holds (R62, R63, R69, R199). Where the bits of the word
itself hold the opcode of a W instruction, TVAL1 is the word after it, at a tagged word too: DESIGN CHOICE, log 38. -/
def EngState.refusal (x : EngState) (e : Engine) (w v : Word) : Trap :=
  let ext := if isWide (opOf w) then v else 0
  if 8192 ≤ x.pc then ⟨1, 8192, 0⟩
  else if x.tags.contains x.pc then ⟨1, w, ext⟩
  else if !opAssigned (opOf w) then ⟨1, w, ext⟩
  else if !opLegal (opOf w) e then ⟨2, w, 0⟩
  else if isWide (opOf w) && v.extractLsb' 28 4 != 0 then ⟨3, w, v⟩
  else ⟨1, w, ext⟩

/-- ILLOP: a refused word raises its decode fault and starts nothing (R69). -/
def execIllop (w x : Word) (s : State) : Host.Outcome State Fault Refusal :=
  .next (s.raise (s.eng.refusal s.cur w x))

/-! ### Tokens -/

/-- TOKW: pops its tokens at its start and completes (R290). -/
def execTokw (cu : Cue) (np nn : BitVec 4) (s : State) : Host.Outcome State Fault Refusal :=
  ({ i := .tokw cu np nn, cu := cu, op := 0x09, takes := (np.toNat, nn.toNat), body := fun s => .done s } : Issue).run s

/-- Wait until every earlier instruction of the engine has completed, then go on: a pass that lacks vectors makes that wait
hopeless (R213), and a drain that waits for room in lq3 waits for X (R220, R292). -/
def State.afterEarlier (s : State) (k : Unit → Res) : Res :=
  if s.eng.retire.isEmpty then k ()
  else if s.hopeless then .fault s deadlockM
  else .wait s.earlierWait

/-- TOKS: once every earlier instruction of its engine has completed, pushes its tokens (R291). -/
def execToks (cu : Cue) (np nn : BitVec 4) (s : State) : Host.Outcome State Fault Refusal :=
  ({ i := .toks cu np nn, cu := cu, op := 0x0A, gives := (np.toNat, nn.toNat),
     body := fun s => s.afterEarlier fun _ => .done s } : Issue).run s

/-- M's drains to the scratchpad go on: the bank that receives one of the writes that may arrive is a free choice (R227). -/
def State.drainStep (s : State) : State :=
  match s.core.live.drainReady with
  | [] => s
  | x :: xs => s.draw.2.modLive fun l => l.drainWrite ((x :: xs).getD (s.draw.1 % (xs.length + 1)) x)

/-- INSTRUCTION_COMPLETE: engine e makes the pushes of completed instructions that have room, and a drain of M to the scratchpad
makes its next write (R15, R220, R227, R289). -/
def execInstructionComplete (e : Engine) (s : State) : Host.Outcome State Fault Refusal :=
  .next ((if e = .m then s.drainStep else s).modLive fun l => l.settle e)

/-- SLOW_RESULT_DELIVERY: the slow results that the next counted X instruction would find due are delivered, when no instruction
of X that has started still reads its registers and no back-edge decision is due: nothing reads a register between such a
delivery and the start of that instruction, which would deliver them itself (R124, R125, R128). -/
def execSlowResultDelivery (s : State) : Host.Outcome State Fault Refusal :=
  .next (if s.core.live.ex.started || s.core.live.ex.backEdge.isSome then s
    else s.modLive fun l =>
      (l.slow.filter fun r => decide (r.left ≤ 1)).foldl Live.deliver
        { l with slow := l.slow.filter fun r => decide (1 < r.left) })

/-! ### Deadlock (R292, R293) -/

/-- Whose acting ends a wait: any engine of a list, or every engine of it (R292). -/
inductive Needs
  | anyOf (es : List Engine)
  | allOf (es : List Engine)
deriving DecidableEq, Repr

/-- The four engines in A, X, M, B order. -/
def engines : List Engine := [.a, .x, .m, .b]

/-- Issued instructions of M whose completion needs an engine to act: a pass that lacks vectors, drains that wait for
its macros, and drains that wait for room in lq3 (R213, R228, R292). -/
def Live.stuck (l : Live) : List Nat :=
  (match l.pass with
   | some p => [p.seq]
   | none => []) ++ l.heldDrains ++ (if (l.loadQ 3).length < Config.queueDepth then [] else l.drains.map (·.1))

/-- Engine e has an issued instruction that will still push into its queue to the previous (true) or next engine: the first one
that carries such a push completes without any engine acting, unless it is one of M's that is stuck or one of B's held behind a pass
(R289, R292). -/
def Live.pushPending (l : Live) (e : Engine) (toPrev : Bool) : Bool :=
  match (l.eng e).retire.find? fun r => decide (0 < (if toPrev then r.sp else r.sn)) with
  | some r => !(decide (e = .m) && l.stuck.contains r.seq || decide (e = .b) && !r.done && l.banksHeld)
  | none => false

/-- What remains of a `drain` that an engine could empty (R278, R292). -/
def Live.drainNeeds (l : Live) : List Engine :=
  (if (l.loadQ 0).isEmpty && (l.loadQ 1).isEmpty && (l.loadQ 2).isEmpty then [] else [Engine.x, .m]) ++
    (if (l.loadQ 3).isEmpty then [] else [Engine.x]) ++
    (if (l.storeQ 0).isEmpty && (l.storeQ 1).isEmpty && (l.storeQ 2).isEmpty then [] else [Engine.a]) ++
    (if (l.storeQ 3).isEmpty then [] else [Engine.b]) ++ (if l.pass.isSome then [Engine.m] else [])

/-- What engine e, which waits for w, needs; none when it is not blocked (R292). What R292 does not list is the model's choice, log 10:
an entry of a store queue needs X; B's wait for commands that a pass without vectors holds back needs M, which alone feeds it; and at a
rendezvous that every engine has reached, a drain of M without room in lq3 needs X. -/
def Live.needsOf (l : Live) (e : Engine) (w : Wait) (busy : Bool) : Option Needs :=
  match w with
  | .token prev n =>
    let i := if prev then fromPrevIdx e else fromNextIdx e
    let src := if prev then e.prev else e.next
    if n ≤ l.tokens i || l.pushPending src (!prev) then none else some (.anyOf [src])
  | .lqEntry q n => if n ≤ (l.loadQ q).length then none else some (.anyOf (if q = 3 then [.m] else [.a]))
  | .lqRoom q => if (l.loadQ q).length < Config.queueDepth then none else some (.anyOf (if q = 3 then [.x] else [.x, .m]))
  | .sqEntry q n => if n ≤ (l.storeQ q).length then none else some (.anyOf [.x])
  | .sqRoom q => if (l.storeQ q).length < Config.queueDepth then none else some (.anyOf (if q = 3 then [.b] else [.a]))
  | .rowBuffer => some (.anyOf [.m])
  | .bankRoom js => if l.banksHeld && js.any fun j => decide (Config.bankDepth ≤ (l.fifo j).length) then some (.anyOf [.m]) else none
  | .earlier => if l.banksHeld then some (.anyOf [.m]) else none
  | .drain => if busy || l.drainNeeds.isEmpty then none else some (.anyOf l.drainNeeds)
  | .rendezvous n =>
    let away := engines.filter fun f => (l.eng f).rend != some n || (l.pushWaits f).1 || (l.pushWaits f).2
    if away.isEmpty && n != 0x2000 && !l.drains.isEmpty then
      (if (l.loadQ 3).length < Config.queueDepth then none else some (.allOf [.x]))
    else some (.allOf away)
  | .external => none

/-- What a blocked engine needs (R292): room for a push that waits, or what its next instruction waits for. -/
def State.blocked (s : State) (e : Engine) : Option Needs :=
  if !s.running || (s.core.live.eng e).stopped then none
  else if s.core.live.pushStalled e then
    some (.allOf ((if (s.core.live.pushWaits e).1 then [e.prev] else []) ++ (if (s.core.live.pushWaits e).2 then [e.next] else [])))
  else match (s.core.live.eng e).wait with
    | some w => s.core.live.needsOf e w s.goesByItself
    | none => none

/-- Keep the engines of a set whose wait the set itself cannot end from outside (R293). -/
def State.keepBlocked (s : State) (d : List Engine) : List Engine :=
  d.filter fun e => match s.blocked e with
    | some (.anyOf w) => w.all d.contains
    | some (.allOf w) => w.any d.contains
    | none => false

/-- The largest set of blocked engines that holds itself blocked (R293). -/
def State.deadlocked (s : State) : List Engine :=
  s.keepBlocked (s.keepBlocked (s.keepBlocked (s.keepBlocked engines)))

/-- Mask of a set of engines (R199). -/
def maskOf (d : List Engine) : Word := BitVec.ofNat 32 ((d.map fun e => 2 ^ e.idx).foldl (· + ·) 0)

/-- DEADLOCK: raised at the first engine of the set (R293). -/
def execDeadlock (s : State) : Host.Outcome State Fault Refusal :=
  .next (match s.deadlocked with
    | [] => s
    | e :: es => s.take e ⟨8, maskOf (e :: es), 0⟩)

end Sys2Proof.Machine
end

