-- ==== Sys2Proof/Machine/Philox.lean ====
section
/-! DEFINITION. The counter-based generator of R94, and the draws of keyed stochastic rounding. Its multipliers and key
increments are the published ones (log 7). -/

namespace Sys2Proof.Machine

open Sys2Proof

/-- A counter of four words. -/
abbrev Ctr := Word × Word × Word × Word

/-- One round. -/
def philoxRound (c : Ctr) (k : Word × Word) : Ctr :=
  let p0 := 0xD2511F53 * c.1.toNat
  let p1 := 0xCD9E8D57 * c.2.2.1.toNat
  (BitVec.ofNat 32 (p1 / 2 ^ 32) ^^^ c.2.1 ^^^ k.1, BitVec.ofNat 32 p1,
    BitVec.ofNat 32 (p0 / 2 ^ 32) ^^^ c.2.2.2 ^^^ k.2, BitVec.ofNat 32 p0)

/-- n rounds, the key raised after each. -/
def philoxRounds (c : Ctr) (k : Word × Word) : Nat → Ctr
  | 0 => c
  | n + 1 => philoxRounds (philoxRound c k) (k.1 + 0x9E3779B9, k.2 + 0xBB67AE85) n

/-- Ten rounds (R94). -/
def philox (k : Word × Word) (c : Ctr) : Ctr := philoxRounds c k 10

/-- Word 0 for a 64-bit key (R94). -/
def philox64 (seed : DWord) (c : Ctr) : Word := (philox (seed.setWidth 32, (seed >>> 32).setWidth 32) c).1

/-- The draw u of element i with rounding index ridx and engine number eng (R94). -/
def draw (seed : DWord) (ridx : Word) (eng : Nat) (i : Nat) : Nat :=
  (philox64 seed (ridx + BitVec.ofNat 32 i, BitVec.ofNat 32 eng, 0, 0)).toNat / 65536

/-- The rounding mode of element i under a rounding field (R57, R94). -/
def modeOf (rnd : BitVec 2) (seed : DWord) (ridx : Word) (eng : Nat) (i : Nat) : Mode :=
  match rnd.toNat with
  | 0 => .rne
  | 1 => .rtz
  | _ => .rsk (draw seed ridx eng i)

end Sys2Proof.Machine
end

