-- ==== Sys2Proof/Machine/Arith.lean ====
section
/-! DEFINITION. Exact arithmetic on values, rounded once: sums, products, fused products, quotients, roots, extremes and
comparisons (R97, R98, R115, R118, R121, R122). -/

namespace Sys2Proof.Machine

open Sys2Proof

/-- A value with its sign flipped. -/
def FVal.neg (x : FVal) : FVal :=
  match x with
  | .nan => .nan
  | .inf n => .inf (!n)
  | .fin n m e => .fin (!n) m e

/-- The value is NaN. -/
def FVal.isNan (x : FVal) : Bool :=
  match x with
  | .nan => true
  | _ => false

/-- The value is a zero of either sign. -/
def FVal.isZero (x : FVal) : Bool :=
  match x with
  | .fin _ 0 _ => true
  | _ => false

/-- The sign of a value; NaN counts as positive. -/
def FVal.sign (x : FVal) : Bool :=
  match x with
  | .nan => false
  | .inf n => n
  | .fin n _ _ => n

/-- A signed integer times 2^e; zero takes the sign z. -/
def FVal.ofSigned (z : Bool) (x : Int) (e : Int) : FVal := if x = 0 then .fin z 0 e else .fin (x < 0) x.natAbs e

/-- The signed integer of a magnitude scaled up by 2^k. -/
def scaled (neg : Bool) (m : Nat) (k : Nat) : Int := if neg then -((m * 2 ^ k : Nat) : Int) else ((m * 2 ^ k : Nat) : Int)

/-- Exact sum, and whether the operation is invalid (R97). An exact zero from operands of different sign is +0. -/
def FVal.add (x y : FVal) : FVal × Bool :=
  match x, y with
  | .nan, _ => (.nan, false)
  | _, .nan => (.nan, false)
  | .inf a, .inf b => if a = b then (.inf a, false) else (.nan, true)
  | .inf a, .fin _ _ _ => (.inf a, false)
  | .fin _ _ _, .inf b => (.inf b, false)
  | .fin a m1 e1, .fin b m2 e2 =>
    let e := min e1 e2
    (FVal.ofSigned (a && b) (scaled a m1 (e1 - e).toNat + scaled b m2 (e2 - e).toNat) e, false)

/-- Exact product, and whether the operation is invalid (R97). -/
def FVal.mul (x y : FVal) : FVal × Bool :=
  match x, y with
  | .nan, _ => (.nan, false)
  | _, .nan => (.nan, false)
  | .inf a, .inf b => (.inf (xor a b), false)
  | .inf a, .fin b m _ => if m = 0 then (.nan, true) else (.inf (xor a b), false)
  | .fin a m _, .inf b => if m = 0 then (.nan, true) else (.inf (xor a b), false)
  | .fin a m1 e1, .fin b m2 e2 => (.fin (xor a b) (m1 * m2) (e1 + e2), false)

/-- Exact x y + z, and whether the operation is invalid (R121). -/
def FVal.fma (x y z : FVal) : FVal × Bool :=
  let (p, bad) := x.mul y
  if bad then (.nan, true) else p.add z

/-- Round an exact result of an operation to a binary format: an invalid operation gives the produced NaN and NV (R86, R97). -/
def roundOp (f : Ieee) (mode : Mode) (r : FVal × Bool) : Nat × Flags :=
  if r.2 then (f.nanCode.getD 0, flagNV) else f.round mode r.1

/-! ### Roots and quotients with a sticky remainder -/

/-- Floor of the square root of n that is below 2^k more than r. -/
def isqrtFrom (n : Nat) (k : Nat) (r : Nat) : Nat :=
  match k with
  | 0 => r
  | k + 1 => let t := r + 2 ^ k; if t * t ≤ n then isqrtFrom n k t else isqrtFrom n k r

/-- Floor of the square root. -/
def isqrt (n : Nat) : Nat := isqrtFrom n (Nat.log2 n / 2 + 1) 0

/-- Quotient of two values rounded once (R122): special cases, flags. -/
def divRound (f : Ieee) (mode : Mode) (x y : FVal) : Nat × Flags :=
  match x, y with
  | .nan, _ => f.round mode .nan
  | _, .nan => f.round mode .nan
  | .inf _, .inf _ => (f.nanCode.getD 0, flagNV)
  | .inf a, .fin b _ _ => f.round mode (.inf (xor a b))
  | .fin a _ _, .inf b => f.round mode (.fin (xor a b) 0 0)
  | .fin a m1 e1, .fin b m2 e2 =>
    if m2 = 0 then
      if m1 = 0 then (f.nanCode.getD 0, flagNV)
      else let (c, _) := f.round mode (.inf (xor a b)); (c, flagDZ)
    else if m1 = 0 then f.round mode (.fin (xor a b) 0 0)
    else
      let k := Nat.log2 m2 + 64
      f.round mode (.fin (xor a b) (m1 * 2 ^ k / m2) (e1 - e2 - k)) (m1 * 2 ^ k % m2 != 0)

/-- Square root rounded once (R122). -/
def sqrtRound (f : Ieee) (mode : Mode) (x : FVal) : Nat × Flags :=
  match x with
  | .nan => f.round mode .nan
  | .inf n => if n then (f.nanCode.getD 0, flagNV) else f.round mode (.inf false)
  | .fin n m e =>
    if m = 0 then f.round mode (.fin n 0 0)
    else if n then (f.nanCode.getD 0, flagNV)
    else
      let sh := 128 + (e % 2).toNat
      let v := m * 2 ^ sh
      let r := isqrt v
      f.round mode (.fin false r ((e - sh) / 2)) (r * r != v)

/-- Reciprocal square root rounded once (R122). -/
def rsqrtRound (f : Ieee) (mode : Mode) (x : FVal) : Nat × Flags :=
  match x with
  | .nan => f.round mode .nan
  | .inf n => if n then (f.nanCode.getD 0, flagNV) else f.round mode (.fin false 0 0)
  | .fin n m e =>
    if m = 0 then let (c, _) := f.round mode (.inf n); (c, flagDZ)
    else if n then (f.nanCode.getD 0, flagNV)
    else
      let m' := if e % 2 = 0 then m else 2 * m
      let e' := if e % 2 = 0 then e else e - 1
      let k := Nat.log2 m' + 64
      let r := isqrt (2 ^ (2 * k) / m')
      f.round mode (.fin false r (-(e' / 2) - k)) (r * r * m' != 2 ^ (2 * k))

/-! ### Comparison, minimum and maximum -/

/-- m1 2^e1 < m2 2^e2. -/
def magLt (m1 : Nat) (e1 : Int) (m2 : Nat) (e2 : Int) : Bool := !magLe m2 e2 m1 e1

/-- x < y for values that are not NaN; -0 and +0 are equal (R86). -/
def FVal.lt (x y : FVal) : Bool :=
  match x, y with
  | .nan, _ => false
  | _, .nan => false
  | .inf a, .inf b => a && !b
  | .inf a, .fin _ _ _ => a
  | .fin _ _ _, .inf b => !b
  | .fin a m1 e1, .fin b m2 e2 =>
    if m1 = 0 && m2 = 0 then false
    else if a && !b then true
    else if !a && b then false
    else if a then magLt m2 e2 m1 e1
    else magLt m1 e1 m2 e2

/-- x = y: false with a NaN; -0 = +0 (R119). -/
def FVal.eq (x y : FVal) : Bool := !x.isNan && !y.isNan && !x.lt y && !y.lt x

/-- x ≤ y: false with a NaN. -/
def FVal.le (x y : FVal) : Bool := x.lt y || x.eq y

/-- x orders before y with -0 below +0 (R98). -/
def FVal.before (x y : FVal) : Bool := x.lt y || (x.eq y && x.sign && !y.sign)

/-- The smaller value: with one NaN the other operand, with two NaN (R98). -/
def FVal.min (x y : FVal) : FVal := if x.isNan then y else if y.isNan then x else if y.before x then y else x

/-- The larger value (R98). -/
def FVal.max (x y : FVal) : FVal := if x.isNan then y else if y.isNan then x else if x.before y then y else x

/-! ### Integer operations (R115, R118) -/

/-- Shift left of a w-bit code by n; n of w or more gives 0 (R115). -/
def shlW (w x n : Nat) : Nat := if w ≤ n then 0 else x * 2 ^ n % 2 ^ w

/-- Logical shift right (R115). -/
def shrW (w x n : Nat) : Nat := if w ≤ n then 0 else x / 2 ^ n

/-- Arithmetic shift right (R115). -/
def sraW (w x n : Nat) : Nat := natOfInt w (signedOf w x >>> (if w ≤ n then w - 1 else n))

/-- Signed quotient truncated toward zero, with the corner rows of R118. -/
def divI (a b : Word) : Word :=
  if b = 0 then 0xFFFFFFFF else BitVec.ofInt 32 (a.toInt.tdiv b.toInt)

/-- Signed remainder (R118). -/
def remI (a b : Word) : Word :=
  if b = 0 then a else BitVec.ofInt 32 (a.toInt.tmod b.toInt)

/-- Unsigned quotient (R118). -/
def divN (a b : Word) : Word := if b = 0 then 0xFFFFFFFF else BitVec.ofNat 32 (a.toNat / b.toNat)

/-- Unsigned remainder (R118). -/
def remN (a b : Word) : Word := if b = 0 then a else BitVec.ofNat 32 (a.toNat % b.toNat)

/-- Number of ones among the low n bits. -/
def onesBelow (x : Nat) : Nat → Nat
  | 0 => 0
  | n + 1 => onesBelow x n + (if x.testBit n then 1 else 0)

/-- Zeros above the highest one of a 32-bit pattern, 32 for zero (R116). -/
def clz32 (x : Word) : Nat := runLength false x.toNat 32

/-- Zeros below the lowest one among bits i to i + n - 1. -/
def zerosFrom (x : Nat) (i : Nat) : Nat → Nat
  | 0 => 0
  | n + 1 => if x.testBit i then 0 else zerosFrom x (i + 1) n + 1

/-- Zeros below the lowest one, 32 for zero (R116). -/
def ctz32 (x : Word) : Nat := zerosFrom x.toNat 0 32

/-- Field bits that exist for a descriptor (R116). -/
def fieldWidth (desc : Word) : Nat := min (desc.toNat / 256 % 64) (32 - desc.toNat % 32)

/-- `bext` (R116). -/
def bextOf (a desc : Word) : Word := BitVec.ofNat 32 (a.toNat / 2 ^ (desc.toNat % 32) % 2 ^ fieldWidth desc)

/-- The mask of a field descriptor (R116). -/
def fieldMask (desc : Word) : Word := BitVec.ofNat 32 ((2 ^ fieldWidth desc - 1) * 2 ^ (desc.toNat % 32))

/-- `bins` into the old destination d (R116). -/
def binsOf (d a desc : Word) : Word :=
  (d &&& ~~~fieldMask desc) ||| (BitVec.ofNat 32 (a.toNat * 2 ^ (desc.toNat % 32)) &&& fieldMask desc)

/-! ### 32-bit memory operations (R245) -/

/-- The new word of memory operation `op` from old word m and operand v (R245). -/
def memOp (op : Nat) (m v : Word) : Word :=
  match op with
  | 0 => v
  | 1 => BitVec.ofNat 32 (roundOp fp32 .rne ((fp32.decode m.toNat).add (fp32.decode v.toNat))).1
  | 2 => m + v
  | 3 => if v.toInt < m.toInt then v else m
  | 4 => if m.toInt < v.toInt then v else m
  | 5 => m &&& v
  | 6 => m ||| v
  | _ => m ^^^ v

end Sys2Proof.Machine
end

