-- ==== Sys2Proof/Machine/Trans.lean ====
section
/-! DEFINITION. The functions 2^x, log2 x and the logistic function, rounded once: each is bounded between two fixed-point
numbers of rising precision until both round alike (R157, R175, R224). -/

namespace Sys2Proof.Machine

open Sys2Proof

/-- Sum of the series of atanh: term num/den z^(2k+1)/(2k+1), with z2 = z squared, all scaled by 2^p. -/
def atanhSum (p z2 : Nat) (k : Nat) (pw : Nat) : Nat → Nat
  | 0 => 0
  | n + 1 => pw / (2 * k + 1) + atanhSum p z2 (k + 1) (pw * z2 / 2 ^ p) n

/-- atanh(a / b) scaled by 2^p, for a / b at most 1/3. -/
def atanhFix (p a b : Nat) : Nat :=
  let z := a * 2 ^ p / b
  atanhSum p (z * z / 2 ^ p) 0 z (p / 3 + 4)

/-- ln 2 scaled by 2^p. -/
def ln2Fix (p : Nat) : Nat := 2 * atanhFix p 1 3

/-- The Taylor terms of e^t from term i on, scaled by 2^p. -/
def expSum (p t : Nat) (i : Nat) (term : Nat) : Nat → Nat
  | 0 => 0
  | n + 1 => term + expSum p t (i + 1) (term * t / 2 ^ p / (i + 1)) n

/-- 2^(f / 2^p) scaled by 2^p, for f below 2^p. -/
def exp2Fix (p f : Nat) : Nat := expSum p (f * ln2Fix p / 2 ^ p) 0 (2 ^ p) (p / 2 + 8)

/-- The error allowed to each fixed-point value: 2^12 units of its last place. -/
def slack : Nat := 2 ^ 12

/-- Round the numbers lo and hi, each times 2^e, which enclose an irrational value; none when they round apart. -/
def roundPair (f : Ieee) (mode : Mode) (neg : Bool) (lo hi : Nat) (e : Int) : Option (Nat × Flags) :=
  if lo = 0 then none
  else
    let a := f.round mode (.fin neg lo e) true
    let b := f.round mode (.fin neg hi e) true
    if a = b then some a else none

/-- Try a bounded computation at rising precisions. -/
def ziv (try_ : Nat → Option (Nat × Flags)) (dflt : Nat × Flags) : List Nat → Nat × Flags
  | [] => dflt
  | p :: ps => match try_ p with
    | some r => r
    | none => ziv try_ dflt ps

/-- The precisions tried. -/
def precisions : List Nat := [80, 160, 320, 640, 1280]

/-- A value of huge or tiny magnitude that stands for one beyond every range: it rounds as any such value does. -/
def farValue (f : Ieee) (mode : Mode) (e : Int) : Nat × Flags := f.round mode (.fin false (2 ^ 64) e) true

/-- Floor and fraction (scaled by 2^p) of (-1)^neg m 2^e. -/
def floorFrac (p : Nat) (neg : Bool) (m : Nat) (e : Int) : Int × Nat :=
  let x : Int := scaled neg m 0
  let s : Int := if 0 ≤ e + p then x * 2 ^ (e + p).toNat else x / 2 ^ (-(e + p)).toNat
  (s / 2 ^ p, (s % 2 ^ p).toNat)

/-- 2^x rounded once (R157). -/
def exp2Round (f : Ieee) (mode : Mode) (x : FVal) : Nat × Flags :=
  match x with
  | .nan => f.round mode .nan
  | .inf n => if n then f.round mode (.fin false 0 0) else f.round mode (.inf false)
  | .fin neg m e =>
    if m = 0 then f.round mode (.fin false 1 0)
    else if 12 ≤ (Nat.log2 m : Int) + e then farValue f mode (if neg then -5000 else 4000)
    else if 0 ≤ e || m % 2 ^ (-e).toNat = 0 then
      f.round mode (.fin false 1 (floorFrac 0 neg m e).1)
    else
      ziv (fun p =>
        let (n, fr) := floorFrac p neg m e
        let y := exp2Fix p fr
        roundPair f mode false (y - slack) (y + slack) (n - p))
        (farValue f mode 0) precisions

/-- log2 x rounded once (R157). -/
def log2Round (f : Ieee) (mode : Mode) (x : FVal) : Nat × Flags :=
  match x with
  | .nan => f.round mode .nan
  | .inf n => if n then (f.nanCode.getD 0, flagNV) else f.round mode (.inf false)
  | .fin neg m e =>
    if m = 0 then let (c, _) := f.round mode (.inf true); (c, flagDZ)
    else if neg then (f.nanCode.getD 0, flagNV)
    else
      let k := Nat.log2 m
      let n : Int := k + e
      if m = 2 ^ k then f.round mode (FVal.ofSigned false n 0)
      else
        ziv (fun p =>
          let l := 2 * atanhFix p (m - 2 ^ k) (m + 2 ^ k) * 2 ^ p / ln2Fix p
          let v : Int := n * 2 ^ p + l
          if v.natAbs ≤ slack then none
          else roundPair f mode (v < 0) (v.natAbs - slack) (v.natAbs + slack) (-(p : Int)))
          (farValue f mode 0) precisions

/-- 1 / (1 + e^(-x)) rounded once (R157). -/
def sigRound (f : Ieee) (mode : Mode) (x : FVal) : Nat × Flags :=
  match x with
  | .nan => f.round mode .nan
  | .inf n => if n then f.round mode (.fin false 0 0) else f.round mode (.fin false 1 0)
  | .fin neg m e =>
    if m = 0 then f.round mode (.fin false 1 (-1))
    else if 12 ≤ (Nat.log2 m : Int) + e then
      if neg then farValue f mode (-8000) else f.round mode (.fin false (2 ^ 200 - 1) (-200)) true
    else
      ziv (fun p =>
        -- |x| / ln 2 = n + fr / 2^p, so that e^(-|x|) = 2^(-n) / 2^(fr / 2^p)
        let q := p + 32
        let a : Nat := if 0 ≤ e + q then m * 2 ^ (e + q).toNat else m / 2 ^ (-(e + q)).toNat
        let y := a * 2 ^ q / ln2Fix q
        let n := y / 2 ^ q
        let fr := y % 2 ^ q / 2 ^ 32
        -- t = 2^p / T 2^(-n), so that 1 / (1 + t) = T 2^n / (T 2^n + 2^p) and t / (1 + t) = 2^p / (T 2^n + 2^p)
        let tt := exp2Fix p fr * 2 ^ n
        let num := if neg then 2 ^ p else tt
        let v := num * 2 ^ (p + n) / (tt + 2 ^ p)
        let err := if neg then slack else slack * 2 ^ n
        roundPair f mode false (v - err) (v + err) (-((p + n : Nat) : Int)))
        (farValue f mode 0) precisions

end Sys2Proof.Machine
end

