-- ==== Sys2Proof/Machine/Operands.lean ====
section
/-! DEFINITION. The operand forms of X, M and B: element types, storage formats with their scales, the almanac's fields,
the reading of vector fields with their queue pops and marks, and the writing of results under a predicate (R52 to R56, R99,
R106, R107, R146 to R154, R295). -/

namespace Sys2Proof.Machine

open Sys2Proof

/-! ### Element types (R55) -/

/-- The types of the type selector. -/
inductive VTy
  | f32 | bf16 | f16 | i32 | i16 | i8 | n8
deriving DecidableEq, Repr

/-- The type of a selector other than 7 (R55). -/
def VTy.ofTs (t : BitVec 3) : VTy :=
  match t.toNat with
  | 0 => .f32
  | 1 => .bf16
  | 2 => .f16
  | 3 => .i32
  | 4 => .i16
  | 5 => .i8
  | _ => .n8

/-- The type of the same name as a format byte (R55). -/
def VTy.ofFmt (f : Nat) : Option VTy :=
  match f with
  | 0 => some .f32
  | 1 => some .bf16
  | 2 => some .f16
  | 10 => some .i8
  | 11 => some .n8
  | 12 => some .i16
  | 13 => some .i32
  | _ => none

/-- Width of an element (R146). -/
def VTy.w (t : VTy) : Nat :=
  match t with
  | .f32 => 32
  | .i32 => 32
  | .bf16 => 16
  | .f16 => 16
  | .i16 => 16
  | .i8 => 8
  | .n8 => 8

/-- Number of elements (R146). -/
def VTy.count (t : VTy) : Nat := 4096 / t.w

/-- The binary format of a floating-point type. -/
def VTy.ieee? (t : VTy) : Option Ieee :=
  match t with
  | .f32 => some fp32
  | .bf16 => some Sys2Proof.Machine.bf16
  | .f16 => some fp16
  | _ => none

/-- The type is floating-point. -/
def VTy.isFloat (t : VTy) : Bool := t.ieee?.isSome

/-- The integer that a code of an integer type means (R154). -/
def VTy.int (t : VTy) (c : Nat) : Int :=
  match t with
  | .n8 => (c % 256 : Nat)
  | _ => signedOf t.w c

/-- The types of a class (R55). -/
def allTypes : List VTy := [.f32, .bf16, .f16, .i32, .i16, .i8, .n8]
def floatTypes : List VTy := [.f32, .bf16, .f16]
def intTypes : List VTy := [.i32, .i16, .i8, .n8]
def signTypes : List VTy := [.f32, .bf16, .f16, .i32, .i16, .i8]
def sraTypes : List VTy := [.i32, .i16, .i8]

/-! ### Storage formats (R56) -/

/-- Width of an element of a format in bits (R146). -/
def fmtW (f : BitVec 4) : Nat :=
  match f.toNat with
  | 0 => 32
  | 1 => 16
  | 2 => 16
  | 5 => 4
  | 9 => 4
  | 12 => 16
  | 13 => 32
  | 14 => 32
  | _ => 8

/-- The format is scaled: codes 0x3 to 0x9 (R99). -/
def fmtScaled (f : BitVec 4) : Bool := decide (3 ≤ f.toNat) && decide (f.toNat ≤ 9)

/-- Sidecar entries that a scaled format uses (R99). -/
def fmtScales (f : BitVec 4) : Nat := if fmtW f = 4 then 32 else 16

/-- The value of element i of a register in a format, with its sidecar scale (R99). -/
def VReg.val (r : VReg) (f : BitVec 4) (i : Nat) : FVal :=
  let v := decodeCode f (elem (fmtW f) r.data i)
  if fmtScaled f then v.scale (elem 8 r.side (i / 32)) else v

/-- The E8M0 scale that an unscaled result is converted against: 0x7F. -/
def unitScale : Nat := 0x7F

/-! ### The almanac (R106, R107) -/

/-- Field A, B, output or scale mode of an almanac entry (R107, R336). -/
def almA (e : Word) : Nat := e.toNat % 256
def almB (e : Word) : Nat := e.toNat / 256 % 256
def almOut (e : Word) : Nat := e.toNat / 65536 % 256
def almSm (e : Word) : Nat := e.toNat / 16777216

/-- A reserved bit of the scale mode is set (R107). -/
def almSmBad (e : Word) : Bool := decide (8 ≤ almSm e)

/-- ILLTYPE on the almanac entry of the moving engine (R69, R199). -/
def illtype (s : State) : Trap := ⟨4, BitVec.ofNat 32 s.almNow.1, s.almNow.2⟩

/-- The check of a type selector against the legal types (R55, R69 row 6). -/
def typeCheck (t : BitVec 3) (legal : VTy → Bool) (s : State) : Option Trap :=
  if t = 7 then
    if almSmBad s.almNow.2 then some (illtype s)
    else match VTy.ofFmt (almOut s.almNow.2) with
      | some ty => if legal ty then none else some (illtype s)
      | none => some (illtype s)
  else none

/-- The type an instruction works in: the selector's, or the almanac entry's read at issue (R55). -/
def State.ty (s : State) (t : BitVec 3) : VTy :=
  if t = 7 then (VTy.ofFmt (almOut s.eng.alment)).getD .f32 else VTy.ofTs t

/-! ### Sources and destinations (R149, R153, R295) -/

/-- The fault of a popped entry's marks: POISON before MMX before XLATE (R295). -/
def LEntry.trap (e : LEntry) : Option Trap :=
  match e.poison, e.mmx, e.refused with
  | some a, _, _ => some ⟨0x15, a.setWidth 32, (a >>> 32).setWidth 32⟩
  | none, some a, _ => some ⟨0x14, a.setWidth 32, (a >>> 32).setWidth 32⟩
  | none, none, some a => some ⟨0x10, a.setWidth 32, (a >>> 32).setWidth 32⟩
  | none, none, none => none

/-- Push the entries of issued drains to lq3, oldest drain first, as lq3 has room; a drain whose last entry is in completes
(R220). -/
def Live.pushDrains (l : Live) : List (Nat × List VReg) → Live
  | [] => { l with drains := [] }
  | (q, es) :: rest =>
    let k := min es.length (Config.queueDepth - (l.loadQ 3).length)
    let l1 := l.setLoadQ 3 (l.loadQ 3 ++ (es.take k).map fun v => ⟨0, true, v, none, none, none⟩)
    if k = es.length then (l1.pushDrains rest).retireDone .m q else { l1 with drains := (q, es.drop k) :: rest }

/-- The drains push what lq3 has room for. -/
def Live.pushDrain (l : Live) : Live :=
  match l.drains with
  | [] => l
  | ds => l.pushDrains ds

/-- Read source fields in order, popping queue heads: the values, the first mark's fault, and what is left (R53, R295). -/
def Live.takeAll (l : Live) : List (BitVec 5) → List VReg × Option Trap × Live
  | [] => ([], none, l.pushDrain)
  | f :: fs =>
    let (e, v, l1) := l.takeV f
    let (vs, t, l2) := l1.takeAll fs
    (v :: vs, (match e.bind LEntry.trap with | some x => some x | none => t), l2)

/-- The wait of an instruction for its source entries and for room at its destination (R149). -/
def Live.vecWait (l : Live) (srcs dsts : List (BitVec 5)) : Option Wait :=
  match l.srcWait srcs with
  | some w => some w
  | none => dsts.findSome? l.dstWait

/-- An instruction of X with vector sources srcs and destination fields dsts; f acts on the values read (R149, R150). -/
def vecOp (i : Instr) (cu : Cue) (op : BitVec 7) (uses : List (BitVec 5)) (alm : State → Option Trap)
    (srcs dsts : List (BitVec 5)) (f : List VReg → State → State) (s : State) : Host.Outcome State Fault Refusal :=
  ({ i := i, cu := cu, op := op, uses := uses, alm := alm,
     body := fun s =>
       match s.core.live.vecWait srcs dsts with
       | some w => .wait w
       | none =>
         match s.core.live.takeAll srcs with
         | (_, some t, l) => .fault (s.setLive l) t
         | (vs, none, l) => .done (f vs (s.setLive l)) } : Issue).run s

/-- The elements of a destination under a predicate: disabled ones keep the old element of a register and are zero in a
queue entry (R153). -/
def mergeElems (w : Nat) (pred : BitVec 1024) (old : BitVec 4096) (queue : Bool) (codes : List Nat) : BitVec 4096 :=
  pack w (codes.zipIdx.map fun c => if pred.getLsbD c.2 then c.1 else if queue then 0 else elem w old c.2)

/-- The flags of the enabled elements (R97, R153). -/
def enabledFlags (pred : BitVec 1024) (rs : List (Nat × Flags)) : Flags :=
  rs.zipIdx.foldl (fun acc r => if pred.getLsbD r.2 then acc ||| r.1.2 else acc) 0

/-- OR flags into X_FPFLAGS (R97, R188). -/
def State.orFlags (s : State) (f : Flags) : State := s.modLive fun l => { l with fpflags := l.fpflags ||| f }

/-- Write a whole register or push a whole entry. -/
def State.putReg (s : State) (vd : BitVec 5) (r : VReg) : State := s.modLive fun l => l.putV vd r

/-- Write the enabled elements of width w to vd, with a sidecar, and OR their flags (R153). -/
def State.putUnder (s : State) (vd : BitVec 5) (pred : BitVec 1024) (w : Nat) (side : BitVec 256) (rs : List (Nat × Flags)) :
    State :=
  (s.putReg vd ⟨mergeElems w pred (s.core.live.vreg vd).data (isQueue vd) (rs.map (·.1)), side⟩).orFlags
    (enabledFlags pred rs)

/-- Write element results of width w to vd under predicate pg, with a sidecar, and OR the enabled elements' flags (R153). -/
def State.putElems (s : State) (vd : BitVec 5) (pg : BitVec 3) (w : Nat) (side : BitVec 256) (rs : List (Nat × Flags)) :
    State := s.putUnder vd (s.core.live.pred pg) w side rs

/-- Write codes of width w to vd under predicate pg, with the sidecar 0x7F (R147, R153). -/
def State.putCodes (s : State) (vd : BitVec 5) (pg : BitVec 3) (w : Nat) (cs : List Nat) : State :=
  s.putElems vd pg w side7F (cs.map fun c => (c, 0))

/-- Write every element of vd, with the sidecar 0x7F. -/
def State.putAll (s : State) (vd : BitVec 5) (w : Nat) (cs : List Nat) : State := s.putReg vd ⟨pack w cs, side7F⟩

/-- The launch seed of the resident act (R94, R311). -/
def State.seed (s : State) : DWord :=
  match s.curLaunch with
  | some l => BitVec.ofNat 64 (natOfBytes ((l.record.bytes.drop 16).take 8))
  | none => 0

/-- Advance RIDX of the moving engine by n when the rounding field is RSK (R95). -/
def State.advanceRidx (s : State) (rnd : BitVec 2) (n : Nat) : State :=
  if rnd = 2 then s.modEng fun x => { x with ridx := x.ridx + BitVec.ofNat 32 n } else s

/-- A list in runs of n elements, at most k of them. -/
def chunks {α : Type} (n : Nat) : Nat → List α → List (List α)
  | 0, _ => []
  | k + 1, xs => xs.take n :: chunks n k (xs.drop n)

end Sys2Proof.Machine
end

