-- ==== Sys2Proof/Machine/Flags.lean ====
section
/-! DEFINITION. Sums and reductions with the flags of their roundings: ordered sums, and unordered sums as some full binary
tree of additions (R9, R97, R171, R172, R174). -/

namespace Sys2Proof.Machine

open Sys2Proof

/-- One rounded addition in FP32: the value and its flags. -/
def addF32 (mode : Mode) (x y : FVal) : FVal × Flags :=
  let r := roundOp fp32 mode (x.add y)
  (fp32.decode r.1, r.2)

/-- acc plus each value in order, each step rounded (R171). -/
def sumOrdered (mode : Mode) (acc : FVal) (fl : Flags) : List FVal → FVal × Flags
  | [] => (acc, fl)
  | x :: xs => let r := addF32 mode acc x; sumOrdered mode r.1 (fl ||| r.2) xs

/-- Combine two operands chosen freely until one is left: the value of some full binary tree (R9, R171). Arguments: count of
additions left, the free counter. -/
def sumTree (mode : Mode) (fl : Flags) (free : Nat) : Nat → List FVal → FVal × Flags × Nat
  | 0, xs => (xs.getD 0 (.fin false 0 0), fl, free)
  | n + 1, xs =>
    if xs.length ≤ 1 then (xs.getD 0 (.fin false 0 0), fl, free)
    else
      let i := Config.freeNat free % xs.length
      let x := xs.getD i (.fin false 0 0)
      let ys := xs.eraseIdx i
      let j := Config.freeNat (free + 1) % ys.length
      let r := addF32 mode x (ys.getD j (.fin false 0 0))
      sumTree mode (fl ||| r.2) (free + 2) n (r.1 :: ys.eraseIdx j)

/-- A sum over FP32 values in the ordered or the unordered form: the code, the flags and the free counter after (R171). -/
def sumForm (o : Bool) (mode : Mode) (free : Nat) (xs : List FVal) : Nat × Flags × Nat :=
  if o then
    let r := sumOrdered mode (.fin false 0 0) 0 xs
    ((fp32.round .rne r.1).1, r.2, free)
  else
    let r := sumTree mode 0 free xs.length xs
    ((fp32.round .rne r.1).1, r.2.1, r.2.2)

/-- The exact sum of integers modulo 2^32 (R171). -/
def sumInt (xs : List Int) : Nat := natOfInt 32 (xs.foldl (· + ·) 0)

/-- The extreme of values by a choice function; none for an empty list (R171). -/
def extreme {α : Type} (f : α → α → α) : List α → Option α
  | [] => none
  | x :: xs => some (xs.foldl f x)

/-- The enabled members of a list (R153). -/
def enabled {α : Type} (pred : BitVec 1024) (xs : List α) : List α :=
  (xs.zipIdx.filter fun x => pred.getLsbD x.2).map (·.1)

end Sys2Proof.Machine
end

