-- ==== Sys2Proof/Machine/Matrix.lean ====
section
/-! DEFINITION. The matrix engine: stationary macros, the A row buffer, passes into accumulator tiles, the command window and
its replay, drains, `lqskip` and `alm.w` (R102 to R104, R180 to R184, R204 to R220, R296, R300, R336). -/

namespace Sys2Proof.Machine

open Sys2Proof

/-! ### Scratchpad elements and stationary groups -/

/-- Element i of width w of a range of a byte store that begins at base (R87, R146). -/
def Scratch.elem (m : Scratch) (w base i : Nat) : Nat :=
  if w = 4 then (m.get (base + i / 2)).toNat / 2 ^ (4 * (i % 2)) % 16
  else natOfBytes ((List.range (w / 8)).map fun j => m.get (base + i * (w / 8) + j))

/-- Columns of a macro (R205). -/
def BFmt.nm (f : BFmt) : Nat :=
  match f with
  | .mxi8 => 256
  | .mxi4 => 512

/-- Fraction bits of a B code (R91, R102). -/
def BFmt.frac (f : BFmt) : Nat :=
  match f with
  | .mxi8 => 6
  | .mxi4 => 2

/-- The format code of a B format (R56). -/
def BFmt.code (f : BFmt) : BitVec 4 :=
  match f with
  | .mxi8 => 8
  | .mxi4 => 9

/-- The B format of a format code. -/
def BFmt.ofCode (f : BitVec 4) : BFmt := if f = 8 then .mxi8 else .mxi4

/-- Widths of A (R212). -/
def aWidth (c : BitVec 3) : Nat :=
  match c.toNat with
  | 0 => 4
  | 1 => 6
  | 2 => 8
  | 3 => 12
  | _ => 16

/-- The resident scene of the core (R16, R231). -/
def State.scene (s : State) : Option Scene :=
  match s.core.scene with
  | some (c, id) => (s.ctxAt c).bind fun x => x.scenes.find? fun k => k.id == id
  | none => none

/-- The group and format that the resident scene declares for macro m (R78, R210). -/
def State.declared (s : State) (m : Nat) : Option (Nat × BFmt) :=
  match s.scene with
  | some sc => (sc.stats.find? fun d => decide (d.1 ≤ m) && decide (m < d.1 + d.2.1)).map fun d => (d.2.2.2, d.2.2.1)
  | none => none

/-- SPADDR for a range of n bytes at off that passes the end of the scratchpad (R199). TVAL0 is the first byte offset of the
range that lies beyond it: DESIGN CHOICE, log 38. -/
def spRange (off : Word) (n : Nat) : Option Trap :=
  if Config.spBytes < off.toNat + n then some ⟨0x16, BitVec.ofNat 32 (max off.toNat Config.spBytes), 0⟩ else none

/-- ALIGN for an offset that is no multiple of k (R199). -/
def spAlign (off : Word) (k : Nat) : Option Trap := if off.toNat % k = 0 then none else some ⟨0x12, off, 0⟩

/-- The first fault of a list of checks. -/
def firstTrap : List (Option Trap) → Option Trap
  | [] => none
  | some t :: _ => some t
  | none :: rest => firstTrap rest

/-! ### The command window (R190, R218, R300) -/

/-- A command of M joins the window; a write of a tile outside the set makes a replay impossible (R218, R219, R300). -/
def Live.windowed (l : Live) (c : WinCmd) (tiles : List Nat) : Live :=
  { l with
    winOvf := l.winOvf || decide (256 ≤ l.winCnt), winCnt := min 256 (l.winCnt + 1),
    window := if l.winCnt < 256 then l.window ++ [c] else l.window,
    winBad := l.winBad || tiles.any fun t => !(decide (l.winSet.1 ≤ t) && decide (t < l.winSet.1 + l.winSet.2)) }

/-- A marker over tiles t to t + n - 1 (R217). -/
def Live.marker (l : Live) (t n : Nat) (cv : Bool) : Live :=
  { l with winCur := BitVec.ofNat 3 t, winCv := cv, winCnt := 0, winOvf := false, winSet := (t, n), window := [],
           retained := l.rowbuf, winBad := false, winMacros := [] }

/-- Macros ms are written: a replay is impossible when a pass of the window has read one of them (R219). -/
def Live.wrote (l : Live) (ms : List Nat) : Live :=
  { l with winBad := l.winBad || ms.any l.winMacros.contains }

/-! ### Tiles (R180) -/

/-- Element tile[i][n] (R180). -/
def Live.tileAt (l : Live) (t i n : Nat) : Word := Sparse.get 0 l.tiles (8192 * t + 256 * i + n)

/-- Every element of tiles t to t + n - 1 becomes +0. -/
def Live.zeroTiles (l : Live) (t n : Nat) : Live := { l with tiles := Sparse.clear l.tiles (8192 * t) (8192 * (t + n)) }

/-! ### Feeds (R102, R211 to R213) -/

/-- A block of A on the grid of width w: integers, exponent, bad mark (R102). -/
def alignBlock (w : Nat) (vs : List FVal) : List Int × Int × Bool :=
  if vs.any FVal.special then (vs.map fun _ => 0, 0, true)
  else match maxTop vs with
    | none => (vs.map fun _ => 0, 0, false)
    | some x =>
      let ea := x - ((w : Int) - 2)
      let lim : Int := 2 ^ (w - 1) - 1
      (vs.map fun v => match v with
        | .fin neg m e =>
          let n := (roundInt .rne m (e - ea)).1
          max (-lim) (min lim (if neg then -(n : Int) else n))
        | _ => 0, ea, false)

/-- A vector of the row buffer from its 256 values (R211). -/
def alignVec (w : Nat) (vs : List FVal) : AVec :=
  let bs := (chunks 32 8 vs).map (alignBlock w)
  { w := w, a := bs.flatMap (·.1), ea := bs.map (·.2.1), bad := bs.map (·.2.2) }

/-- The values of vector v of a feed from the scratchpad (R212). -/
def Live.feedSp (l : Live) (fs : BitVec 4) (as : Bool) (sc ss v : Nat) : List FVal :=
  (List.range 256).map fun k =>
    let x := decodeCode fs (l.scratch.elem (fmtW fs) sc (256 * v + k))
    if as then x.scale (l.scratch.get (ss + 8 * v + k / 32)).toNat else x

/-- The values of vector v of a feed from the queue entries es (R99, R212). -/
def feedQ (fs : BitVec 4) (as : Bool) (es : List VReg) (v : Nat) : List FVal :=
  (List.range 256).map fun k =>
    let per := 4096 / fmtW fs
    let i := 256 * v + k
    let e := es.getD (i / per) VReg.zero
    let x := decodeCode fs (elem (fmtW fs) e.data (i % per))
    if as then x.scale (elem 8 e.side (i % per / 32)) else x

/-! ### Passes (R103, R104, R214 to R216) -/

/-- Tiles that a pass adds into (R214). -/
def PassRun.count (p : PassRun) : Nat :=
  match p.fmt with
  | .mxi8 => p.nd
  | .mxi4 => 2 * p.nd

/-- The pass adds into tile t. -/
def PassRun.hits (p : PassRun) (t : Nat) : Bool := decide (p.tile ≤ t) && decide (t < p.tile + p.count)

/-- Vectors that the pass still takes. -/
def PassRun.need (p : PassRun) : Nat := p.nv * p.kd - p.rows * p.kd - p.part.length

/-- The B code of row k and column n of macro m (R205). -/
def Live.bcode (l : Live) (f : BFmt) (m k n : Nat) : Int :=
  match f with
  | .mxi8 => signedOf 8 (l.scratch.get (65536 * m + 256 * k + n)).toNat
  | .mxi4 => signedOf 4 (l.scratch.elem 4 (65536 * m) (512 * k + n))

/-- The B scale of block kb and column n of macro m (R205). -/
def Live.bscale (l : Live) (f : BFmt) (m kb n : Nat) : Nat := (l.scales.get (4096 * m + kb * f.nm + n)).toNat

/-- The inner sum of one block with the exponent ea + eb; none for a bad block (R102, R103). -/
def Live.blockSum (l : Live) (f : BFmt) (v : AVec) (m kb n : Nat) : Option (Int × Int) :=
  let sc := l.bscale f m kb n
  if v.bad.getD kb true || sc == 255 then none
  else
    some (((v.a.drop (32 * kb)).take 32).zipIdx.foldl (fun acc x =>
        if x.1 = 0 then acc else acc + x.1 * l.bcode f m (32 * kb + x.2) n) 0,
      v.ea.getD kb 0 + (sc : Int) - 127 - f.frac)

/-- The blocks of a row in ascending K that tile number q receives in column c (R215). -/
def Live.rowBlocks (l : Live) (p : PassRun) (vs : List AVec) (q c : Nat) : List (Option (Int × Int)) :=
  vs.zipIdx.flatMap fun v =>
    (List.range 8).map fun kb =>
      match p.fmt with
      | .mxi8 => l.blockSum .mxi8 v.1 (p.first + q * p.kd + v.2) kb c
      | .mxi4 => l.blockSum .mxi4 v.1 (p.first + q / 2 * p.kd + v.2) kb (256 * (q % 2) + c)

/-- The tile status of one column's adds: MOVF, INF, NAN (R181). -/
abbrev TileBits := Bool × Bool × Bool

/-- One add into a tile element (R103, R181). -/
def addTile (acc : Nat × TileBits) (p : FVal) : Nat × TileBits :=
  let r := (roundOp fp32 .rne ((fp32.decode acc.1).add p)).1
  let v := fp32.decode r
  (r, (acc.2.1, acc.2.2.1 || v.isInf, acc.2.2.2 || v.isNan))

/-- The promoted value of a block or a run. -/
def promoted (b : Option (Int × Int)) : FVal :=
  match b with
  | some (x, e) => .ofInt x e
  | none => .nan

/-- A run of fused blocks: sum, exponent and count (R104). -/
abbrev FRun := Option (Int × Int × Nat)

/-- End a run: its sum is promoted (R104). -/
def endRun (acc : Nat × TileBits) : FRun → Nat × TileBits
  | none => acc
  | some (x, e, _) => addTile acc (.ofInt x e)

/-- Add a block's sum to a run, with saturation and MOVF (R104). -/
def saturate (x : Int) : Int × Bool :=
  if 2 ^ 23 - 1 < x then (2 ^ 23 - 1, true) else if x < -(2 ^ 23 - 1) then (-(2 ^ 23 - 1), true) else (x, false)

/-- The adds of a column in fused-block mode (R104). -/
def addFused (acc : Nat × TileBits) (run : FRun) : List (Option (Int × Int)) → Nat × TileBits
  | [] => endRun acc run
  | none :: bs => addFused (addTile (endRun acc run) .nan) none bs
  | some (x, e) :: bs =>
    match run with
    | some (y, e', k) =>
      if e' = e ∧ k < 8 then
        let r := saturate (y + x)
        addFused (acc.1, (acc.2.1 || r.2, acc.2.2)) (some (r.1, e, k + 1)) bs
      else
        let r := saturate x
        let a := endRun acc run
        addFused (a.1, (a.2.1 || r.2, a.2.2)) (some (r.1, e, 1)) bs
    | none =>
      let r := saturate x
      addFused (acc.1, (acc.2.1 || r.2, acc.2.2)) (some (r.1, e, 1)) bs

/-- The new value and status of an element that receives the blocks bs (R103, R104). -/
def addColumn (fused : Bool) (old : Word) (bs : List (Option (Int × Int))) : Nat × TileBits :=
  if fused then addFused (old.toNat, (false, false, false)) none bs
  else bs.foldl (fun acc b => addTile acc (promoted b)) (old.toNat, (false, false, false))

/-- The bits of ACCST that a status sets for tile t (R181). -/
def tileStatus (t : Nat) (b : TileBits) : Word :=
  BitVec.ofNat 32 (((if b.1 then 1 else 0) + (if b.2.1 then 2 else 0) + (if b.2.2 then 4 else 0)) * 2 ^ (4 * t))

/-- Form one row of a pass in tile number q of it (R215). -/
def Live.formTile (l : Live) (p : PassRun) (vs : List AVec) (q : Nat) : Live :=
  let t := p.tile + q
  let row := p.row0 + p.rows
  let rs := (List.range 256).map fun c => addColumn p.fused (l.tileAt t row c) (l.rowBlocks p vs q c)
  { l with tiles := Sparse.write 0 l.tiles (8192 * t + 256 * row) (rs.map fun r => BitVec.ofNat 32 r.1),
           accst := rs.foldl (fun a r => a ||| tileStatus t r.2) l.accst }

/-- Form one row of a pass in every tile it adds into. -/
def Live.formRow (l : Live) (p : PassRun) (vs : List AVec) : Live :=
  (List.range p.count).foldl (fun l q => l.formTile p vs q) l

/-- A pass takes vectors: a row is formed when its kd vectors are there (R215, R216). -/
def Live.takeVecs (l : Live) (p : PassRun) : List AVec → Live × PassRun
  | [] => (l, p)
  | v :: vs =>
    let part := p.part ++ [v]
    if p.kd ≤ part.length then (l.formRow p part).takeVecs { p with rows := p.rows + 1, part := [] } vs
    else l.takeVecs { p with part := part } vs

/-- The pass in progress takes what the row buffer holds; with its first row it begins to read its macros, and it completes when
its last row is formed (R214, R216, R219). -/
def Live.advancePass (l : Live) : Live :=
  match l.pass with
  | none => l
  | some p =>
    let k := min p.need l.rowbuf.length
    let r := ({ l with rowbuf := l.rowbuf.drop k }).takeVecs p (l.rowbuf.take k)
    let ms := if !p.begun && r.2.begun then (List.range (p.nd * p.kd)).map (p.first + ·) else []
    let l1 : Live := { r.1 with winMacros := r.1.winMacros ++ ms }
    if r.2.need = 0 then ({ l1 with pass := none }).retireDone .m p.seq else { l1 with pass := some r.2 }

/-- Vectors enter the row buffer, and the pass in progress goes on. -/
def Live.pushVecs (l : Live) (vs : List AVec) : Live := ({ l with rowbuf := l.rowbuf ++ vs }).advancePass

/-! ### Replay after an upset (R219, R300) -/

/-- Perform a retained command's tile writes again. -/
def Live.replayCmd (l : Live) : WinCmd → Live
  | .feed vs => l.pushVecs vs
  | .pass p => ({ l with pass := some p }).advancePass
  | .zero t => l.zeroTiles t 1
  | .other => l

/-- The tiles of the window's set, rebuilt from the retained store and the retained commands; every other piece of state
stays as it is (R219). -/
def Live.replay (l : Live) : Live :=
  let start := { l.zeroTiles l.winSet.1 l.winSet.2 with rowbuf := l.retained, pass := none }
  { l with tiles := (l.window.foldl Live.replayCmd start).tiles }

/-- The window can be replayed (R219). -/
def Live.replayable (l : Live) : Bool := !l.winOvf && !l.winBad

/-! ### The instructions -/

/-- The format byte of the almanac entry for an M instruction, checked against the formats it accepts (R69 row 6, R106,
R107). -/
def almFmt (alm : Bool) (field : Word → Nat) (ok : Nat → Bool) (s : State) : Option Trap :=
  if alm && (almSmBad s.almNow.2 || !ok (field s.almNow.2)) then some (illtype s) else none

/-- FS pairs with FB (R208). -/
def statPairs (fs : Nat) (fb : BitVec 4) : Bool :=
  if fb = 8 then [1, 3, 4, 6, 8].contains fs else [5, 9].contains fs

/-- One block of a converted macro: its scale and its 32 codes (R207). -/
def Live.statBlock (l : Live) (fs : BitVec 4) (fb : BFmt) (scl : Bool) (src ssrc kb n : Nat) : Nat × List Nat :=
  let sc := if scl then (l.scratch.get (ssrc + kb * fb.nm + n)).toNat else 0x7F
  let codes := (List.range 32).map fun k => l.scratch.elem (fmtW fs) src ((32 * kb + k) * fb.nm + n)
  if fs = fb.code then (sc, codes)
  else
    let d := deriveBlock fb.code (codes.map fun _ => Mode.rne) (codes.map fun c => (decodeCode fs c).scale sc)
    (d.1, d.2.1)

/-- The bytes of a run of codes of a B format (R87). -/
def BFmt.bytes (f : BFmt) (cs : List Nat) : List Byte :=
  match f with
  | .mxi8 => cs.map fun c => BitVec.ofNat 8 c
  | .mxi4 => bytesOfNat (cs.length / 2) (packNat 4 cs)

/-- Convert one macro from its source (R207): `old` holds the source. -/
def Live.statMacro (l old : Live) (fs : BitVec 4) (fb : BFmt) (scl : Bool) (src ssrc m : Nat) : Live :=
  let blocks := (List.range 8).map fun kb => (List.range fb.nm).map fun n => old.statBlock fs fb scl src ssrc kb n
  let codes := blocks.flatMap fun col => (List.range 32).flatMap fun k => col.map fun b => b.2.getD k 0
  { l with scratch := l.scratch.write (65536 * m) (fb.bytes codes),
           scales := l.scales.write (4096 * m) (blocks.flatMap fun col => col.map fun b => BitVec.ofNat 8 b.1) }

/-- A pending drain still writes a granule of n bytes at an address (R227). -/
def Live.drainsInto (l : Live) (a n : Nat) : Bool := l.spDrains.any fun d => d.parts.any fun x => sameGranule a n x.1 x.2.length

/-- An M access waits for the earlier drains into its granules, which arrive at their banks before it (R226, R227); a drain that waits for a pass without vectors makes that wait hopeless (R213). -/
def State.drainWait (s : State) : Res :=
  if !s.core.live.heldDrains.isEmpty then .fault s deadlockM else .wait .external

/-- Two byte ranges overlap. -/
def overlaps (a n b m : Nat) : Bool := decide (a < b + m) && decide (b < a + n) && decide (0 < n) && decide (0 < m)

/-- The SPSTAT checks of `sp.stat` (R208 check 3, R210). Where the group holds macros of the other format, TVAL1 is the lowest of
them, and else the lowest destination macro at fault: DESIGN CHOICE, log 38. -/
def State.statCheck (s : State) (g : Nat) (fb : BFmt) (m0 mc src size ssrc : Nat) (scl : Bool) : Option Trap :=
  let l := s.core.live
  let dests := (List.range mc).map (m0 + ·)
  let bad := fun (m : Nat) => (⟨0x17, BitVec.ofNat 32 g, BitVec.ofNat 32 m⟩ : Trap)
  let other := dests.find? fun m => match l.mark m with | some k => k.group != g | none => false
  let fmt := (l.groupOf g).find? fun m => match l.mark m with | some k => decide (k.fmt ≠ fb) | none => false
  let lap := dests.find? fun m =>
    ((List.range mc).any fun i =>
      overlaps (src + i * size) size (65536 * m) 65536 &&
        !(decide (m = m0 + i) && decide (src + i * size = 65536 * m) && decide (size = 65536))) ||
    (scl && overlaps ssrc (8 * fb.nm * mc) (65536 * m) 65536)
  let scn := dests.find? fun m => match s.declared m with
    | some d => d.1 != g || decide (d.2 ≠ fb)
    | none => match s.scene with
      | some sc => sc.stats.any fun d => d.2.2.2 == g
      | none => false
  firstTrap [other.map bad, fmt.map bad, lap.map bad, scn.map bad]

/-- SP_STAT: converts weights into macros and marks them (R207, R208, R210). -/
def execSpStat (cu : Cue) (d a b : BitVec 5) (m0 : BitVec 6) (mc : BitVec 7) (fs fb : BitVec 4) (scl alm : Bool)
    (s : State) : Host.Outcome State Fault Refusal :=
  ({ i := .spStat cu d a b m0 mc fs fb scl alm, cu := cu, op := 0x48, uses := [a, b],
     alm := almFmt alm almB fun f => statPairs f fb,
     body := fun s =>
       let e := s.eng.alment
       let f := if alm then BitVec.ofNat 4 (almB e) else fs
       let sc := if alm then (almSm e).testBit 1 else scl
       let B := BFmt.ofCode fb
       let src := s.rs a
       let ssrc := s.rs b
       let size := 256 * B.nm * fmtW f / 8
       let dests := (List.range mc.toNat).map (m0.toNat + ·)
       match firstTrap [spAlign src 32, spRange src (mc.toNat * size),
                        if sc then spRange ssrc (8 * B.nm * mc.toNat) else none,
                        s.statCheck d.toNat B m0.toNat mc.toNat src.toNat size ssrc.toNat sc] with
       | some t => .fault s t
       | none =>
         if s.core.live.passBlocks fun p => dests.any p.reads then .fault s deadlockM
         else if s.core.live.drainsInto src.toNat (mc.toNat * size) || s.core.live.drainsInto (65536 * m0.toNat) (65536 * mc.toNat) ||
             (sc && s.core.live.drainsInto ssrc.toNat (8 * B.nm * mc.toNat)) then s.drainWait
         else .done (s.modLive fun l =>
           (((List.range mc.toNat).foldl (fun x i =>
               (x.statMacro l f B sc (src.toNat + i * size) (ssrc.toNat + i * 8 * B.nm) (m0.toNat + i)).setMark
                 (m0.toNat + i) (some ⟨d.toNat, B⟩)) l).wrote dests).windowed .other []) } : Issue).run s

/-- SP_PLAIN: returns macros to plain storage (R209). The scale-store bytes of a plain macro are not readable, and
`sp.stat` writes all of them, so they stay for a replay of the window (R219). DESIGN CHOICE, log 38: where several of the named macros are
declared, SPSTAT reports the lowest of them and its group; R199 and R209 give no choice among them. -/
def execSpPlain (cu : Cue) (d : BitVec 5) (m0 : BitVec 6) (mc : BitVec 7) (g : Bool) (s : State) :
    Host.Outcome State Fault Refusal :=
  ({ i := .spPlain cu d m0 mc g, cu := cu, op := 0x49,
     body := fun s =>
       let named := if g then s.core.live.groupOf d.toNat else (List.range mc.toNat).map (m0.toNat + ·)
       match named.find? fun m => (s.declared m).isSome with
       | some m => .fault s ⟨0x17, BitVec.ofNat 32 ((s.declared m).map (·.1) |>.getD 0), BitVec.ofNat 32 m⟩
       | none =>
         if s.core.live.passBlocks fun p => named.any p.reads then .fault s deadlockM
         else .done (s.modLive fun l => (named.foldl (fun x m => x.setMark m none) l).windowed .other []) } : Issue).run s

/-- MM_FEED: decodes A vectors into the row buffer (R211 to R214). DESIGN CHOICE, log 38: ALIGN and SPADDR come first, then the waits for
room and for the load queue, and a width other than the pass's is tested last, before an entry is popped; R214 gives no order. -/
def execMmFeed (cu : Cue) (d a b : BitVec 5) (fs : BitVec 4) (as alm : Bool) (w n : BitVec 3) (s : State) :
    Host.Outcome State Fault Refusal :=
  ({ i := .mmFeed cu d a b fs as alm w n, cu := cu, op := 0x4A, uses := [a, b],
     alm := almFmt alm almA fun f => decide (f ≤ 10) || f == 12,
     body := fun s =>
       let e := s.eng.alment
       let f := if alm then BitVec.ofNat 4 (almA e) else fs
       let sca := (if alm then (almSm e).testBit 0 else as) && fmtScaled f
       let W := aWidth w
       let k := n.toNat + 1
       let bytes := k * 256 * fmtW f / 8
       let entries := (bytes + 511) / 512
       let sp := decide (d = 0)
       let srcs := if sp then [] else List.replicate entries d
       match (if sp then firstTrap [spAlign (s.rs a) 32, spRange (s.rs a) bytes,
                                    if sca then spRange (s.rs b) (8 * k) else none] else none) with
       | some t => .fault s t
       | none =>
         if 8 < s.core.live.rowbuf.length + k then
           (if s.core.live.pass.isSome then .wait .rowBuffer else .fault s deadlockM)
         else match s.core.live.vecWait srcs [] with
           | some w => .wait w
           | none =>
             match s.core.live.pass with
             | some p =>
               if p.w ≠ W then .fault s ⟨0x17, BitVec.ofNat 32 p.group, BitVec.ofNat 32 p.first⟩
               else finishFeed s f sca W k sp srcs
             | none => finishFeed s f sca W k sp srcs } : Issue).run s
where
  finishFeed (s : State) (f : BitVec 4) (sca : Bool) (W k : Nat) (sp : Bool) (srcs : List (BitVec 5)) : Res :=
    if sp then
      if s.core.live.drainsInto (s.rs a).toNat (k * 256 * fmtW f / 8) || (sca && s.core.live.drainsInto (s.rs b).toNat (8 * k)) then
        s.drainWait
      else
      let vs := (List.range k).map fun v =>
        alignVec W (s.core.live.feedSp f sca (s.rs a).toNat (s.rs b).toNat v)
      .done (s.modLive fun l => (l.pushVecs vs).windowed (.feed vs) [])
    else match s.core.live.takeAll srcs with
      | (_, some t, l) => .fault (s.setLive l) t
      | (es, none, l) =>
        let vs := (List.range k).map fun v => alignVec W (feedQ f sca es v)
        .done (s.setLive ((l.pushVecs vs).windowed (.feed vs) []))

/-- The macros of a group that a pass can use, with its format: one contiguous run of one format (R206). -/
def Live.usable (l : Live) (ms : List Nat) : Option (Nat × BFmt) :=
  match ms with
  | [] => none
  | m :: _ =>
    match l.mark m with
    | some k =>
      if decide (ms = (List.range ms.length).map (m + ·)) &&
          ms.all (fun x => match l.mark x with | some j => decide (j.fmt = k.fmt) | none => false)
      then some (m, k.fmt) else none
    | none => none

/-- MM_PASS: broadcasts fed vectors through a group into tiles (R103, R104, R214 to R216). -/
def execMmPass (cu : Cue) (d a : BitVec 5) (kd w : BitVec 3) (nv row0 : BitVec 5) (f : Bool) (s : State) :
    Host.Outcome State Fault Refusal :=
  ({ i := .mmPass cu d a kd w nv row0 f, cu := cu, op := 0x4B,
     body := fun s =>
       let l := s.core.live
       let ms := l.groupOf a.toNat
       let K := 2 ^ kd.toNat
       let bad : Trap := ⟨0x17, a.setWidth 32, BitVec.ofNat 32 (ms.headD 64)⟩
       match l.usable ms with
       | none => .fault s bad
       | some (first, fmt) =>
         let p : PassRun := { seq := l.seq, tile := d.toNat, group := a.toNat, first := first, fmt := fmt,
                              nd := ms.length / K, kd := K, w := aWidth w, nv := nv.toNat + 1, row0 := row0.toNat,
                              fused := f, rows := 0, part := [] }
         if ms.length % K ≠ 0 || decide (8 < d.toNat + p.count) ||
             (l.pass.isNone && (l.rowbuf.take p.need).any fun v => v.w != p.w) then .fault s bad
         else if l.pass.isSome then .fault s deadlockM
         else if l.drainsInto (65536 * first) (65536 * ms.length) then s.drainWait
         else
           let l1 := l.windowed (.pass p) ((List.range p.count).map (d.toNat + ·))
           let l2 := { l1 with pass := some p }.advancePass
           if l2.pass.isSome then .pend (s.setLive l2) else .done (s.setLive l2) } : Issue).run s

/-- MM_TILE: zeroes tiles and sets the tile-start marker (R217). -/
def execMmTile (cu : Cue) (d : BitVec 5) (n : BitVec 3) (s : State) : Host.Outcome State Fault Refusal :=
  ({ i := .mmTile cu d n, cu := cu, op := 0x4C,
     body := fun s =>
       if s.core.live.pass.isSome then .fault s deadlockM
       else .done (s.modLive fun l =>
         (l.zeroTiles d.toNat (n.toNat + 1)).marker d.toNat (n.toNat + 1) true) } : Issue).run s

/-- MM_ZERO: sets one tile to +0 and clears its status (R183). -/
def execMmZero (cu : Cue) (d : BitVec 5) (s : State) : Host.Outcome State Fault Refusal :=
  ({ i := .mmZero cu d, cu := cu, op := 0x4D,
     body := fun s =>
       if s.core.live.passBlocks fun p => p.hits d.toNat then .fault s deadlockM
       else .done (s.modLive fun l =>
         ({ l.zeroTiles d.toNat 1 with accst := l.accst &&& ~~~(BitVec.ofNat 32 (7 * 2 ^ (4 * d.toNat))) }).windowed
           (.zero d.toNat) [d.toNat]) } : Issue).run s

/-- One row of a drain: its element codes and its block scales (R101, R220). -/
def Live.drainRow (l : Live) (t row pos : Nat) (fd : BitVec 4) (der : Bool) (mode : Nat → Mode) : List Nat × List Nat :=
  let codes := (List.range 256).map fun c => (l.tileAt t row c).toNat
  if fd = 0 then (codes, List.replicate 8 0x7F)
  else
    let bs := (chunks 32 8 (codes.zipIdx)).map fun blk =>
      let vs := blk.map fun c => fp32.decode c.1
      let mo := blk.map fun c => mode (pos + c.2)
      if der then
        let r := deriveBlock fd mo vs
        (r.1, r.2.1)
      else (0x7F, (mo.zip vs).map fun x => (convert fd x.1 x.2).1)
    (bs.flatMap (·.2), bs.map (·.1))

/-- The queue entries of a drain: its bytes in runs of 512, each with the scales of its blocks (R99, R220). -/
def drainEntries (w : Nat) (scaled : Bool) (codes scales : List Nat) : List VReg :=
  let per := 4096 / w
  (List.range ((codes.length + per - 1) / per)).map fun i =>
    { data := pack w ((codes.drop (i * per)).take per),
      side := if scaled then
          BitVec.ofNat 256 (packNat 8 ((List.range 32).map fun j =>
            if j < per / 32 then scales.getD (i * (per / 32) + j) 0x7F else 0x7F))
        else side7F }

/-- The rounding-index step of an M instruction with n elements (R95). -/
def advanceM (rnd : BitVec 2) (n : Nat) (l : Live) : Live :=
  if rnd = 2 then l.modEng .m fun x => { x with ridx := x.ridx + BitVec.ofNat 32 n } else l

/-- The writes of bytes at an address, cut at the banks (R204, R226). -/
def bankParts (a : Nat) (bs : List Byte) : List (Nat × List Byte) :=
  (List.range 64).filterMap fun j =>
    let lo := max a (65536 * j)
    let hi := min (a + bs.length) (65536 * (j + 1))
    if lo < hi then some (lo, (bs.drop (lo - a)).take (hi - lo)) else none

/-- MM_DRAIN: converts tile rows into scratchpad or into lq3 (R220). To the scratchpad it issues, and its writes arrive at their
banks later (R227, R289). DESIGN CHOICE, log 38: where its codes and its scales overlap, each bank takes the codes first and the scales
last; R220 does not say which write stands. -/
def execMmDrain (cu : Cue) (d a b : BitVec 5) (tile : BitVec 3) (fd : BitVec 4) (rnd : BitVec 2) (ds alm : Bool)
    (row0 nr : BitVec 5) (s : State) : Host.Outcome State Fault Refusal :=
  ({ i := .mmDrain cu d a b tile fd rnd ds alm row0 nr, cu := cu, op := 0x4E, uses := [a, b],
     alm := almFmt alm almOut fun f => decide (f ≤ 10) || f == 12 || f == 13,
     body := fun s =>
       let l := s.core.live
       let e := s.eng.alment
       let f := if alm then BitVec.ofNat 4 (almOut e) else fd
       let der := (if alm then (almSm e).testBit 2 else ds) && fmtScaled f
       let w := fmtW f
       let k := nr.toNat + 1
       let sp := decide (d = 0)
       match (if sp then firstTrap [spAlign (s.rs a) 32, spRange (s.rs a) (k * 256 * w / 8),
                                    if fmtScaled f then spRange (s.rs b) (8 * k) else none] else none) with
       | some t => .fault s t
       | none =>
         if l.passBlocks fun p => p.hits tile.toNat then .fault s deadlockM
         else
           let rows := (List.range k).map fun i =>
             l.drainRow tile.toNat (row0.toNat + i) (256 * i) f der fun x => modeOf rnd s.seed s.eng.ridx 2 x
           let codes := rows.flatMap (·.1)
           let scales := rows.flatMap (·.2)
           let l1 := (advanceM rnd (256 * k) l).windowed .other []
           if sp then
             .pend (s.setLive { l1 with
               spDrains := l1.spDrains ++ [⟨l.seq, bankParts (s.rs a).toNat (bytesOfNat (k * 256 * w / 8) (packNat w codes)) ++
                 (if fmtScaled f then bankParts (s.rs b).toNat (scales.map (BitVec.ofNat 8)) else [])⟩] })
           else
             let es := drainEntries w (fmtScaled f) codes scales
             let l2 := ({ l1 with drains := l1.drains ++ [(l.seq, es)] }).pushDrain
             if l2.drains.isEmpty then .done (s.setLive l2) else .pend (s.setLive l2) } : Issue).run s

/-- MM_RD: reads one tile element (R184). -/
def execMmRd (cu : Cue) (d a b : BitVec 5) (tile : BitVec 3) (row : BitVec 5) (col : BitVec 8) (i : Bool) (s : State) :
    Host.Outcome State Fault Refusal :=
  ({ i := .mmRd cu d a b tile row col i, cu := cu, op := 0x4F, uses := [d, a, b],
     body := fun s =>
       let r := if i then row.toNat else (s.rs a).toNat
       let c := if i then col.toNat else (s.rs b).toNat
       if s.core.live.passBlocks fun p => p.hits tile.toNat then .fault s deadlockM
       else .done (s.ws d (if 32 ≤ r ∨ 256 ≤ c then 0 else s.core.live.tileAt tile.toNat r c)) } : Issue).run s

/-- LQSKIP: discards load-queue entries without fault, whatever their marks (R296). -/
def execLqskip (cu : Cue) (d : BitVec 5) (n : BitVec 2) (s : State) : Host.Outcome State Fault Refusal :=
  ({ i := .lqskip cu d n, cu := cu, op := 0x72,
     body := fun s =>
       let q := queueOf d
       match s.core.live.popWait q (n.toNat + 1) with
       | some w => .wait w
       | none => .done (s.modLive fun l => l.setLoadQ q ((l.loadQ q).drop (n.toNat + 1))) } : Issue).run s

/-- ALM_W: writes one whole almanac entry (R108, R336). -/
def execAlmW (cu : Cue) (a b : BitVec 5) (e : BitVec 4) (ri : Bool) (s : State) : Host.Outcome State Fault Refusal :=
  plain (.almW cu a b e ri) cu 0x7B [a, b] (fun s =>
    let i := if ri then (s.rs b).toNat % 16 else e.toNat
    s.modLive fun l => { l with alm := vset l.alm i (s.rs a) }) s

end Sys2Proof.Machine
end

