-- ==== Sys2Proof/Machine/Scalar.lean ====
section
/-! DEFINITION. The scalar integer instructions: the integer, bit, immediate and divide groups (R111, R115 to R118, R130). -/

namespace Sys2Proof.Machine

open Sys2Proof

/-- An instruction that writes s[d] with a value of the state. -/
def setsReg (i : Instr) (cu : Cue) (op : BitVec 7) (uses : List (BitVec 5)) (d : BitVec 5) (v : State → Word) (s : State) :
    Host.Outcome State Fault Refusal :=
  plain i cu op (d :: uses) (fun s => s.ws d (v s)) s

/-- A comparison: condition flag d of the moving engine receives the relation (R115). -/
def setsFlag (i : Instr) (cu : Cue) (op : BitVec 7) (uses : List (BitVec 5)) (d : BitVec 5) (v : State → Bool) (s : State) :
    Host.Outcome State Fault Refusal :=
  plain i cu op uses (fun s => s.wc (d.setWidth 2) (v s)) s

/-- A slow operation of X: its result is pending from its issue on, to be delivered as the 14th counted instruction issues
(R124, R125). -/
def slowOp (i : Instr) (cu : Cue) (op : BitVec 7) (uses : List (BitVec 5)) (d : BitVec 5)
    (r : State → Word × Flags × Option (BitVec 2 × Bool)) (s : State) : Host.Outcome State Fault Refusal :=
  plain i cu op (d :: uses) (fun s =>
    let v := r s
    s.modLive fun l => { l with slow := l.slow ++ [⟨14, d, v.1, v.2.1, v.2.2⟩] }) s

/-- NOP: does nothing (R130). -/
def execNop (cu : Cue) (s : State) : Host.Outcome State Fault Refusal := plain (.nop cu) cu 0x01 [] id s

/-- ADD: the sum modulo 2^32 (R115). -/
def execAdd (cu : Cue) (d a b : BitVec 5) (s : State) : Host.Outcome State Fault Refusal :=
  setsReg (.add cu d a b) cu 0x10 [a, b] d (fun s => s.rs a + s.rs b) s

/-- SUB: the difference modulo 2^32 (R115). -/
def execSub (cu : Cue) (d a b : BitVec 5) (s : State) : Host.Outcome State Fault Refusal :=
  setsReg (.sub cu d a b) cu 0x10 [a, b] d (fun s => s.rs a - s.rs b) s

/-- MUL: the low half of the product (R115). -/
def execMul (cu : Cue) (d a b : BitVec 5) (s : State) : Host.Outcome State Fault Refusal :=
  setsReg (.mul cu d a b) cu 0x10 [a, b] d (fun s => s.rs a * s.rs b) s

/-- MULH: bits [63:32] of the exact signed product (R115). -/
def execMulh (cu : Cue) (d a b : BitVec 5) (s : State) : Host.Outcome State Fault Refusal :=
  setsReg (.mulh cu d a b) cu 0x10 [a, b] d (fun s => BitVec.ofInt 32 ((s.rs a).toInt * (s.rs b).toInt / 2 ^ 32)) s

/-- MULHN: bits [63:32] of the exact unsigned product (R115). -/
def execMulhn (cu : Cue) (d a b : BitVec 5) (s : State) : Host.Outcome State Fault Refusal :=
  setsReg (.mulhn cu d a b) cu 0x10 [a, b] d (fun s => BitVec.ofNat 32 ((s.rs a).toNat * (s.rs b).toNat / 2 ^ 32)) s

/-- AND (R115). -/
def execAnd (cu : Cue) (d a b : BitVec 5) (s : State) : Host.Outcome State Fault Refusal :=
  setsReg (.and cu d a b) cu 0x10 [a, b] d (fun s => s.rs a &&& s.rs b) s

/-- OR (R115). -/
def execOr (cu : Cue) (d a b : BitVec 5) (s : State) : Host.Outcome State Fault Refusal :=
  setsReg (.or cu d a b) cu 0x10 [a, b] d (fun s => s.rs a ||| s.rs b) s

/-- XOR (R115). -/
def execXor (cu : Cue) (d a b : BitVec 5) (s : State) : Host.Outcome State Fault Refusal :=
  setsReg (.xor cu d a b) cu 0x10 [a, b] d (fun s => s.rs a ^^^ s.rs b) s

/-- ANDN: s[a] and not s[b] (R115). -/
def execAndn (cu : Cue) (d a b : BitVec 5) (s : State) : Host.Outcome State Fault Refusal :=
  setsReg (.andn cu d a b) cu 0x10 [a, b] d (fun s => s.rs a &&& ~~~s.rs b) s

/-- SHL: 0 for an amount of 32 or more (R115). -/
def execShl (cu : Cue) (d a b : BitVec 5) (s : State) : Host.Outcome State Fault Refusal :=
  setsReg (.shl cu d a b) cu 0x10 [a, b] d (fun s => BitVec.ofNat 32 (shlW 32 (s.rs a).toNat (s.rs b).toNat)) s

/-- SHR: zero-filled; 0 for an amount of 32 or more (R115). -/
def execShr (cu : Cue) (d a b : BitVec 5) (s : State) : Host.Outcome State Fault Refusal :=
  setsReg (.shr cu d a b) cu 0x10 [a, b] d (fun s => BitVec.ofNat 32 (shrW 32 (s.rs a).toNat (s.rs b).toNat)) s

/-- SRA: filled with the sign; all sign bits for an amount of 32 or more (R115). -/
def execSra (cu : Cue) (d a b : BitVec 5) (s : State) : Host.Outcome State Fault Refusal :=
  setsReg (.sra cu d a b) cu 0x10 [a, b] d (fun s => BitVec.ofNat 32 (sraW 32 (s.rs a).toNat (s.rs b).toNat)) s

/-- MIN_I: the signed minimum (R115). -/
def execMinI (cu : Cue) (d a b : BitVec 5) (s : State) : Host.Outcome State Fault Refusal :=
  setsReg (.minI cu d a b) cu 0x10 [a, b] d (fun s => if (s.rs b).toInt < (s.rs a).toInt then s.rs b else s.rs a) s

/-- MAX_I: the signed maximum (R115). -/
def execMaxI (cu : Cue) (d a b : BitVec 5) (s : State) : Host.Outcome State Fault Refusal :=
  setsReg (.maxI cu d a b) cu 0x10 [a, b] d (fun s => if (s.rs a).toInt < (s.rs b).toInt then s.rs b else s.rs a) s

/-- MIN_N: the unsigned minimum (R115). -/
def execMinN (cu : Cue) (d a b : BitVec 5) (s : State) : Host.Outcome State Fault Refusal :=
  setsReg (.minN cu d a b) cu 0x10 [a, b] d (fun s => if s.rs b < s.rs a then s.rs b else s.rs a) s

/-- MAX_N: the unsigned maximum (R115). -/
def execMaxN (cu : Cue) (d a b : BitVec 5) (s : State) : Host.Outcome State Fault Refusal :=
  setsReg (.maxN cu d a b) cu 0x10 [a, b] d (fun s => if s.rs a < s.rs b then s.rs b else s.rs a) s

/-- CMP_EQ (R115). -/
def execCmpEq (cu : Cue) (d a b : BitVec 5) (s : State) : Host.Outcome State Fault Refusal :=
  setsFlag (.cmpEq cu d a b) cu 0x10 [a, b] d (fun s => decide (s.rs a = s.rs b)) s

/-- CMP_NE (R115). -/
def execCmpNe (cu : Cue) (d a b : BitVec 5) (s : State) : Host.Outcome State Fault Refusal :=
  setsFlag (.cmpNe cu d a b) cu 0x10 [a, b] d (fun s => decide (s.rs a ≠ s.rs b)) s

/-- CMP_LT_I: signed (R115). -/
def execCmpLtI (cu : Cue) (d a b : BitVec 5) (s : State) : Host.Outcome State Fault Refusal :=
  setsFlag (.cmpLtI cu d a b) cu 0x10 [a, b] d (fun s => decide ((s.rs a).toInt < (s.rs b).toInt)) s

/-- CMP_GE_I: signed (R115). -/
def execCmpGeI (cu : Cue) (d a b : BitVec 5) (s : State) : Host.Outcome State Fault Refusal :=
  setsFlag (.cmpGeI cu d a b) cu 0x10 [a, b] d (fun s => decide ((s.rs b).toInt ≤ (s.rs a).toInt)) s

/-- CMP_LT_N: unsigned (R115). -/
def execCmpLtN (cu : Cue) (d a b : BitVec 5) (s : State) : Host.Outcome State Fault Refusal :=
  setsFlag (.cmpLtN cu d a b) cu 0x10 [a, b] d (fun s => decide (s.rs a < s.rs b)) s

/-- CMP_GE_N: unsigned (R115). -/
def execCmpGeN (cu : Cue) (d a b : BitVec 5) (s : State) : Host.Outcome State Fault Refusal :=
  setsFlag (.cmpGeN cu d a b) cu 0x10 [a, b] d (fun s => decide (s.rs b ≤ s.rs a)) s

/-- MOV: copies s[a] (R116). -/
def execMov (cu : Cue) (d a : BitVec 5) (s : State) : Host.Outcome State Fault Refusal :=
  setsReg (.mov cu d a) cu 0x11 [a] d (fun s => s.rs a) s

/-- POPC: counts the ones of s[a] (R116). -/
def execPopc (cu : Cue) (d a : BitVec 5) (s : State) : Host.Outcome State Fault Refusal :=
  setsReg (.popc cu d a) cu 0x11 [a] d (fun s => BitVec.ofNat 32 (onesBelow (s.rs a).toNat 32)) s

/-- CLZ: zeros above the highest one, 32 for zero (R116). -/
def execClz (cu : Cue) (d a : BitVec 5) (s : State) : Host.Outcome State Fault Refusal :=
  setsReg (.clz cu d a) cu 0x11 [a] d (fun s => BitVec.ofNat 32 (clz32 (s.rs a))) s

/-- CTZ: zeros below the lowest one, 32 for zero (R116). -/
def execCtz (cu : Cue) (d a : BitVec 5) (s : State) : Host.Outcome State Fault Refusal :=
  setsReg (.ctz cu d a) cu 0x11 [a] d (fun s => BitVec.ofNat 32 (ctz32 (s.rs a))) s

/-- SEL: s[a] if the flag is 1, else s[b] (R116). -/
def execSel (cu : Cue) (d a b : BitVec 5) (c : BitVec 2) (s : State) : Host.Outcome State Fault Refusal :=
  setsReg (.sel cu d a b c) cu 0x11 [a, b] d (fun s => if s.rc c then s.rs a else s.rs b) s

/-- BEXT: the field of s[a] that s[b] describes, zero-extended (R116). -/
def execBext (cu : Cue) (d a b : BitVec 5) (s : State) : Host.Outcome State Fault Refusal :=
  setsReg (.bext cu d a b) cu 0x11 [a, b] d (fun s => bextOf (s.rs a) (s.rs b)) s

/-- BINS: s[a] put into the field of s[d] that s[b] describes (R116). -/
def execBins (cu : Cue) (d a b : BitVec 5) (s : State) : Host.Outcome State Fault Refusal :=
  setsReg (.bins cu d a b) cu 0x11 [a, b] d (fun s => binsOf (s.rs d) (s.rs a) (s.rs b)) s

/-- ADDI: s[a] plus the signed immediate (R117). -/
def execAddi (cu : Cue) (d a : BitVec 5) (imm : BitVec 11) (s : State) : Host.Outcome State Fault Refusal :=
  setsReg (.addi cu d a imm) cu 0x14 [a] d (fun s => s.rs a + imm.signExtend 32) s

/-- SHLI: s[a] shifted by the immediate amount (R117). -/
def execShli (cu : Cue) (d a n : BitVec 5) (s : State) : Host.Outcome State Fault Refusal :=
  setsReg (.shli cu d a n) cu 0x15 [a] d (fun s => BitVec.ofNat 32 (shlW 32 (s.rs a).toNat n.toNat)) s

/-- SHRI: s[a] shifted by the immediate amount (R117). -/
def execShri (cu : Cue) (d a n : BitVec 5) (s : State) : Host.Outcome State Fault Refusal :=
  setsReg (.shri cu d a n) cu 0x15 [a] d (fun s => BitVec.ofNat 32 (shrW 32 (s.rs a).toNat n.toNat)) s

/-- SRAI: s[a] shifted by the immediate amount (R117). -/
def execSrai (cu : Cue) (d a n : BitVec 5) (s : State) : Host.Outcome State Fault Refusal :=
  setsReg (.srai cu d a n) cu 0x15 [a] d (fun s => BitVec.ofNat 32 (sraW 32 (s.rs a).toNat n.toNat)) s

/-- LI: the 32-bit immediate (R66, R117). -/
def execLi (cu : Cue) (d : BitVec 5) (imm : BitVec 32) (s : State) : Host.Outcome State Fault Refusal :=
  setsReg (.li cu d imm) cu 0x16 [] d (fun _ => imm) s

/-- DIV_I: the signed quotient of R118, a slow result. -/
def execDivI (cu : Cue) (d a b : BitVec 5) (s : State) : Host.Outcome State Fault Refusal :=
  slowOp (.divI cu d a b) cu 0x12 [a, b] d (fun s => (divI (s.rs a) (s.rs b), 0, none)) s

/-- DIV_N: the unsigned quotient of R118, a slow result. -/
def execDivN (cu : Cue) (d a b : BitVec 5) (s : State) : Host.Outcome State Fault Refusal :=
  slowOp (.divN cu d a b) cu 0x12 [a, b] d (fun s => (divN (s.rs a) (s.rs b), 0, none)) s

/-- REM_I: the signed remainder of R118, a slow result. -/
def execRemI (cu : Cue) (d a b : BitVec 5) (s : State) : Host.Outcome State Fault Refusal :=
  slowOp (.remI cu d a b) cu 0x12 [a, b] d (fun s => (remI (s.rs a) (s.rs b), 0, none)) s

/-- REM_N: the unsigned remainder of R118, a slow result. -/
def execRemN (cu : Cue) (d a b : BitVec 5) (s : State) : Host.Outcome State Fault Refusal :=
  slowOp (.remN cu d a b) cu 0x12 [a, b] d (fun s => (remN (s.rs a) (s.rs b), 0, none)) s

end Sys2Proof.Machine
end

