-- ==== Sys2Proof/Machine/Float.lean ====
section
/-! DEFINITION. The scalar floating-point instructions of X, and the address instructions of A: the float group, fma, the
slow-float group, aadd, aaddi, aset and aget (R119 to R123, R129). -/

namespace Sys2Proof.Machine

open Sys2Proof

/-- The FP32 value of s[n] of the moving engine. -/
def State.rf (s : State) (n : BitVec 5) : FVal := fp32.decode (s.rs n).toNat

/-- The rounding mode of a scalar instruction (R57). -/
def scalarMode (rnd : BitVec 2) : Mode := if rnd = 1 then .rtz else .rne

/-- An instruction that writes s[d] with a rounded result and ORs its flags into X_FPFLAGS (R97, R188). -/
def setsFloat (i : Instr) (cu : Cue) (op : BitVec 7) (uses : List (BitVec 5)) (d : BitVec 5) (r : State → Nat × Flags)
    (s : State) : Host.Outcome State Fault Refusal :=
  plain i cu op (d :: uses) (fun s =>
    let v := r s
    (s.ws d (BitVec.ofNat 32 v.1)).modLive fun l => { l with fpflags := l.fpflags ||| v.2 }) s

/-- Magnitude of x with sign g; NaN gives the produced NaN (R86, R119). -/
def signOf (x : Word) (g : Bool) : Word :=
  if (fp32.decode x.toNat).isNan then 0x7FC00000 else (x &&& 0x7FFFFFFF) ||| (if g then 0x80000000 else 0)

/-- FADD (R119). -/
def execFadd (cu : Cue) (d a b : BitVec 5) (rnd : BitVec 2) (s : State) : Host.Outcome State Fault Refusal :=
  setsFloat (.fadd cu d a b rnd) cu 0x18 [a, b] d (fun s => roundOp fp32 (scalarMode rnd) ((s.rf a).add (s.rf b))) s

/-- FSUB (R119). -/
def execFsub (cu : Cue) (d a b : BitVec 5) (rnd : BitVec 2) (s : State) : Host.Outcome State Fault Refusal :=
  setsFloat (.fsub cu d a b rnd) cu 0x18 [a, b] d (fun s => roundOp fp32 (scalarMode rnd) ((s.rf a).add (s.rf b).neg)) s

/-- FMUL (R119). -/
def execFmul (cu : Cue) (d a b : BitVec 5) (rnd : BitVec 2) (s : State) : Host.Outcome State Fault Refusal :=
  setsFloat (.fmul cu d a b rnd) cu 0x18 [a, b] d (fun s => roundOp fp32 (scalarMode rnd) ((s.rf a).mul (s.rf b))) s

/-- FMIN: as R98 (R119). -/
def execFmin (cu : Cue) (d a b : BitVec 5) (s : State) : Host.Outcome State Fault Refusal :=
  setsFloat (.fmin cu d a b) cu 0x18 [a, b] d (fun s => fp32.round .rne ((s.rf a).min (s.rf b))) s

/-- FMAX: as R98 (R119). -/
def execFmax (cu : Cue) (d a b : BitVec 5) (s : State) : Host.Outcome State Fault Refusal :=
  setsFloat (.fmax cu d a b) cu 0x18 [a, b] d (fun s => fp32.round .rne ((s.rf a).max (s.rf b))) s

/-- fcmpEq: condition flag d (R119). -/
def execFcmpEq (cu : Cue) (d a b : BitVec 5) (s : State) : Host.Outcome State Fault Refusal :=
  setsFlag (.fcmpEq cu d a b) cu 0x18 [a, b] d (fun s => (s.rf a).eq (s.rf b)) s

/-- fcmpLt: condition flag d (R119). -/
def execFcmpLt (cu : Cue) (d a b : BitVec 5) (s : State) : Host.Outcome State Fault Refusal :=
  setsFlag (.fcmpLt cu d a b) cu 0x18 [a, b] d (fun s => (s.rf a).lt (s.rf b)) s

/-- fcmpLe: condition flag d (R119). -/
def execFcmpLe (cu : Cue) (d a b : BitVec 5) (s : State) : Host.Outcome State Fault Refusal :=
  setsFlag (.fcmpLe cu d a b) cu 0x18 [a, b] d (fun s => (s.rf a).le (s.rf b)) s

/-- fcmpUn: condition flag d (R119). -/
def execFcmpUn (cu : Cue) (d a b : BitVec 5) (s : State) : Host.Outcome State Fault Refusal :=
  setsFlag (.fcmpUn cu d a b) cu 0x18 [a, b] d (fun s => (s.rf a).isNan || (s.rf b).isNan) s

/-- fsgn: the magnitude of s[a] with a sign taken from s[b] (R119). -/
def execFsgn (cu : Cue) (d a b : BitVec 5) (s : State) : Host.Outcome State Fault Refusal :=
  setsReg (.fsgn cu d a b) cu 0x18 [a, b] d (fun s => signOf (s.rs a) ((s.rs b).getLsbD 31)) s

/-- fsgnN: the magnitude of s[a] with a sign taken from s[b] (R119). -/
def execFsgnN (cu : Cue) (d a b : BitVec 5) (s : State) : Host.Outcome State Fault Refusal :=
  setsReg (.fsgnN cu d a b) cu 0x18 [a, b] d (fun s => signOf (s.rs a) (!(s.rs b).getLsbD 31)) s

/-- fsgnX: the magnitude of s[a] with a sign taken from s[b] (R119). -/
def execFsgnX (cu : Cue) (d a b : BitVec 5) (s : State) : Host.Outcome State Fault Refusal :=
  setsReg (.fsgnX cu d a b) cu 0x18 [a, b] d (fun s => signOf (s.rs a) (xor ((s.rs a).getLsbD 31) ((s.rs b).getLsbD 31))) s

/-- fcvtI32F32: FP32 to i32 (R119, R120). -/
def execFcvtI32F32 (cu : Cue) (d a : BitVec 5) (rnd : BitVec 2) (s : State) : Host.Outcome State Fault Refusal :=
  setsFloat (.fcvtI32F32 cu d a rnd) cu 0x18 [a] d (fun s => intRound 32 true (scalarMode rnd) (s.rf a)) s

/-- fcvtN32F32: FP32 to n32 (R119, R120). -/
def execFcvtN32F32 (cu : Cue) (d a : BitVec 5) (rnd : BitVec 2) (s : State) : Host.Outcome State Fault Refusal :=
  setsFloat (.fcvtN32F32 cu d a rnd) cu 0x18 [a] d (fun s => intRound 32 false (scalarMode rnd) (s.rf a)) s

/-- fcvtF32I32: i32 to FP32 (R119, R120). -/
def execFcvtF32I32 (cu : Cue) (d a : BitVec 5) (rnd : BitVec 2) (s : State) : Host.Outcome State Fault Refusal :=
  setsFloat (.fcvtF32I32 cu d a rnd) cu 0x18 [a] d (fun s => fp32.round (scalarMode rnd) (FVal.ofSigned false (s.rs a).toInt 0)) s

/-- fcvtF32N32: n32 to FP32 (R119, R120). -/
def execFcvtF32N32 (cu : Cue) (d a : BitVec 5) (rnd : BitVec 2) (s : State) : Host.Outcome State Fault Refusal :=
  setsFloat (.fcvtF32N32 cu d a rnd) cu 0x18 [a] d (fun s => fp32.round (scalarMode rnd) (.fin false (s.rs a).toNat 0)) s

/-- FMA: s[a] s[b] + s[c] rounded once (R121). -/
def execFma (cu : Cue) (d a b : BitVec 5) (r : BitVec 2) (e : BitVec 5) (s : State) : Host.Outcome State Fault Refusal :=
  setsFloat (.fma cu d a b r e) cu 0x19 [a, b, e] d
    (fun s => roundOp fp32 (scalarMode r) ((s.rf a).fma (s.rf b) (s.rf e))) s

/-- FDIV: the rounded quotient, a slow result (R122). -/
def execFdiv (cu : Cue) (d a b : BitVec 5) (rnd : BitVec 2) (s : State) : Host.Outcome State Fault Refusal :=
  slowOp (.fdiv cu d a b rnd) cu 0x1A [a, b] d (fun s =>
    let r := divRound fp32 (scalarMode rnd) (s.rf a) (s.rf b)
    (BitVec.ofNat 32 r.1, r.2, none)) s

/-- FSQRT: the rounded root, a slow result (R122). -/
def execFsqrt (cu : Cue) (d a : BitVec 5) (rnd : BitVec 2) (s : State) : Host.Outcome State Fault Refusal :=
  slowOp (.fsqrt cu d a rnd) cu 0x1A [a] d (fun s =>
    let r := sqrtRound fp32 (scalarMode rnd) (s.rf a)
    (BitVec.ofNat 32 r.1, r.2, none)) s

/-- s[a] is greater than +0 (R123). -/
def positive (x : FVal) : Bool := FVal.lt (.fin false 0 0) x

/-- FSQRT_CK: as FSQRT, and the flag c becomes 1 unless s[a] is greater than +0 (R123). -/
def execFsqrtCk (cu : Cue) (d a : BitVec 5) (rnd c : BitVec 2) (s : State) : Host.Outcome State Fault Refusal :=
  slowOp (.fsqrtCk cu d a rnd c) cu 0x1A [a] d (fun s =>
    let r := sqrtRound fp32 (scalarMode rnd) (s.rf a)
    (BitVec.ofNat 32 r.1, r.2, some (c, !positive (s.rf a)))) s

/-- FRSQ: the rounded reciprocal root, a slow result (R122). -/
def execFrsq (cu : Cue) (d a : BitVec 5) (rnd : BitVec 2) (s : State) : Host.Outcome State Fault Refusal :=
  slowOp (.frsq cu d a rnd) cu 0x1A [a] d (fun s =>
    let r := rsqrtRound fp32 (scalarMode rnd) (s.rf a)
    (BitVec.ofNat 32 r.1, r.2, none)) s

/-- AADD: a[a] plus the sign-extended s[b] (R129). -/
def execAadd (cu : Cue) (d a b : BitVec 5) (s : State) : Host.Outcome State Fault Refusal :=
  plain (.aadd cu d a b) cu 0x1D [b] (fun s => s.wa d (s.ra a + (s.rs b).signExtend 64)) s

/-- AADDI: a[a] plus the sign-extended immediate (R129). -/
def execAaddi (cu : Cue) (d a : BitVec 5) (imm : BitVec 11) (s : State) : Host.Outcome State Fault Refusal :=
  plain (.aaddi cu d a imm) cu 0x1E [] (fun s => s.wa d (s.ra a + imm.signExtend 64)) s

/-- ASET: s[b] is the high half and s[a] the low half (R129). -/
def execAset (cu : Cue) (d a b : BitVec 5) (s : State) : Host.Outcome State Fault Refusal :=
  plain (.aset cu d a b) cu 0x1F [a, b] (fun s => s.wa d (s.rs b ++ s.rs a)) s

/-- AGET_LO: the low half of a[a] (R129). -/
def execAgetLo (cu : Cue) (d a : BitVec 5) (s : State) : Host.Outcome State Fault Refusal :=
  setsReg (.agetLo cu d a) cu 0x1F [] d (fun s => (s.ra a).setWidth 32) s

/-- AGET_HI: the high half of a[a] (R129). -/
def execAgetHi (cu : Cue) (d a : BitVec 5) (s : State) : Host.Outcome State Fault Refusal :=
  setsReg (.agetHi cu d a) cu 0x1F [] d (fun s => ((s.ra a) >>> 32).setWidth 32) s

end Sys2Proof.Machine
end

