-- ==== Sys2Proof/Machine/Vector.lean ====
section
/-! DEFINITION. The element-wise vector instructions of X: arithmetic, the unary group, logic and shifts, comparison,
selection, scalars in and out, and rearrangement (R156 to R166). -/

namespace Sys2Proof.Machine

open Sys2Proof

/-- An element-wise instruction of two sources: g gives each element of a type from the two codes (R153, R156). -/
def binOp (i : Instr) (cu : Cue) (op : BitVec 7) (legal : VTy → Bool) (d a b : BitVec 5) (t p : BitVec 3)
    (g : VTy → Nat → Nat → Nat × Flags) (s : State) : Host.Outcome State Fault Refusal :=
  vecOp i cu op [] (typeCheck t legal) [a, b] [d] (fun vs s =>
    let ty := s.ty t
    let x := elems ty.w (vs.getD 0 VReg.zero).data ty.count
    let y := elems ty.w (vs.getD 1 VReg.zero).data ty.count
    s.putElems d p ty.w side7F (List.zipWith (g ty) x y)) s

/-- An element-wise instruction of one source (R157). -/
def unOp (i : Instr) (cu : Cue) (legal : VTy → Bool) (d a : BitVec 5) (t p : BitVec 3) (g : VTy → Nat → Nat × Flags)
    (s : State) : Host.Outcome State Fault Refusal :=
  vecOp i cu 0x26 [] (typeCheck t legal) [a] [d] (fun vs s =>
    let ty := s.ty t
    s.putElems d p ty.w side7F ((elems ty.w (vs.getD 0 VReg.zero).data ty.count).map (g ty))) s

/-- An arithmetic element: exact and rounded once for floating-point types, modulo 2^w for integer types (R154, R156). -/
def arith2 (ff : FVal → FVal → FVal × Bool) (fi : Int → Int → Int) (ty : VTy) (a b : Nat) : Nat × Flags :=
  match ty.ieee? with
  | some f => roundOp f .rne (ff (f.decode a) (f.decode b))
  | none => (natOfInt ty.w (fi (ty.int a) (ty.int b)), 0)

/-- a b + d (R121, R156). -/
def arith3 (ty : VTy) (a b d : Nat) : Nat × Flags :=
  match ty.ieee? with
  | some f => roundOp f .rne ((f.decode a).fma (f.decode b) (f.decode d))
  | none => (natOfInt ty.w (ty.int a * ty.int b + ty.int d), 0)

/-- A function of one floating-point element; integer types are never legal here. -/
def float1 (g : Ieee → FVal → Nat × Flags) (ty : VTy) (a : Nat) : Nat × Flags :=
  match ty.ieee? with
  | some f => g f (f.decode a)
  | none => (0, 0)

/-- Clear or set the sign of a floating-point element by h, and NaN gives the produced NaN; integer types apply fi (R157). -/
def signElem (h : Bool → Bool) (fi : Int → Int) (ty : VTy) (a : Nat) : Nat × Flags :=
  match ty.ieee? with
  | some f =>
    if (f.decode a).isNan then (f.nanCode.getD 0, 0)
    else (f.signed (h (a.testBit (ty.w - 1))) (a % 2 ^ (ty.w - 1)), 0)
  | none => (natOfInt ty.w (fi (ty.int a)), 0)

/-- VADD (R156). -/
def execVadd (cu : Cue) (d a b : BitVec 5) (t p : BitVec 3) (s : State) : Host.Outcome State Fault Refusal :=
  binOp (.vadd cu d a b t p) cu 0x20 (fun ty => allTypes.contains ty) d a b t p (arith2 FVal.add (· + ·)) s

/-- VSUB (R156). -/
def execVsub (cu : Cue) (d a b : BitVec 5) (t p : BitVec 3) (s : State) : Host.Outcome State Fault Refusal :=
  binOp (.vsub cu d a b t p) cu 0x21 (fun ty => allTypes.contains ty) d a b t p (arith2 (fun x y => x.add y.neg) (· - ·)) s

/-- VMUL (R156). -/
def execVmul (cu : Cue) (d a b : BitVec 5) (t p : BitVec 3) (s : State) : Host.Outcome State Fault Refusal :=
  binOp (.vmul cu d a b t p) cu 0x22 (fun ty => allTypes.contains ty) d a b t p (arith2 FVal.mul (· * ·)) s

/-- VFMA: a b + d, rounded once (R121, R156). -/
def execVfma (cu : Cue) (d a b : BitVec 5) (t p : BitVec 3) (s : State) : Host.Outcome State Fault Refusal :=
  vecOp (.vfma cu d a b t p) cu 0x23 [] (typeCheck t fun ty => allTypes.contains ty) [a, b] [] (fun vs s =>
    let ty := s.ty t
    let x := elems ty.w (vs.getD 0 VReg.zero).data ty.count
    let y := elems ty.w (vs.getD 1 VReg.zero).data ty.count
    let z := elems ty.w (s.core.live.vreg d).data ty.count
    s.putElems d p ty.w side7F (List.zipWith (fun (f : Nat → Nat × Flags) c => f c) (List.zipWith (arith3 ty) x y) z)) s

/-- VMIN (R98, R156). -/
def execVmin (cu : Cue) (d a b : BitVec 5) (t p : BitVec 3) (s : State) : Host.Outcome State Fault Refusal :=
  binOp (.vmin cu d a b t p) cu 0x24 (fun ty => allTypes.contains ty) d a b t p (arith2 (fun x y => (x.min y, false)) min) s

/-- VMAX (R98, R156). -/
def execVmax (cu : Cue) (d a b : BitVec 5) (t p : BitVec 3) (s : State) : Host.Outcome State Fault Refusal :=
  binOp (.vmax cu d a b t p) cu 0x25 (fun ty => allTypes.contains ty) d a b t p (arith2 (fun x y => (x.max y, false)) max) s

/-- VABS: clears the sign, or wraps the integer magnitude (R157). -/
def execVabs (cu : Cue) (d a : BitVec 5) (t p : BitVec 3) (s : State) : Host.Outcome State Fault Refusal :=
  unOp (.vabs cu d a t p) cu (fun ty => signTypes.contains ty) d a t p (signElem (fun _ => false) (fun x => x.natAbs)) s

/-- VNEG: flips the sign, or negates with wrap (R157). -/
def execVneg (cu : Cue) (d a : BitVec 5) (t p : BitVec 3) (s : State) : Host.Outcome State Fault Refusal :=
  unOp (.vneg cu d a t p) cu (fun ty => signTypes.contains ty) d a t p (signElem (fun g => !g) (fun x => -x)) s

/-- VMOV: copies each enabled element bit for bit, and the sidecar whole (R157). -/
def execVmov (cu : Cue) (d a : BitVec 5) (t p : BitVec 3) (s : State) : Host.Outcome State Fault Refusal :=
  vecOp (.vmov cu d a t p) cu 0x26 [] (typeCheck t fun ty => allTypes.contains ty) [a] [d] (fun vs s =>
    let ty := s.ty t
    let v := vs.getD 0 VReg.zero
    s.putElems d p ty.w v.side ((elems ty.w v.data ty.count).map fun c => (c, 0))) s

/-- VEXP2: 2^a rounded once (R157). -/
def execVexp2 (cu : Cue) (d a : BitVec 5) (t p : BitVec 3) (s : State) : Host.Outcome State Fault Refusal :=
  unOp (.vexp2 cu d a t p) cu (fun ty => floatTypes.contains ty) d a t p (float1 fun f x => exp2Round f .rne x) s

/-- VLOG2: log2 a rounded once (R157). -/
def execVlog2 (cu : Cue) (d a : BitVec 5) (t p : BitVec 3) (s : State) : Host.Outcome State Fault Refusal :=
  unOp (.vlog2 cu d a t p) cu (fun ty => floatTypes.contains ty) d a t p (float1 fun f x => log2Round f .rne x) s

/-- VRCP: 1/a rounded once (R157). -/
def execVrcp (cu : Cue) (d a : BitVec 5) (t p : BitVec 3) (s : State) : Host.Outcome State Fault Refusal :=
  unOp (.vrcp cu d a t p) cu (fun ty => floatTypes.contains ty) d a t p (float1 fun f x => divRound f .rne (.fin false 1 0) x) s

/-- VRSQ: 1/√a rounded once (R122, R157). -/
def execVrsq (cu : Cue) (d a : BitVec 5) (t p : BitVec 3) (s : State) : Host.Outcome State Fault Refusal :=
  unOp (.vrsq cu d a t p) cu (fun ty => floatTypes.contains ty) d a t p (float1 fun f x => rsqrtRound f .rne x) s

/-- VSIG: 1/(1 + e^(-a)) rounded once (R157). -/
def execVsig (cu : Cue) (d a : BitVec 5) (t p : BitVec 3) (s : State) : Host.Outcome State Fault Refusal :=
  unOp (.vsig cu d a t p) cu (fun ty => floatTypes.contains ty) d a t p (float1 fun f x => sigRound f .rne x) s

/-- One bit of a truth table over two words, for every bit (R158, R177). -/
def lutWord {n : Nat} (lut : BitVec 4) (a b : BitVec n) : BitVec n :=
  (if lut.getLsbD 0 then ~~~a &&& ~~~b else 0) ||| (if lut.getLsbD 1 then ~~~a &&& b else 0) |||
    (if lut.getLsbD 2 then a &&& ~~~b else 0) ||| (if lut.getLsbD 3 then a &&& b else 0)

/-- VLOGIC: every result bit is lut[2a + b] (R158). -/
def execVlogic (cu : Cue) (d a b : BitVec 5) (t p : BitVec 3) (lut : BitVec 4) (s : State) :
    Host.Outcome State Fault Refusal :=
  vecOp (.vlogic cu d a b t p lut) cu 0x27 [] (typeCheck t fun ty => intTypes.contains ty) [a, b] [d] (fun vs s =>
    let ty := s.ty t
    s.putCodes d p ty.w
      (elems ty.w (lutWord lut (vs.getD 0 VReg.zero).data (vs.getD 1 VReg.zero).data) ty.count)) s

/-- VSHL: shifts by the unsigned element amount (R115, R158). -/
def execVshl (cu : Cue) (d a b : BitVec 5) (t p : BitVec 3) (s : State) : Host.Outcome State Fault Refusal :=
  binOp (.vshl cu d a b t p) cu 0x28 (fun ty => intTypes.contains ty) d a b t p (fun ty x n => (shlW ty.w x n, 0)) s

/-- VSHR: shifts by the unsigned element amount (R115, R158). -/
def execVshr (cu : Cue) (d a b : BitVec 5) (t p : BitVec 3) (s : State) : Host.Outcome State Fault Refusal :=
  binOp (.vshr cu d a b t p) cu 0x29 (fun ty => intTypes.contains ty) d a b t p (fun ty x n => (shrW ty.w x n, 0)) s

/-- VSRA: shifts by the unsigned element amount (R115, R158). -/
def execVsra (cu : Cue) (d a b : BitVec 5) (t p : BitVec 3) (s : State) : Host.Outcome State Fault Refusal :=
  binOp (.vsra cu d a b t p) cu 0x2A (fun ty => sraTypes.contains ty) d a b t p (fun ty x n => (sraW ty.w x n, 0)) s

/-- The condition code of VCMP on two elements (R159). -/
def vcond (cond : BitVec 3) (ty : VTy) (a b : Nat) : Bool :=
  match ty.ieee? with
  | some f =>
    let x := f.decode a
    let y := f.decode b
    match cond.toNat with
    | 0 => x.eq y
    | 1 => !x.eq y
    | 2 => x.lt y
    | 3 => x.le y
    | 4 => y.lt x
    | 5 => y.le x
    | _ => x.isNan || y.isNan
  | none =>
    let x := ty.int a
    let y := ty.int b
    match cond.toNat with
    | 0 => decide (x = y)
    | 1 => decide (x ≠ y)
    | 2 => decide (x < y)
    | 3 => decide (x ≤ y)
    | 4 => decide (y < x)
    | _ => decide (y ≤ x)

/-- The predicate whose bit i is the i-th of a list of bits. -/
def packBits (bs : List Bool) : BitVec 1024 := BitVec.ofNat 1024 (packNat 1 (bs.map b2n))

/-- VCMP: bit i is 1 when i is enabled and the condition holds (R159). -/
def execVcmp (cu : Cue) (d a b : BitVec 5) (t p cond : BitVec 3) (s : State) : Host.Outcome State Fault Refusal :=
  vecOp (.vcmp cu d a b t p cond) cu 0x2B []
    (typeCheck t fun ty => if cond = 6 then floatTypes.contains ty else allTypes.contains ty) [a, b] [] (fun vs s =>
    let ty := s.ty t
    let x := elems ty.w (vs.getD 0 VReg.zero).data ty.count
    let y := elems ty.w (vs.getD 1 VReg.zero).data ty.count
    s.modLive fun l => l.setPred (d.setWidth 3) (packBits (List.zipWith (vcond cond ty) x y) &&& l.pred p)) s

/-- VSEL: every element, from va where the selector's bit is 1 and from vb elsewhere (R160). -/
def execVsel (cu : Cue) (d a b : BitVec 5) (t p : BitVec 3) (s : State) : Host.Outcome State Fault Refusal :=
  vecOp (.vsel cu d a b t p) cu 0x2C [] (typeCheck t fun ty => allTypes.contains ty) [a, b] [d] (fun vs s =>
    let ty := s.ty t
    let x := elems ty.w (vs.getD 0 VReg.zero).data ty.count
    let y := elems ty.w (vs.getD 1 VReg.zero).data ty.count
    let pred := s.core.live.pred p
    s.putAll d ty.w ((List.zip x y).zipIdx.map fun c => if pred.getLsbD c.2 then c.1.1 else c.1.2)) s

/-- A scalar as an element: bit for bit for f32, rounded from FP32 for bf16 and f16, the low bits for integers (R161). -/
def splatElem (ty : VTy) (v : Word) : Nat × Flags :=
  match ty with
  | .bf16 => bf16.round .rne (fp32.decode v.toNat)
  | .f16 => fp16.round .rne (fp32.decode v.toNat)
  | _ => (v.toNat % 2 ^ ty.w, 0)

/-- VSPLAT: every enabled element receives s[va] (R161). -/
def execVsplat (cu : Cue) (d a : BitVec 5) (t p : BitVec 3) (s : State) : Host.Outcome State Fault Refusal :=
  vecOp (.vsplat cu d a t p) cu 0x2D [a] (typeCheck t fun ty => allTypes.contains ty) [] [d] (fun _ s =>
    let ty := s.ty t
    s.putElems d p ty.w side7F (List.replicate ty.count (splatElem ty (s.rs a)))) s

/-- The index of VEXT, VINS and the amount of VSLIDE: immediate or s[k] (R162, R165). -/
def State.index (s : State) (imm : BitVec 11) (r : Bool) (k : BitVec 5) : Nat := if r then (s.rs k).toNat else imm.toNat

/-- An element as a scalar (R162). -/
def extElem (ty : VTy) (c : Nat) : Word :=
  match ty.ieee? with
  | some f => if ty = .f32 then BitVec.ofNat 32 c else BitVec.ofNat 32 (fp32.round .rne (f.decode c)).1
  | none => BitVec.ofInt 32 (ty.int c)

/-- VEXT: s[vd] receives element n of va, 0 for n at or above E (R162). -/
def execVext (cu : Cue) (d a : BitVec 5) (t : BitVec 3) (imm : BitVec 11) (r : Bool) (k : BitVec 5) (s : State) :
    Host.Outcome State Fault Refusal :=
  vecOp (.vext cu d a t imm r k) cu 0x2E (if r then [d, k] else [d]) (typeCheck t fun ty => allTypes.contains ty) [a] []
    (fun vs s =>
      let ty := s.ty t
      let n := s.index imm r k
      s.ws d (if n < ty.count then extElem ty (elem ty.w (vs.getD 0 VReg.zero).data n) else 0)) s

/-- VINS: element n of vd receives s[va]; every other element and the sidecar stay (R162). -/
def execVins (cu : Cue) (d a : BitVec 5) (t : BitVec 3) (imm : BitVec 11) (r : Bool) (k : BitVec 5) (s : State) :
    Host.Outcome State Fault Refusal :=
  vecOp (.vins cu d a t imm r k) cu 0x2F (if r then [a, k] else [a]) (typeCheck t fun ty => allTypes.contains ty) [] []
    (fun _ s =>
      let ty := s.ty t
      let n := s.index imm r k
      let old := s.core.live.vreg d
      let e := splatElem ty (s.rs a)
      if n < ty.count then
        (s.putReg d ⟨pack ty.w ((elems ty.w old.data ty.count).set n e.1), old.side⟩).orFlags e.2
      else s) s

/-- VIOTA: enabled element i receives s[va] + i s[vb] (R161). -/
def execViota (cu : Cue) (d a b : BitVec 5) (t p : BitVec 3) (s : State) : Host.Outcome State Fault Refusal :=
  vecOp (.viota cu d a b t p) cu 0x30 [a, b] (typeCheck t fun ty => intTypes.contains ty) [] [d] (fun _ s =>
    let ty := s.ty t
    s.putCodes d p ty.w
      ((List.range ty.count).map fun i => ((s.rs a).toNat + i * (s.rs b).toNat) % 2 ^ ty.w)) s

/-- VPERM: vd[i] receives va[n] for n = vb[i], 0 for n at or above E (R163). -/
def execVperm (cu : Cue) (d a b : BitVec 5) (t p : BitVec 3) (s : State) : Host.Outcome State Fault Refusal :=
  vecOp (.vperm cu d a b t p) cu 0x31 [] (typeCheck t fun ty => allTypes.contains ty) [a, b] [d] (fun vs s =>
    let ty := s.ty t
    let x := (vs.getD 0 VReg.zero).data
    s.putCodes d p ty.w ((elems ty.w (vs.getD 1 VReg.zero).data ty.count).map fun n =>
      if n < ty.count then elem ty.w x n else 0)) s

/-- The element that a VSHUF pattern puts at position i of E (R164). -/
def shufElem (pat : BitVec 3) (w e : Nat) (x y : BitVec 4096) (i : Nat) : Nat :=
  match pat.toNat with
  | 0 => if i % 2 = 0 then elem w x (i / 2) else elem w y (i / 2)
  | 1 => if i % 2 = 0 then elem w x (e / 2 + i / 2) else elem w y (e / 2 + i / 2)
  | 2 => if i < e / 2 then elem w x (2 * i) else elem w y (2 * (i - e / 2))
  | 3 => if i < e / 2 then elem w x (2 * i + 1) else elem w y (2 * (i - e / 2) + 1)
  | _ => elem w x (e - 1 - i)

/-- VSHUF: the pattern's result, written under the predicate (R164). -/
def execVshuf (cu : Cue) (d a b : BitVec 5) (t p pat : BitVec 3) (s : State) : Host.Outcome State Fault Refusal :=
  vecOp (.vshuf cu d a b t p pat) cu 0x32 [] (typeCheck t fun ty => allTypes.contains ty)
    (if pat = 4 then [a] else [a, b]) [d] (fun vs s =>
    let ty := s.ty t
    s.putCodes d p ty.w ((List.range ty.count).map
      (shufElem pat ty.w ty.count (vs.getD 0 VReg.zero).data (vs.getD 1 VReg.zero).data))) s

/-- The element that VSLIDE puts at position i (R165). -/
def slideElem (w e n : Nat) (up : Bool) (x y : BitVec 4096) (i : Nat) : Nat :=
  if up then
    if n ≤ i then elem w x (i - n) else if n ≤ e + i then elem w y (e + i - n) else 0
  else
    if i + n < e then elem w x (i + n) else if i + n < 2 * e then elem w y (i + n - e) else 0

/-- VSLIDE: down or up over va and vb (R165). -/
def execVslide (cu : Cue) (d a b : BitVec 5) (t p : BitVec 3) (imm : BitVec 11) (r : Bool) (k : BitVec 5) (up : Bool)
    (s : State) : Host.Outcome State Fault Refusal :=
  vecOp (.vslide cu d a b t p imm r k up) cu 0x33 (if r then [k] else []) (typeCheck t fun ty => allTypes.contains ty)
    [a, b] [d] (fun vs s =>
    let ty := s.ty t
    s.putCodes d p ty.w ((List.range ty.count).map
      (slideElem ty.w ty.count (s.index imm r k) up (vs.getD 0 VReg.zero).data (vs.getD 1 VReg.zero).data))) s

/-- VCMPRS: the enabled elements in ascending order, then zeros (R166). -/
def execVcmprs (cu : Cue) (d a : BitVec 5) (t p : BitVec 3) (s : State) : Host.Outcome State Fault Refusal :=
  vecOp (.vcmprs cu d a t p) cu 0x3F [] (typeCheck t fun ty => allTypes.contains ty) [a] [d] (fun vs s =>
    let ty := s.ty t
    s.putAll d ty.w (enabled (s.core.live.pred p) (elems ty.w (vs.getD 0 VReg.zero).data ty.count))) s

end Sys2Proof.Machine
end

