-- ==== Sys2Proof/Machine/Bank.lean ====
section
/-! DEFINITION. Plain scratchpad access and the bank vector units: `ld.sp`, `st.sp`, the bank commands with their FIFOs, and
their start at a bank (R221 to R228, R299). -/

namespace Sys2Proof.Machine

open Sys2Proof

/-! ### Entering the FIFOs (R299) -/

/-- Every bank of a list has a free slot (R299). -/
def Live.fifoRoom (l : Live) (banks : List Nat) : Bool := banks.all fun j => decide ((l.fifo j).length < Config.bankDepth)

/-- One command enters the FIFO of each bank; `parts` of it are to be performed (R225, R299). -/
def Live.enterBanks (l : Live) (banks : List Nat) (parts : Nat) (c : BankCmd) : Live :=
  let l1 := banks.foldl (fun (x : Live) j => x.setFifo j (x.fifo j ++ [c])) l
  { l1 with bankLeft := l1.bankLeft ++ [(c.seq, parts)] }

/-! ### Plain access (R221) -/

/-- The offset checks of a 512-byte access (R221). TVAL0 of SPADDR is the low half of the access's own offset: DESIGN CHOICE,
log 38. -/
def spCheck (off : DWord) : Option Trap :=
  if off.toNat % 64 ≠ 0 then some ⟨0x12, off.setWidth 32, (off >>> 32).setWidth 32⟩
  else if Config.spBytes - 512 < off.toNat then some ⟨0x16, off.setWidth 32, 0⟩
  else none

/-- LD_SP: loads 512 bytes of the scratchpad into a load queue (R221). The access is performed whole, so an unordered write is
seen in all of its granules in a bank or in none: DESIGN CHOICE, log 1. -/
def execLdSp (cu : Cue) (q base : BitVec 5) (off : BitVec 9) (s : State) : Host.Outcome State Fault Refusal :=
  ({ i := .ldSp cu q base off, cu := cu, op := 0x50,
     body := fun s =>
       let o := s.ra base + (off.signExtend 64) * 512
       match spCheck o with
       | some t => .fault s t
       | none =>
         let l := s.core.live
         if Config.queueDepth ≤ (l.loadQ (queueOf q)).length then .wait (.lqRoom (queueOf q))
         else
           let v : VReg := ⟨BitVec.ofNat 4096 (natOfBytes (l.scratch.read o.toNat 512)), side7F⟩
           .done (s.setLive ((l.reserve (queueOf q) l.seq).fill (queueOf q) ⟨l.seq, true, v, none, none, none⟩)) } : Issue).run s

/-- ST_SP: stores an sq3 entry to the scratchpad through the bank FIFOs (R221, R299). -/
def execStSp (cu : Cue) (base : BitVec 5) (off : BitVec 9) (s : State) : Host.Outcome State Fault Refusal :=
  ({ i := .stSp cu base off, cu := cu, op := 0x51, uses := [base],
     body := fun s =>
       let o := s.rs base + (off.signExtend 32) * 512
       match spCheck (o.setWidth 64) with
       | some t => .fault s t
       | none =>
         let l := s.core.live
         let banks := banksOf o.toNat 512
         match l.storeQ 3 with
         | [] => .wait (.sqEntry 3 1)
         | e :: es =>
           if !l.fifoRoom banks then .wait (.bankRoom banks)
           else .pend (s.setLive ((l.setStoreQ 3 es).enterBanks banks banks.length
             { seq := l.seq, instr := .stSp cu base off, dv := o, av := 0, bv := 0, kv := 0, ridx := 0, data := e.data })) } :
      Issue).run s

/-! ### Bank commands (R222, R223) -/

/-- Elements of a command in one bank (R223). -/
def bankCount (fs ft : BitVec 4) (len : BitVec 11) : Nat := (len.toNat + 1) * (256 / max (fmtW fs) (fmtW ft))

/-- The first bank that a destination value names (R222). -/
def bankFirst (dv : Word) : Nat := dv.toNat / 65536 % 64

/-- A bank-relative offset. -/
def bankOff (v : Word) : Nat := v.toNat % 65536

/-- A register of a bank command: its value, the alignment its offset needs and the length of its range. -/
abbrev BankArg := Word × Nat × Nat

/-- The first SPADDR of a bank command's source registers (R223). -/
def bankSrcCheck : List BankArg → Option Trap
  | [] => none
  | (v, _, n) :: rest => if 65536 ≤ v.toNat ∨ 65536 < bankOff v + n then some ⟨0x16, v, 0⟩ else bankSrcCheck rest

/-- The faults of a bank command on nb banks with destination d and sources srcs (R223). ALIGN comes before SPADDR, and the
registers are checked in the order d, a, b: DESIGN CHOICE, log 38. -/
def bankCheck (nb : Nat) (d : BankArg) (srcs : List BankArg) : Option Trap :=
  match (d :: srcs).find? fun r => bankOff r.1 % r.2.1 ≠ 0 with
  | some r => some ⟨0x12, r.1, 0⟩
  | none =>
    if 2 ^ 22 ≤ d.1.toNat ∨ 64 < bankFirst d.1 + nb ∨ 65536 < bankOff d.1 + d.2.2 then some ⟨0x16, d.1, 0⟩
    else bankSrcCheck srcs

/-- The issue of a bank command: its checks, a slot in every bank's FIFO, and the advance of B_RIDX (R95, R223, R299). -/
def bankOp (i : Instr) (cu : Cue) (op : BitVec 7) (d a b k : BitVec 5) (nb : BitVec 6) (rnd : BitVec 2) (n : Nat)
    (dlen : Nat × Nat) (srcs : State → List BankArg) (s : State) : Host.Outcome State Fault Refusal :=
  ({ i := i, cu := cu, op := op, uses := [d, a, b, k],
     body := fun s =>
       let count := nb.toNat + 1
       match bankCheck count (s.rs d, dlen) (srcs s) with
       | some t => .fault s t
       | none =>
         let l := s.core.live
         let banks := (List.range count).map (bankFirst (s.rs d) + ·)
         if !l.fifoRoom banks then .wait (.bankRoom banks)
         else .pend ((s.setLive (l.enterBanks banks count
             { seq := l.seq, instr := i, dv := s.rs d, av := s.rs a, bv := s.rs b, kv := s.rs k, ridx := l.eb.ridx,
               data := 0 })).advanceRidx rnd (n * count)) } : Issue).run s

/-- A bank command with elements of one format and sources at a and b (R222). -/
def bankBin (i : Instr) (cu : Cue) (op : BitVec 7) (d a b : BitVec 5) (nb : BitVec 6) (ft : BitVec 4) (len : BitVec 11)
    (rnd : BitVec 2) (s : State) : Host.Outcome State Fault Refusal :=
  bankOp i cu op d a b 0 nb rnd (bankCount ft ft len) (32, (len.toNat + 1) * 32)
    (fun s => [(s.rs a, 32, (len.toNat + 1) * 32), (s.rs b, 32, (len.toNat + 1) * 32)]) s

/-- BK_ADD (R222 to R225). -/
def execBkAdd (cu : Cue) (d a b : BitVec 5) (nb : BitVec 6) (ft : BitVec 4) (len : BitVec 11) (rnd : BitVec 2) (s : State) :
    Host.Outcome State Fault Refusal := bankBin (.bkAdd cu d a b nb ft len rnd) cu 0x52 d a b nb ft len rnd s

/-- BK_MUL. -/
def execBkMul (cu : Cue) (d a b : BitVec 5) (nb : BitVec 6) (ft : BitVec 4) (len : BitVec 11) (rnd : BitVec 2) (s : State) :
    Host.Outcome State Fault Refusal := bankBin (.bkMul cu d a b nb ft len rnd) cu 0x53 d a b nb ft len rnd s

/-- BK_FMA. -/
def execBkFma (cu : Cue) (d a b : BitVec 5) (nb : BitVec 6) (ft : BitVec 4) (len : BitVec 11) (rnd : BitVec 2) (s : State) :
    Host.Outcome State Fault Refusal := bankBin (.bkFma cu d a b nb ft len rnd) cu 0x54 d a b nb ft len rnd s

/-- BK_MAX. -/
def execBkMax (cu : Cue) (d a b : BitVec 5) (nb : BitVec 6) (ft : BitVec 4) (len : BitVec 11) (s : State) :
    Host.Outcome State Fault Refusal := bankBin (.bkMax cu d a b nb ft len) cu 0x55 d a b nb ft len 0 s

/-- BK_MIN. -/
def execBkMin (cu : Cue) (d a b : BitVec 5) (nb : BitVec 6) (ft : BitVec 4) (len : BitVec 11) (s : State) :
    Host.Outcome State Fault Refusal := bankBin (.bkMin cu d a b nb ft len) cu 0x56 d a b nb ft len 0 s

/-- BK_SCALE. -/
def execBkScale (cu : Cue) (d a : BitVec 5) (nb : BitVec 6) (ft : BitVec 4) (len : BitVec 11) (rnd : BitVec 2)
    (k : BitVec 5) (s : State) : Host.Outcome State Fault Refusal :=
  bankOp (.bkScale cu d a nb ft len rnd k) cu 0x57 d a 0 k nb rnd (bankCount ft ft len) (32, (len.toNat + 1) * 32)
    (fun s => [(s.rs a, 32, (len.toNat + 1) * 32)]) s

/-- BK_EXPSUM: the sum at b needs an offset that is a multiple of 4 (R223). -/
def execBkExpsum (cu : Cue) (d a b : BitVec 5) (nb : BitVec 6) (ft : BitVec 4) (len : BitVec 11) (rnd : BitVec 2)
    (k : BitVec 5) (o : Bool) (s : State) : Host.Outcome State Fault Refusal :=
  bankOp (.bkExpsum cu d a b nb ft len rnd k o) cu 0x58 d a b k nb rnd (bankCount ft ft len) (32, (len.toNat + 1) * 32)
    (fun s => [(s.rs a, 32, (len.toNat + 1) * 32), (s.rs b, 4, 4)]) s

/-- BK_RED: the result at d needs an offset that is a multiple of 4 (R223). -/
def execBkRed (cu : Cue) (d a : BitVec 5) (nb : BitVec 6) (ft : BitVec 4) (len : BitVec 11) (rnd op : BitVec 2)
    (acc o : Bool) (s : State) : Host.Outcome State Fault Refusal :=
  bankOp (.bkRed cu d a nb ft len rnd op acc o) cu 0x59 d a 0 0 nb rnd (bankCount ft ft len) (4, 4)
    (fun s => [(s.rs a, 32, (len.toNat + 1) * 32)]) s

/-- BK_CVT (R96, R223). -/
def execBkCvt (cu : Cue) (d a : BitVec 5) (nb : BitVec 6) (ft : BitVec 4) (len : BitVec 11) (rnd : BitVec 2)
    (fs : BitVec 4) (s : State) : Host.Outcome State Fault Refusal :=
  bankOp (.bkCvt cu d a nb ft len rnd fs) cu 0x5A d a 0 0 nb rnd (bankCount fs ft len)
    (32, bankCount fs ft len * fmtW ft / 8) (fun s => [(s.rs a, 32, bankCount fs ft len * fmtW fs / 8)]) s

/-- BK_FILL. -/
def execBkFill (cu : Cue) (d : BitVec 5) (nb : BitVec 6) (ft : BitVec 4) (len : BitVec 11) (k : BitVec 5) (s : State) :
    Host.Outcome State Fault Refusal :=
  bankOp (.bkFill cu d nb ft len k) cu 0x5B d 0 0 k nb 0 (bankCount ft ft len) (32, (len.toNat + 1) * 32) (fun _ => []) s

/-- The faults of `bk.copy` with full scratchpad addresses (R223). -/
def copyCheck (d a : Word) (n : Nat) : Option Trap :=
  if d.toNat % 32 ≠ 0 then some ⟨0x12, d, 0⟩
  else if a.toNat % 32 ≠ 0 then some ⟨0x12, a, 0⟩
  else if Config.spBytes < d.toNat + n then some ⟨0x16, d, 0⟩
  else if Config.spBytes < a.toNat + n then some ⟨0x16, a, 0⟩
  else none

/-- BK_COPY: enters one command into the FIFO of every bank that it reads or writes (R223, R299). -/
def execBkCopy (cu : Cue) (d a : BitVec 5) (len : BitVec 11) (s : State) : Host.Outcome State Fault Refusal :=
  ({ i := .bkCopy cu d a len, cu := cu, op := 0x5C, uses := [d, a],
     body := fun s =>
       let n := (len.toNat + 1) * 32
       match copyCheck (s.rs d) (s.rs a) n with
       | some t => .fault s t
       | none =>
         let l := s.core.live
         let banks := copyBanks (s.rs d) (s.rs a) n
         if !l.fifoRoom banks then .wait (.bankRoom banks)
         else .pend (s.setLive (l.enterBanks banks 1
             { seq := l.seq, instr := .bkCopy cu d a len, dv := s.rs d, av := s.rs a, bv := 0, kv := 0, ridx := 0,
               data := 0 })) } : Issue).run s

/-! ### Performing at a bank (R224) -/

/-- Chunk by chunk, compute elements from the source ranges and write them: every read of a chunk precedes its writes, and
a chunk reads after the one before has written (R224). -/
def bankChunks (fs ft : BitVec 4) (len : BitVec 11) (dst : Nat) (srcs : List Nat) (g : Nat → List Nat → Nat)
    (m : Scratch) : Scratch :=
  let e := 256 / max (fmtW fs) (fmtW ft)
  (List.range (len.toNat + 1)).foldl (fun m c =>
    let codes := (List.range e).map fun i => g (c * e + i) (srcs.map fun b => m.elem (fmtW fs) b (c * e + i))
    m.write (dst + c * e * fmtW ft / 8) (bytesOfNat (e * fmtW ft / 8) (packNat (fmtW ft) codes))) m

/-- The element type of a bank command's format. -/
def bankTy (ft : BitVec 4) : VTy := (VTy.ofFmt ft.toNat).getD .f32

/-- A bank command's element of two or three operands (R92, R98, R224). -/
def bankArith (ft : BitVec 4) (mode : Mode) (ff : List FVal → FVal × Bool) (fi : List Int → Int) (xs : List Nat) : Nat :=
  let ty := bankTy ft
  match ty.ieee? with
  | some f => (roundOp f mode (ff (xs.map f.decode))).1
  | none => natOfInt ty.w (fi (xs.map ty.int))

/-- The value of position i of a list. -/
def fv (xs : List FVal) (i : Nat) : FVal := xs.getD i .nan

/-- The integer at position i of a list. -/
def iv (xs : List Int) (i : Nat) : Int := xs.getD i 0

/-- The 32-bit word of a byte store at an address. -/
def Scratch.word (m : Scratch) (a : Nat) : Nat := m.elem 32 a 0

/-- The result of `bk.red` over the codes cs with the old word at the destination; the free counter after (R224). An ordered
sum begins at +0: DESIGN CHOICE, log 38. -/
def redResult (ft : BitVec 4) (op : BitVec 2) (mode : Mode) (acc o : Bool) (free : Nat) (cs : List Nat) (old : Nat) : Nat × Nat :=
  let ty := bankTy ft
  match ty.ieee? with
  | some f =>
    let vs := cs.map f.decode
    let r : FVal × Nat :=
      if op = 0 then let x := sumForm o mode free vs; (fp32.decode x.1, x.2.2)
      else ((extreme (if op = 1 then FVal.max else FVal.min) vs).getD .nan, free)
    let w := fp32.decode old
    let z := if !acc then (r.1, false) else if op = 0 then r.1.add w else if op = 1 then (r.1.max w, false) else (r.1.min w, false)
    ((roundOp fp32 mode z).1, r.2)
  | none =>
    let xs := cs.map ty.int ++ (if acc then [signedOf 32 old] else [])
    (natOfInt 32 (if op = 0 then xs.foldl (· + ·) 0 else (extreme (if op = 1 then max else min) xs).getD 0), free)

/-- What a command does in bank j: the scratchpad and the free counter after (R224). -/
def bankPart (seed : DWord) (c : BankCmd) (j free : Nat) (m : Scratch) : Scratch × Nat :=
  let base := 65536 * j
  let od := base + bankOff c.dv
  let oa := base + bankOff c.av
  let ob := base + bankOff c.bv
  let rel := j - bankFirst c.dv
  let mode := fun (rnd : BitVec 2) (n i : Nat) => modeOf rnd seed c.ridx 3 (rel * n + i)
  match c.instr with
  | .bkAdd _ _ _ _ _ ft len rnd =>
    (bankChunks ft ft len od [oa, ob] (fun i xs => bankArith ft (mode rnd (bankCount ft ft len) i)
      (fun v => (fv v 0).add (fv v 1)) (fun v => iv v 0 + iv v 1) xs) m, free)
  | .bkMul _ _ _ _ _ ft len rnd =>
    (bankChunks ft ft len od [oa, ob] (fun i xs => bankArith ft (mode rnd (bankCount ft ft len) i)
      (fun v => (fv v 0).mul (fv v 1)) (fun v => iv v 0 * iv v 1) xs) m, free)
  | .bkFma _ _ _ _ _ ft len rnd =>
    (bankChunks ft ft len od [oa, ob, od] (fun i xs => bankArith ft (mode rnd (bankCount ft ft len) i)
      (fun v => (fv v 0).fma (fv v 1) (fv v 2)) (fun v => iv v 0 * iv v 1 + iv v 2) xs) m, free)
  | .bkMax _ _ _ _ _ ft len =>
    (bankChunks ft ft len od [oa, ob] (fun _ xs => bankArith ft .rne
      (fun v => ((fv v 0).max (fv v 1), false)) (fun v => max (iv v 0) (iv v 1)) xs) m, free)
  | .bkMin _ _ _ _ _ ft len =>
    (bankChunks ft ft len od [oa, ob] (fun _ xs => bankArith ft .rne
      (fun v => ((fv v 0).min (fv v 1), false)) (fun v => min (iv v 0) (iv v 1)) xs) m, free)
  | .bkScale _ _ _ _ ft len rnd _ =>
    (bankChunks ft ft len od [oa] (fun i xs => bankArith ft (mode rnd (bankCount ft ft len) i)
      (fun v => (fv v 0).mul (fp32.decode c.kv.toNat)) (fun _ => 0) xs) m, free)
  | .bkExpsum _ _ _ _ _ ft len rnd _ o =>
    let f := (bankTy ft).ieee?.getD fp32
    let md := mode rnd 0 0
    let m1 := bankChunks ft ft len od [oa] (fun _ xs =>
      (exp2Round f md ((f.decode (xs.getD 0 0)).add (fp32.decode c.kv.toNat).neg).1).1) m
    let ds := (List.range (bankCount ft ft len)).map fun i => f.decode (m1.elem (fmtW ft) od i)
    let old := fp32.decode (m1.word ob)
    let r := if o then let x := sumOrdered md old 0 ds; (x.1, free)
             else let x := sumTree md 0 free (ds.length + 1) (old :: ds); (x.1, x.2.2)
    (m1.write ob (bytesOfNat 4 (fp32.round .rne r.1).1), r.2)
  | .bkRed _ _ _ _ ft len rnd op acc o =>
    let cs := (List.range (bankCount ft ft len)).map fun i => m.elem (fmtW ft) oa i
    let r := redResult ft op (mode rnd 0 0) acc o free cs (m.word od)
    (m.write od (bytesOfNat 4 r.1), r.2)
  | .bkCvt _ _ _ _ ft len rnd fs =>
    (bankChunks fs ft len od [oa] (fun i xs =>
      (convert ft (mode rnd (bankCount fs ft len) i) (decodeCode fs (xs.getD 0 0))).1) m, free)
  | .bkFill _ _ _ ft len _ =>
    (bankChunks ft ft len od [] (fun _ _ => if ft = 7 then c.kv.toNat % 64 else c.kv.toNat % 2 ^ fmtW ft) m, free)
  | .stSp _ _ _ =>
    let lo := max c.dv.toNat base
    let hi := min (c.dv.toNat + 512) (base + 65536)
    (m.write lo ((bytesOfNat 512 c.data.toNat).drop (lo - c.dv.toNat) |>.take (hi - lo)), free)
  | .bkCopy _ _ _ len =>
    ((List.range (len.toNat + 1)).foldl (fun x k => x.write (c.dv.toNat + 32 * k) (x.read (c.av.toNat + 32 * k) 32)) m, free)
  | _ => (m, free)

/-- One part of instruction seq has been performed; with the last one it completes (R225). -/
def Live.partDone (l : Live) (seq : Nat) : Live :=
  let left := (assoc l.bankLeft seq).getD 0
  if left ≤ 1 then ({ l with bankLeft := assocDel l.bankLeft seq }).retireDone .b seq
  else { l with bankLeft := assocMod l.bankLeft seq fun n => n - 1 }

/-- A command is performed at each bank of a list in turn: its parts, the scratchpad and the free counter after. -/
def performParts (seed : DWord) (c : BankCmd) : List Nat → Scratch × Nat → Scratch × Nat
  | [], m => m
  | j :: js, m => performParts seed c js (bankPart seed c j m.2 m.1)

/-- BANK_COMMAND_START: the command at the head of a bank's FIFO is performed at that bank, and with it at the other macros of the
same group that it writes (R224 to R226, R228, R299). -/
def execBankCommandStart (bank : Nat) (s : State) : Host.Outcome State Fault Refusal :=
  .next (match s.core.live.bankReady bank with
    | none => s
    | some c =>
      let l := s.core.live
      let js := c.parts l bank
      let r := performParts s.seed c js (l.scratch, s.free)
      let l1 := (c.frees l bank).foldl (fun (x : Live) j => x.setFifo j ((x.fifo j).drop 1)) { l with scratch := r.1 }
      ({ s with free := r.2 }).setLive (js.foldl (fun (x : Live) _ => x.partDone c.seq) (l1.wrote (c.writes l bank))))

end Sys2Proof.Machine
end

