-- ==== Sys2Proof/Machine/Aes.lean ====
section
/-! DEFINITION. XTS-AES-256 over a sector of 64 bytes, as the memory encryption uses it (R345): the block cipher of FIPS 197 and the
mode of IEEE 1619, which the spec names and does not repeat (PRESUMED: log 14). Bytes are natural numbers below 256. -/

namespace Sys2Proof.Machine

open Sys2Proof

/-! ### The field of AES -/

/-- Twice a byte in the field of AES. -/
def aesDouble (a : Nat) : Nat := if a < 128 then 2 * a else Nat.xor (2 * a - 256) 0x1B

/-- The product of a and the low n bits of b in the field of AES. -/
def aesMul : Nat → Nat → Nat → Nat
  | 0, _, _ => 0
  | n + 1, a, b => Nat.xor (if b % 2 = 1 then a else 0) (aesMul n (aesDouble a) (b / 2))

/-- The product of two bytes. -/
def aesProd (a b : Nat) : Nat := aesMul 8 a b

/-- The inverse of a byte, its 254th power; 0 for 0. -/
def aesInv (a : Nat) : Nat :=
  let sq := fun (x : Nat) => aesProd x x
  let a2 := sq a
  let a4 := sq a2
  let a8 := sq a4
  let a16 := sq a8
  let a32 := sq a16
  let a64 := sq a32
  let a128 := sq a64
  aesProd a2 (aesProd a4 (aesProd a8 (aesProd a16 (aesProd a32 (aesProd a64 a128)))))

/-- A byte rotated left by k. -/
def rotByte (a k : Nat) : Nat := a * 2 ^ k % 256 + a / 2 ^ (8 - k)

/-- The exclusive or of a list. -/
def xorAll (xs : List Nat) : Nat := xs.foldl Nat.xor 0

/-- The substitution of a byte. -/
def aesSub (a : Nat) : Nat :=
  let b := aesInv a
  xorAll [b, rotByte b 1, rotByte b 2, rotByte b 3, rotByte b 4, 0x63]

/-- The inverse substitution of a byte. -/
def aesUnsub (a : Nat) : Nat := aesInv (xorAll [rotByte a 1, rotByte a 3, rotByte a 6, 0x05])

/-- The exclusive or of two byte strings. -/
def xorBytes (xs ys : List Nat) : List Nat := List.zipWith Nat.xor xs ys

/-! ### The key schedule -/

/-- The substitution of every byte of a word. -/
def aesSubWord (w : List Nat) : List Nat := w.map aesSub

/-- The next eight words of the key schedule. -/
def aesNextWords (rcon : Nat) (ws : List (List Nat)) : List (List Nat) :=
  let w := fun (i : Nat) => ws.getD i []
  let last := w 7
  let x0 := xorBytes (w 0) (xorBytes (aesSubWord (last.drop 1 ++ last.take 1)) [rcon, 0, 0, 0])
  let x1 := xorBytes (w 1) x0
  let x2 := xorBytes (w 2) x1
  let x3 := xorBytes (w 3) x2
  let x4 := xorBytes (w 4) (aesSubWord x3)
  let x5 := xorBytes (w 5) x4
  let x6 := xorBytes (w 6) x5
  [x0, x1, x2, x3, x4, x5, x6, xorBytes (w 7) x6]

/-- The words of n more rounds of the schedule. -/
def aesWords : Nat → Nat → List (List Nat) → List (List Nat)
  | 0, _, ws => ws
  | n + 1, rcon, ws => ws ++ aesWords n (aesDouble rcon) (aesNextWords rcon ws)

/-- The 15 round keys of a 32-byte key. -/
def aesKeys (key : List Nat) : List (List Nat) :=
  let ws := aesWords 7 1 ((List.range 8).map fun i => (key.drop (4 * i)).take 4)
  (List.range 15).map fun r => ((ws.drop (4 * r)).take 4).flatten

/-! ### Blocks -/

/-- The rows of a block shifted by k r positions to the left in row r. -/
def aesShift (k : Nat) (b : List Nat) : List Nat :=
  (List.range 16).map fun i => b.getD (4 * ((i / 4 + k * (i % 4)) % 4) + i % 4) 0

/-- The columns of a block mixed with the coefficients of a row. -/
def aesMix (row : List Nat) (b : List Nat) : List Nat :=
  (List.range 16).map fun i =>
    xorAll ((List.range 4).map fun j => aesProd (row.getD ((j + 4 - i % 4) % 4) 0) (b.getD (4 * (i / 4) + j) 0))

/-- The rounds of an encryption under the round keys that are left. -/
def aesEncRounds (b : List Nat) : List (List Nat) → List Nat
  | [] => b
  | [k] => xorBytes (aesShift 1 (b.map aesSub)) k
  | k :: ks => aesEncRounds (xorBytes (aesMix [2, 3, 1, 1] (aesShift 1 (b.map aesSub))) k) ks

/-- The encryption of a block under 15 round keys. -/
def aesEncrypt (keys : List (List Nat)) (b : List Nat) : List Nat :=
  match keys with
  | [] => b
  | k :: ks => aesEncRounds (xorBytes b k) ks

/-- The rounds of a decryption under the round keys that are left, last first. -/
def aesDecRounds (b : List Nat) : List (List Nat) → List Nat
  | [] => b
  | [k] => xorBytes ((aesShift 3 b).map aesUnsub) k
  | k :: ks => aesDecRounds (aesMix [14, 11, 13, 9] (xorBytes ((aesShift 3 b).map aesUnsub) k)) ks

/-- The decryption of a block under 15 round keys. -/
def aesDecrypt (keys : List (List Nat)) (b : List Nat) : List Nat :=
  match keys.reverse with
  | [] => b
  | k :: ks => aesDecRounds (xorBytes b k) ks

/-! ### The mode -/

/-- A tweak times the primitive element: 16 bytes, the lowest first. -/
def xtsDouble (t : Nat) : Nat := if t < 2 ^ 127 then 2 * t else Nat.xor (2 * t - 2 ^ 128) 0x87

/-- The n lowest bytes of a number, the lowest first. -/
def natBytes (n x : Nat) : List Nat := (List.range n).map fun i => x / 2 ^ (8 * i) % 256

/-- The number of a byte string, the lowest byte first. -/
def bytesNat (bs : List Nat) : Nat := bs.foldr (fun b a => b + 256 * a) 0

/-- The blocks of a data unit, each under its own tweak. -/
def xtsBlocks (f : List Nat → List Nat) (t : Nat) : List (List Nat) → List Nat
  | [] => []
  | b :: bs => xorBytes (f (xorBytes b (natBytes 16 t))) (natBytes 16 t) ++ xtsBlocks f (xtsDouble t) bs

/-- One data unit of 64 bytes under the two keys, the first in the low half, with the number of the sector as the tweak; `enc` says
whether it is encrypted or decrypted (R345). -/
def xtsSector (enc : Bool) (keys : BitVec 512) (sec : Nat) (data : BitVec 512) : BitVec 512 :=
  let k1 := aesKeys (natBytes 32 (keys.toNat % 2 ^ 256))
  let k2 := aesKeys (natBytes 32 (keys.toNat / 2 ^ 256))
  let t := bytesNat (aesEncrypt k2 (natBytes 16 sec))
  BitVec.ofNat 512 (bytesNat (xtsBlocks (if enc then aesEncrypt k1 else aesDecrypt k1) t
    ((List.range 4).map fun i => natBytes 16 (data.toNat / 2 ^ (128 * i)))))

/-- The 64 bytes of a sector read under the keys `rd` when it was written under `wr`: the decryption under the reading keys of the
bytes stored (R345). -/
def rekey (rd wr : BitVec 512) (sec : Nat) (data : BitVec 512) : BitVec 512 :=
  if rd = wr then data else xtsSector false rd sec (xtsSector true wr sec data)

end Sys2Proof.Machine
end

