-- ==== Sys2Proof/Machine/Translate.lean ====
section
/-! DEFINITION. Physical addresses, page-table walks and TLBs, and the checks of a global access page by page (R232, R233,
R241, R256, R277, R337 to R343). -/

namespace Sys2Proof.Machine

open Sys2Proof

/-! ### Cores by number -/

/-- Core n, in focus or parked. -/
def State.coreAt (s : State) (n : Nat) : Core := if s.core.num = n then s.core else (assoc s.parked n).getD (Core.reset n)

/-- Change core n. -/
def State.modCore (s : State) (n : Nat) (f : Core → Core) : State :=
  if s.core.num = n then { s with core := f s.core } else { s with parked := assocSet s.parked n (f (s.coreAt n)) }

/-- Change every core that is not as bring-up leaves it. -/
def State.modCores (s : State) (f : Core → Core) : State :=
  { s with core := f s.core, parked := s.parked.map fun c => (c.1, f c.2) }

/-- Every core that is not as bring-up leaves it. -/
def State.allCores (s : State) : List Core := s.core :: s.parked.map (·.2)

/-- The cluster of a logical core (R11). -/
def clusterOf (n : Nat) : Nat := n / 8

/-- The die of a logical core (R11). -/
def dieOf (n : Nat) : Nat := n / 40

/-! ### Physical addresses (R233) -/

/-- SPACE, PEER, OPC and OFFSET of a physical address, and the bits of SPACE 2. -/
def paSpace (pa : BitVec 52) : Nat := pa.toNat / 2 ^ 50
def paPeer (pa : BitVec 52) : Nat := pa.toNat / 2 ^ 44 % 64
def paOpc (pa : BitVec 52) : Nat := pa.toNat / 2 ^ 40 % 8
def paOff (pa : BitVec 52) : Nat := pa.toNat % 2 ^ 40
def paHost (pa : BitVec 52) : Nat := pa.toNat % 2 ^ 50

/-- Bit 43 and, in SPACE 0, PEER are zero (R233). -/
def paFormed (pa : BitVec 52) : Bool :=
  paSpace pa == 2 || (pa.toNat / 2 ^ 43 % 2 == 0 && (paSpace pa != 0 || paPeer pa == 0))

/-- The address lies in this module's stacked memory: SPACE 0, or SPACE 1 with the module's own index (R233). -/
def Ctx.isLocal (c : Ctx) (pa : BitVec 52) : Bool := paSpace pa == 0 || (paSpace pa == 1 && paPeer pa == c.self)

/-! ### Walks (R337 to R339) -/

/-- The 8 bytes at an address of stacked memory (R337). -/
def State.entry (s : State) (a : Nat) : Nat := natOfBytes (Sparse.read 0 s.mem a 8)

/-- A key is bound to a context (R345). -/
def State.keyBound (s : State) (key ctx : Nat) : Bool :=
  match assoc s.keys key with
  | some k => k.bound && k.mask.getLsbD ctx
  | none => false

/-- The index of a level in a virtual address (R337). -/
def walkIndex (va level : Nat) : Nat := va / 2 ^ (48 - 9 * level) % 512

/-- The leaf of a walk as a translation; none where R339 refuses it. -/
def State.leaf (s : State) (ctx va e level : Nat) : Option Trans :=
  let pa := e / 2 ^ 12 % 2 ^ 40 * 2 ^ 12
  let group := e.testBit 5
  let size := if level = 2 then 2 ^ 30 else if level = 3 then 2 ^ 21 else if group then 2 ^ 16 else 2 ^ 12
  let sm := e / 64 % 4
  let key := e / 2 ^ 52 % 256
  let space := pa / 2 ^ 50
  if level < 2 || (group && level != 4) || sm == 3 || (e.testBit 2 && !e.testBit 1) || pa % size != 0 || space == 3 ||
      (space == 2 && key != 0) || (space != 2 && !s.keyBound key ctx) then none
  else some { ctx := ctx, va := va / size * size, size := size, pa := pa, r := e.testBit 1, w := e.testBit 2,
              cow := e.testBit 3, sm := BitVec.ofNat 2 sm, key := BitVec.ofNat 8 key, group := group }

/-- A walk from the table at t, level by level (R337, R339). -/
def State.walkFrom (s : State) (ctx va t level : Nat) : Nat → Option Trans
  | 0 => none
  | n + 1 =>
    let e := s.entry (t + 8 * walkIndex va level)
    if !e.testBit 0 || e / 256 % 16 != 0 || e / 2 ^ 60 != 0 then none
    else if e.testBit 4 then s.leaf ctx va e level
    else if level = 4 || e / 2 % 8 != 0 || e / 32 % 8 != 0 || e / 2 ^ 52 % 256 != 0 then none
    else
      let next := e / 2 ^ 12 % 2 ^ 40 * 2 ^ 12
      if next / 2 ^ 40 != 0 then none else s.walkFrom ctx va next (level + 1) n

/-- A walk of a context's tables for a virtual address of 56 bits (R337, R339). -/
def State.walk (s : State) (ctx va : Nat) : Option Trans :=
  match s.ctxAt ctx with
  | some c => s.walkFrom ctx va c.ttb.toNat 0 5
  | none => none

/-- A translation covers a virtual address of a context. -/
def Trans.covers (t : Trans) (ctx va : Nat) : Bool := t.ctx == ctx && decide (t.va ≤ va) && decide (va < t.va + t.size)

/-- The translation that core n uses: its TLB's, its cluster's, or a walk's (R341). -/
def State.translate (s : State) (n ctx va : Nat) : Option Trans :=
  match (s.coreAt n).tlb.find? fun t => t.covers ctx va with
  | some t => some t
  | none =>
    match s.clusTlb.find? fun t => t.1 == clusterOf n && t.2.covers ctx va with
    | some t => some t.2
    | none => s.walk ctx va

/-- The first n translations of cluster k of a list, and those of the other clusters. -/
def keepCluster (k n : Nat) : List (Nat × Trans) → List (Nat × Trans)
  | [] => []
  | x :: xs =>
    if x.1 = k then
      match n with
      | 0 => keepCluster k 0 xs
      | m + 1 => x :: keepCluster k m xs
    else x :: keepCluster k n xs

/-- Count an event of core n (R389). -/
def State.bumpOn (s : State) (n i : Nat) : State :=
  s.modCore n fun c => { c with pmc := vset c.pmc i (vget c.pmc i 0 + 1) }

/-- A walk's result fills the TLBs of core n, of 64 entries, and of its cluster, of 2,048; the core counts its miss, and the walk that
a miss in both starts (R341, R389). -/
def State.fillTlb (s : State) (n : Nat) (t : Trans) : State :=
  if (s.coreAt n).tlb.contains t then s
  else
    let known := s.clusTlb.contains (clusterOf n, t)
    let s1 := if known then s.bumpOn n 4 else (s.bumpOn n 4).bumpOn n 5
    ({ s1 with clusTlb := if known then s.clusTlb
                          else keepCluster (clusterOf n) 2048 ((clusterOf n, t) :: s.clusTlb) }).modCore n fun c =>
      { c with tlb := (t :: c.tlb).take 64 }

/-! ### Protected regions at a physical page (R253, R256, R353) -/

/-- The protected region that holds a physical page: its context, entry number, entry, and the page's place in it. -/
def State.regionAt (s : State) (page : Nat) : Option (Nat × Nat × Prot × Nat) :=
  s.ctxs.findSome? fun c => c.2.prot.findSome? fun p =>
    if p.2.rgn.contains page then some (c.1, p.1, p.2, p.2.rgn.idxOf page) else none

/-- Pages of every area of every entry in use (R352, R353). -/
def State.guarded (s : State) : List Nat := s.ctxs.flatMap fun c => c.2.prot.flatMap fun p => p.2.rgn ++ p.2.und ++ p.2.par

/-- The group's STATE on this member is OPEN; a group that is not configured has no round (R254, R256). -/
def State.groupOpen (s : State) (ctx grp : Nat) : Bool :=
  match (s.ctxAt ctx).bind fun c => assoc c.groups grp with
  | some g => decide (g.st = .open_)
  | none => true

/-- The protection of a PAIRED region refuses a write to a page (R256): the current half, and both from prep until OPEN. -/
def State.pairRefuses (s : State) (page : Nat) : Bool :=
  match s.regionAt page with
  | some (c, _, p, i) => p.paired && (!s.groupOpen c p.cg || (decide (p.rgn.length ≤ 2 * i) == p.cur))
  | none => false

/-! ### The checks of an access (R241, R277) -/

/-- What the checks need to know of an instruction: whether it writes, refuses alias addresses, host memory below a scope,
and peers unless its scope is `.grp` (R241 checks 4 and 5, R277). -/
structure Want where
  write : Bool
  noAlias : Bool := false
  noHost : Bool := false
  noPeer : Bool := false
  /-- Who waits for a copy-on-write resolution (R340): an instruction of A, copy channel who − 1, or from 16 on a collective, a launch
  or a source of records that the hub writes for. -/
  who : Nat := 0
deriving DecidableEq, Repr

/-- The result of the checks of one page. -/
inductive Chk
  | ok (p : Piece) (t : Trans)
  /-- A fault, with the translation found, if any. -/
  | trap (t : Trap) (tr : Option Trans)
  | cow (page : DWord) (tr : Trans)
deriving DecidableEq, Repr

/-- A fault with a virtual address (R199). -/
def vaTrap (code : Nat) (va : DWord) : Trap := ⟨code, va.setWidth 32, (va >>> 32).setWidth 32⟩

/-- Check 5 refuses a physical address (R241, R277). -/
def Ctx.refuses (c : Ctx) (w : Want) (pa : BitVec 52) : Bool :=
  paSpace pa == 3 || !paFormed pa || (paSpace pa == 1 && decide (c.fabric.length ≤ paPeer pa)) ||
    (w.noAlias && paSpace pa != 2 && paOpc pa != 0) || (w.noHost && paSpace pa == 2) || (w.noPeer && paSpace pa == 1)

/-- The number under which an access of core k waits for a copy-on-write resolution (R340). -/
def Want.waiter (w : Want) (k : Nat) : Nat := 16 * k + w.who

/-- Checks 1 and 3 to 5 of n bytes at va, which lie on one 4 KiB page, for core k acting in a context (R241, R340, R342). -/
def State.checkPage (s : State) (k ctx : Nat) (w : Want) (va : DWord) (n off : Nat) : Chk :=
  if va.toNat / 2 ^ 56 != 0 then .trap (vaTrap 0x13 va) none
  else match s.ctxAt ctx, s.translate k ctx va.toNat with
    | some c, some t =>
      let pa := BitVec.ofNat 52 (t.pa + (va.toNat - t.va))
      let page := va.toNat / 4096 * 4096
      if w.write && !t.w && t.cow && !c.cowRefused.contains (BitVec.ofNat 64 page, w.waiter k) then .cow (BitVec.ofNat 64 page) t
      else if (if w.write then !t.w || (c.isLocal pa && s.pairRefuses (paOff pa / 4096)) else !t.r) then
        .trap (vaTrap 0x11 va) (some t)
      else if c.refuses w pa then .trap (vaTrap 0x13 va) (some t)
      else .ok ⟨va, pa, n, off, if paSpace pa = 2 then 0 else t.sm, t.key⟩ t
    | _, _ => .trap (vaTrap 0x10 va) none

/-- The runs of n bytes at va on each 4 KiB page: address, length, position (R342). -/
def pageRuns (va : DWord) (n : Nat) : List (DWord × Nat × Nat) :=
  let k := min n (4096 - va.toNat % 4096)
  if k < n then [(va, k, 0), (va + BitVec.ofNat 64 k, n - k, k)] else [(va, n, 0)]

/-- The result of the checks of an instruction: its pieces with the translations used, the first fault, or a page whose
copy-on-write resolution it needs. -/
inductive Checked
  | ok (ps : List Piece) (ts : List Trans)
  | trap (t : Trap) (ts : List Trans)
  | cow (page : DWord) (ts : List Trans)
deriving DecidableEq, Repr

/-- What follows a page whose checks passed. -/
def Checked.after (p : Piece) (t : Trans) (r : Checked) : Checked :=
  match r with
  | .ok ps ts => .ok (p :: ps) (t :: ts)
  | .trap x ts => .trap x (t :: ts)
  | .cow x ts => .cow x (t :: ts)

/-- Check runs in order (R241): the first failure is the one reported. -/
def State.checkRuns (s : State) (k ctx : Nat) (w : Want) : List (DWord × Nat × Nat) → Checked
  | [] => .ok [] []
  | (va, n, off) :: rest =>
    match s.checkPage k ctx w va n off with
    | .trap t tr => .trap t tr.toList
    | .cow p t => .cow p [t]
    | .ok p t => (s.checkRuns k ctx w rest).after p t

/-- The checks of n bytes at va with an alignment (R241). -/
def State.checkRange (s : State) (k ctx : Nat) (w : Want) (va : DWord) (n align : Nat) : Checked :=
  if va.toNat / 2 ^ 56 = 0 && va.toNat % align != 0 then .trap (vaTrap 0x12 va) []
  else s.checkRuns k ctx w (pageRuns va n)

/-- The checks of the elements of an indexed instruction, in order: position and address of each (R241, R243). -/
def State.checkElems (s : State) (k ctx : Nat) (w : Want) (es : Nat) : List (Nat × DWord) → Checked
  | [] => .ok [] []
  | (off, va) :: rest =>
    if va.toNat / 2 ^ 56 = 0 && va.toNat % es != 0 then .trap (vaTrap 0x12 va) []
    else match s.checkPage k ctx w va es off with
      | .trap t tr => .trap t tr.toList
      | .cow p t => .cow p [t]
      | .ok p t => (s.checkElems k ctx w es rest).after p t

/-- A write asks for the resolution of a copy-on-write page, or joins it (R340). -/
def State.askCow (s : State) (ctx : Nat) (page : DWord) (who : Nat) : State :=
  s.modCtx ctx fun c => { c with cowAsked := if c.cowAsked.contains (page, who) then c.cowAsked else c.cowAsked ++ [(page, who)] }

/-- An access is abandoned: no resolution is asked for it any more, and none is refused to it (R340). -/
def State.forgetAsks (s : State) (ctx who : Nat) : State :=
  s.modCtx ctx fun c => { c with cowAsked := c.cowAsked.filter fun x => x.2 != who, cowRefused := c.cowRefused.filter fun x => x.2 != who }

/-- The number of the hub as a reader of page tables: no core, and no TLB. -/
def hubCore : Nat := Config.cores

/-- Who writes in the hub: collective n (0), the completion of launch n (1), the source of records n (2). -/
def hubWho (kind n : Nat) : Nat := 16 + 3 * n + kind

/-- The waiter of a write of the hub (R340). -/
def hubWaiter (kind n : Nat) : Nat := 16 * hubCore + hubWho kind n

/-- The refusal of a page has been seen by an access that raises PERM for it: later writes of its agent ask anew (R340). -/
def State.seeRefusal (s : State) (ctx : Nat) (va : DWord) (who : Nat) : State :=
  let page := BitVec.ofNat 64 (va.toNat / 4096 * 4096)
  s.modCtx ctx fun c => { c with cowRefused := c.cowRefused.filter (· != (page, who)) }

/-- Core n has used translations (R341). -/
def State.fillTlbs (s : State) (n : Nat) (ts : List Trans) : State := ts.foldl (fun s t => s.fillTlb n t) s

/-- Core n has looked for a translation that does not exist: it counts its miss and the walk (R341, R389). -/
def State.missed (s : State) (n : Nat) (t : Trap) : State := if t.code = 0x10 then (s.bumpOn n 4).bumpOn n 5 else s

/-- A check has failed: a refused resolution has been seen (R340). -/
def State.seeTrap (s : State) (ctx : Nat) (t : Trap) (who : Nat) : State :=
  if t.code = 0x11 then s.seeRefusal ctx (t.tv1 ++ t.tv0) who else s

end Sys2Proof.Machine
end

