-- ==== Sys2Proof/Machine/Home.lean ====
section
/-! DEFINITION. The home of a byte: agents and holds, sectors with their keys, scales and poison, waiting writes, undo
records and deferred writes, and the operations that a home performs (R235 to R240, R245, R252 to R257, R260 to R271, R345). -/

namespace Sys2Proof.Machine

open Sys2Proof

/-! ### Agents, scopes and holds (R262 to R271) -/

/-- The number under which a peer of a context counts as a module: its fabric address and 1, so that a module has one identity in
every context and an understudy has its own (R262, R344); this module is 0. -/
def State.peerModule (s : State) (ctx peer : Nat) : Nat :=
  match s.ctxAt ctx with
  | some c => c.fabric.getD peer 0 + 1
  | none => 1

/-- The number under which the generations of a peer's core are kept. -/
def peerKey (m n : Nat) : Nat := 256 * m + n

/-- The module of an agent. -/
def Agent.module (a : Agent) : Nat :=
  match a with
  | .core m _ => m
  | .collective m => m
  | .host m => m

/-- The narrowest common scope of two agents: 0 `.core`, 1 `.clus`, 2 `.die`, 3 `.chip`, 4 `.grp` (R263). -/
def commonScope (a b : Agent) : Nat :=
  if a = b then 0
  else if a.module ≠ b.module then 4
  else match a, b with
    | .core _ x, .core _ y => if clusterOf x = clusterOf y then 1 else if dieOf x = dieOf y then 2 else 3
    | _, _ => 3

/-- The generations of an agent for .clus, .die, .chip, .grp as the homes of this module apply them (R267, R268). -/
def State.gensOf (s : State) (a : Agent) : List DWord :=
  match a with
  | .core 0 n => (s.coreAt n).gens.toList
  | .collective 0 => s.colGens.toList
  | .host _ => [0, 0, s.host.genChip, s.host.genGrp]
  | .core m n => (assoc s.peerGens (peerKey m n)).getD [0, 0, 0, 0]
  | .collective m => (assoc s.peerGens (peerKey m 255)).getD [0, 0, 0, 0]

/-- The generation for scope k of a list of four. -/
def genAt (gs : List DWord) (k : Nat) : DWord := gs.getD (k - 1) 0

/-- An access by agent a conflicts with a hold (R269). -/
def State.conflicts (s : State) (a : Agent) (h : Hold) : Bool :=
  if a = h.who then false
  else
    let k := commonScope a h.who
    k == 0 || decide ((genAt (s.gensOf h.who) k).toNat ≤ (genAt h.gens k).toNat)

/-- The granules that n bytes from address a touch (R266). -/
def granules (a n : Nat) : List Nat := (List.range ((a % 16 + n + 15) / 16)).map (a / 16 + ·)

/-- The first granule of n bytes at a whose hold conflicts with an access by agent g (R269). -/
def State.conflictIn (s : State) (hs : Sparse Hold) (g : Agent) (a n : Nat) : Option Nat :=
  (granules a n).find? fun k => match assoc hs k with
    | some h => s.conflicts g h
    | none => false

/-- Place a hold of agent g on the granules of a list (R266). -/
def placeHolds (h : Hold) (hs : Sparse Hold) (ks : List Nat) : Sparse Hold := ks.foldl (fun m k => assocSet m k h) hs

/-- The hold that agent g places now for a context (R266). -/
def State.holdOf (s : State) (g : Agent) (ctx : Nat) : Hold := ⟨g, ctx, s.gensOf g⟩

/-! ### Sectors (R239, R260, R345) -/

/-- The bytes of a sector as they were written. -/
def State.sectorRaw (s : State) (sec : Nat) : BitVec 512 := BitVec.ofNat 512 (natOfBytes (Sparse.read 0 s.mem (64 * sec) 64))

/-- The key material of a key index (R345). -/
def State.material (s : State) (key : Byte) : BitVec 512 :=
  match assoc s.keys key.toNat with
  | some k => k.keys
  | none => 0

/-- The deferred contents of a sector (R257). -/
def State.deferredAt (s : State) (sec : Nat) : Option UndoRec :=
  s.ctxs.findSome? fun c => c.2.prot.findSome? fun p => p.2.deferred.find? fun r => r.sector == sec

/-- Data of a sector read under a key, when the key index and material of a list wrote them; what nothing has written reads
alike under every key (R345, log 14). -/
def State.underKey (s : State) (key : Byte) (wr : Option (Byte × BitVec 512)) (sec : Nat) (data : BitVec 512) : BitVec 512 :=
  match wr with
  | some (_, m) => rekey (s.material key) m sec data
  | none => data

/-- The bytes of a sector read under a key: those held for it, or those written (R257, R345). -/
def State.sectorRead (s : State) (sec : Nat) (key : Byte) : BitVec 512 :=
  match s.deferredAt sec with
  | some r => s.underKey key r.key sec r.data
  | none => s.underKey key (assoc s.secKey sec) sec (s.sectorRaw sec)

/-- The scales of a sector: S0 low, S1 high (R239). -/
def State.scalesOf (s : State) (sec : Nat) : BitVec 16 :=
  match s.deferredAt sec with
  | some r => r.scales
  | none => Sparse.get 0x7F7F s.secScale sec

/-- n bytes at an address, read under a key. -/
def State.homeBytes (s : State) (key : Byte) (a n : Nat) : List Byte :=
  let secs := (List.range ((a % 64 + n + 63) / 64)).map (a / 64 + ·)
  ((secs.flatMap fun k => bytesOfNat 64 (s.sectorRead k key).toNat).drop (a % 64)).take n

/-- The sectors that n bytes at a touch. -/
def sectorsOf (a n : Nat) : List Nat := (List.range ((a % 64 + n + 63) / 64)).map (a / 64 + ·)

/-- A sector reads as poisoned: what is held for it is, or it is itself (R257, R260). -/
def State.poisoned (s : State) (sec : Nat) : Bool :=
  match s.deferredAt sec with
  | some r => r.bad
  | none => s.poison.contains sec

/-- The first poisoned sector of n bytes at a (R260). -/
def State.poisonIn (s : State) (a n : Nat) : Option Nat := (sectorsOf a n).find? fun k => s.poisoned k

/-- A waiting write covers one of n bytes at a (R256). -/
def State.waitingOn (s : State) (a n : Nat) : Bool :=
  s.ctxs.any fun c => c.2.waiting.any fun w =>
    match w.act with
    | .write mask _ => mask.zipIdx.any fun b => b.1.isSome && decide (a ≤ 64 * w.sector + b.2) && decide (64 * w.sector + b.2 < a + n)
    | .rmw k _ _ _ _ => overlaps (64 * w.sector + 4 * k) 4 a n
    | .poison => overlaps (64 * w.sector) 64 a n
where
  overlaps (a n b m : Nat) : Bool := decide (a < b + m) && decide (b < a + n)

/-- A write of a context waits at a sector. -/
def State.lateAt (s : State) (ctx sec : Nat) : Bool :=
  match s.ctxAt ctx with
  | some c => c.waiting.any fun w => w.sector == sec
  | none => false

/-- The group that keeps writes to a sector waiting: its region's group while it is not OPEN, or while a write that waited there is
still to be performed (R256). -/
def State.closedAt (s : State) (sec : Nat) : Option (Nat × Nat) :=
  match s.regionAt (sec / 64) with
  | some (c, _, p, _) => if s.groupOpen c p.cg && !s.lateAt c sec then none else some (c, p.cg)
  | none => none

/-! ### Caches (R236 to R238)

No architectural value depends on them: they hold line addresses, replacement values and dirty marks, which the performance events
count (R389). -/

/-- The victim way of a set whose ways are full: the lowest with RRPV 3 after raising every RRPV as often as needed. -/
def cacheVictim (ls : List CLine) : Nat → List CLine × Option Nat
  | 0 => (ls, none)
  | n + 1 =>
    match (List.range 16).find? fun w => ls.any fun l => l.way == w && l.rrpv == 3 with
    | some w => (ls, some w)
    | none => cacheVictim (ls.map fun l => { l with rrpv := l.rrpv + 1 }) n

/-- An access to a line of a cache of 16 ways, whose sets are the lines with one value of `set`: a hit sets the RRPV to 0, and a miss
fills the line with hint h (R237). -/
def cacheTouch {α : Type} [DecidableEq α] (set : Nat → α) (ls : List CLine) (line h : Nat) (dirty : Bool) : List CLine :=
  if ls.any fun l => l.line == line then
    ls.map fun l => if l.line = line then { l with rrpv := 0, dirty := l.dirty || dirty } else l
  else
    let mine := ls.filter fun l => decide (set l.line = set line)
    let rest := ls.filter fun l => !decide (set l.line = set line)
    match (List.range 16).find? fun w => !(mine.any fun l => l.way == w) with
    | some w => rest ++ mine ++ [⟨line, w, h, dirty⟩]
    | none =>
      let r := cacheVictim mine 4
      match r.2 with
      | some w => rest ++ (r.1.filter fun l => l.way != w) ++ [⟨line, w, h, dirty⟩]
      | none => ls

/-- A read of a line through an L1 of 256 sets with hint h (R236, R237). DESIGN CHOICE, log 3: the set of a line is its number modulo
256, as the spec does not say how a line finds its set. -/
def l1Read (ls : List CLine) (line : Nat) (h : Nat) : List CLine := cacheTouch (· % 256) ls line h false

/-- A store of core n that finds its line in the core's L1 hits it (R236, R237). DESIGN CHOICE, log 3: the counter of L1 hits counts the
lines of loads only, as that of L1 misses does. -/
def State.l1Hit (s : State) (g : Agent) (line : Nat) : State :=
  match g with
  | .core 0 n =>
    if (s.coreAt n).l1.any fun l => l.line == line then
      s.modCore n fun c => { c with l1 := c.l1.map fun l => if l.line = line then { l with rrpv := 0 } else l }
    else s
  | _ => s

/-- The set of a line in the memory-side cache: its stack, and one of the 393,216 sets that 384 MiB in 16 ways make (R1, R238).
DESIGN CHOICE, log 3: the spec does not say how a line finds its set. -/
def memSet (line : Nat) : Nat × Nat := (line / 2 ^ 30, line % 2 ^ 30 % 393216)

/-- The cores of a cluster whose L1 holds a line: its hub's directory (R238). -/
def State.hubDirectory (s : State) (cluster line : Nat) : List Nat :=
  (s.allCores.filter fun c => clusterOf c.num == cluster && c.l1.any fun l => l.line == line).map (·.num)

/-- The clusters whose hub directory knows a line: the record of the line's home (R238). -/
def State.homeDirectory (s : State) (line : Nat) : List Nat :=
  ((s.allCores.filter fun c => c.l1.any fun l => l.line == line).map fun c => clusterOf c.num).eraseDups

/-- Every L1 that the directories name, but that of agent g, loses a line (R238, R265). -/
def State.invalidateL1 (s : State) (g : Option Agent) (sec : Nat) : State :=
  s.modCores fun c =>
    if g = some (.core 0 c.num) then c else { c with l1 := c.l1.filter fun l => l.line != sec }

/-- An agent's access reaches the memory-side cache at the line's home: a core counts it as a hit or a miss (R237, R238, R389). -/
def State.seeHome (s : State) (g : Agent) (line h : Nat) (dirty : Bool) : State :=
  let s1 := match g with
    | .core 0 n => s.bumpOn n (if s.l2.any fun l => l.line == line then 2 else 3)
    | _ => s
  { s1 with l2 := cacheTouch memSet s1.l2 line h dirty }

/-- The focused core as an agent (R262). -/
def State.me (s : State) : Agent := .core 0 s.core.num

/-- A read of a line through the L1 of the focused core: a miss fills it from the line's home (R236, R237). -/
def State.l1Line (s : State) (line h : Nat) : State :=
  let hit := s.core.l1.any fun l => l.line == line
  let s1 := (s.bumpOn s.core.num (if hit then 0 else 1))
  let s2 := { s1 with core := { s1.core with l1 := l1Read s1.core.l1 line h } }
  if hit then s2 else s2.seeHome s2.me line h false

/-- Lines of this module are read by the focused core: through its L1 for a plain SPACE 0 address, else at their homes (R236). -/
def State.l1Reads (s : State) (pa : BitVec 52) (n : Nat) (hint : BitVec 2) : State :=
  (sectorsOf (paOff pa) n).foldl (fun s k =>
    if paSpace pa = 0 && paOpc pa = 0 then s.l1Line k hint.toNat else s.seeHome s.me k hint.toNat false) s

/-- Lines of this module are read at their homes by an agent without a hint (R237). -/
def State.homeReads (s : State) (g : Agent) (a n : Nat) : State := (sectorsOf a n).foldl (fun s k => s.seeHome g k 2 false) s

/-! ### Writing a sector -/

/-- A sector with some of its bytes replaced. -/
def maskBytes (old : List Byte) (mask : List (Option Byte)) : List Byte :=
  List.zipWith (fun o m => m.getD o) old mask

/-- Every byte of a sector is written. -/
def maskWhole (mask : List (Option Byte)) : Bool := mask.all Option.isSome

/-- Capacity of an undo area in records (R257). -/
def Prot.capacity (p : Prot) : Nat := p.und.length * 32

/-- Change the protected-region entry d of a context. -/
def State.modProt (s : State) (ctx d : Nat) (f : Prot → Prot) : State :=
  s.modCtx ctx fun c => { c with prot := assocMod c.prot d f }

/-- What becomes of a first write to a sector of an UNDO region (R253, R257). -/
inductive UndoCase
  | plain
  | record
  | full
  | defer
deriving DecidableEq, Repr

/-- Sectors in the deferral buffer of a stack (R257). -/
def State.deferredIn (s : State) (stack : Nat) : Nat :=
  (s.ctxs.flatMap fun c => c.2.prot.flatMap fun p => p.2.deferred.filter fun r => r.sector / 2 ^ 30 == stack).length

/-- The case of a write to a sector of entry p (R253, R257). -/
def State.undoCase (s : State) (p : Prot) (sec : Nat) : UndoCase :=
  if p.paired || p.bare.contains sec || p.undo.any (fun r => r.sector == sec) then .plain
  else if p.deferred.any (fun r => r.sector == sec) then .defer
  else if p.ucnt < p.capacity then .record
  else if p.stall && decide (s.deferredIn (sec / 2 ^ 30) < 4096) then .defer
  else .full

/-- An in-base operation acts on a sector: no cache holds it, and no hold stays on it (R252, R266). -/
def State.inBase (s : State) (sec : Nat) : State :=
  let s1 := s.invalidateL1 none sec
  { s1 with l2 := s1.l2.filter fun l => l.line != sec,
            holds := s1.holds.filter fun h => h.1 / 4 != sec }

/-- A sector takes free bytes and scales (R239, R253, R255). -/
def State.spoil (s : State) (sec : Nat) : State :=
  let r := s.draw
  let bs := (List.range 66).map fun i => Config.freeByte r.1 (66 * sec + i)
  { r.2 with mem := Sparse.write 0 r.2.mem (64 * sec) (bs.take 64),
             secScale := Sparse.set 0x7F7F r.2.secScale sec (BitVec.ofNat 16 (natOfBytes (bs.drop 64))),
             secKey := match assoc r.2.secKey sec with
               | some k => assocSet r.2.secKey sec k
               | none => assocSet r.2.secKey sec (0, r.2.material 0) }

/-- Sector k of an area of pages. -/
def areaSector (pages : List Nat) (k : Nat) : Nat := 64 * pages.getD (k / 64) 0 + k % 64

/-- A sector of the undo area is written in base. The spec gives an undo record no layout, so its bytes are free (R253, log 16). -/
def State.undoBytes (s : State) (p : Prot) (k : Nat) : State := (s.spoil (areaSector p.und k)).inBase (areaSector p.und k)

/-- Make the undo record of a sector's old contents, an in-base copy into the undo area, with the pressure report (R252, R253,
R257). -/
def State.recordUndo (s : State) (ctx d : Nat) (p : Prot) (sec : Nat) : State :=
  let n := p.ucnt + 1
  let hit := !p.undoLogged && decide (3 * p.capacity ≤ 4 * n)
  let r : UndoRec := ⟨sec, s.sectorRaw sec, s.scalesOf sec, assoc s.secKey sec, s.poison.contains sec⟩
  let s1 := (((s.inBase sec).undoBytes p (2 * p.ucnt)).undoBytes p (2 * p.ucnt + 1)).modProt ctx d fun p =>
    { p with ucnt := n, undo := p.undo ++ [r], undoLogged := p.undoLogged || hit,
             undop := if hit && p.undop != 0xFFFFFFFF then p.undop + 1 else p.undop }
  if hit then s1.logAsync ctx 0x47 0 false false (BitVec.ofNat 32 d) (BitVec.ofNat 32 n) else s1

/-- The bytes and scales of a sector are replaced in stacked memory: a write of a whole sector clears its poison (R260), and
the key of the write is recorded (R345). -/
def State.storeSector (s : State) (sec : Nat) (key : Byte) (mask : List (Option Byte)) (scales : Option (BitVec 16)) : State :=
  let data := maskBytes (bytesOfNat 64 (s.sectorRead sec key).toNat) mask
  { s with
    mem := Sparse.write 0 s.mem (64 * sec) data,
    secScale := match scales with
      | some v => Sparse.set 0x7F7F s.secScale sec v
      | none => s.secScale,
    poison := if maskWhole mask then s.poison.filter (· != sec) else s.poison,
    secKey := assocSet s.secKey sec (key, s.material key) }

/-- A sector takes what a record holds of it: bytes, scales, key and poison (R253, R257, R375). -/
def State.putRecord (s : State) (r : UndoRec) : State :=
  { s with
    mem := Sparse.write 0 s.mem (64 * r.sector) (bytesOfNat 64 r.data.toNat),
    secScale := Sparse.set 0x7F7F s.secScale r.sector r.scales,
    poison := if r.bad then insertSorted r.sector s.poison else s.poison.filter (· != r.sector),
    secKey := match r.key with
      | some k => assocSet s.secKey r.sector k
      | none => assocDel s.secKey r.sector }

/-- A sector is poisoned. -/
def State.poisonSector (s : State) (sec : Nat) : State := { s with poison := insertSorted sec s.poison }

/-- A write of agent g changes a sector: other cores' L1 copies go first (R238), and its own is updated (R236); in an UNDO region the
first write of a round makes its record, or is held in the deferral buffer (R253, R257). -/
def State.change (s : State) (g : Agent) (sec : Nat) (store : State → State) (held : State → UndoRec) : State :=
  let s1 := (s.invalidateL1 (some g) sec).l1Hit g sec
  match s1.regionAt (sec / 64) with
  | none => (store s1).seeHome g sec 2 true
  | some (c, d, p, _) =>
    match s1.undoCase p sec with
    | .plain => (store s1).seeHome g sec 2 true
    | .record => (store (s1.recordUndo c d p sec)).seeHome g sec 2 true
    | .full => (store (s1.modProt c d fun p => { p with unab := true, bare := sec :: p.bare })).seeHome g sec 2 true
    | .defer => s1.modProt c d fun p => { p with deferred := (p.deferred.filter fun x => x.sector != sec) ++ [held s1] }

/-- What the deferral buffer holds of a write (R257). -/
def State.heldWrite (sec : Nat) (key : Byte) (mask : List (Option Byte)) (scales : Option (BitVec 16)) (s : State) : UndoRec :=
  { sector := sec,
    data := BitVec.ofNat 512 (natOfBytes (maskBytes (bytesOfNat 64 (s.sectorRead sec key).toNat) mask)),
    scales := scales.getD (s.scalesOf sec), key := some (key, s.material key), bad := false }

/-- A write of a sector is performed: nothing changes in a poisoned sector that is not written whole (R260). -/
def State.performWrite (s : State) (g : Agent) (sec : Nat) (key : Byte) (mask : List (Option Byte))
    (scales : Option (BitVec 16)) : State :=
  if s.poisoned sec && !maskWhole mask then s
  else s.change g sec (fun s => s.storeSector sec key mask scales) (State.heldWrite sec key mask scales)

/-- A copy writes a sector whose source is poisoned: it is poisoned (R250, R260). -/
def State.performPoison (s : State) (g : Agent) (sec : Nat) : State :=
  s.change g sec (fun s => s.poisonSector sec) fun s =>
    { sector := sec, data := s.sectorRead sec 0, scales := s.scalesOf sec, key := some (0, s.material 0), bad := true }

/-- The granules of a sector that a mask touches. -/
def maskGranules (sec : Nat) (mask : List (Option Byte)) : List Nat :=
  (List.range 4).filterMap fun k => if ((mask.drop (16 * k)).take 16).any Option.isSome then some (4 * sec + k) else none

/-- The bytes of a mask outside the granules of a list. -/
def maskWithout (sec : Nat) (mask : List (Option Byte)) (bad : List Nat) : List (Option Byte) :=
  mask.zipIdx.map fun b => if bad.contains (4 * sec + b.2 / 16) then none else b.1

/-- A write waits at its sequencer, behind those that wait already (R256). The flip of a page in host bias waits for it, as a snoop was
sent for it before it arrived (R358). -/
def State.await (s : State) (c : Nat) (w : Waiting) : State :=
  let s1 := if s.host.hostBias.contains (w.sector / 64) && w.who != .host 0 then
      { s with host := { s.host with pledged := s.host.pledged ++ [(w.sector, snoopLate w.stamp)] } }
    else s
  { s1.modCtx c fun x => { x with waiting := x.waiting ++ [w] } with order := s.order + 1 }

/-- A write of agent g places its holds on granules, and no other L1 keeps their lines (R265, R266). -/
def State.putHolds (s : State) (g : Agent) (ctx : Nat) (hold : Bool) (ks : List Nat) : State :=
  if hold then
    (ks.map (· / 4)).eraseDups.foldl (fun s k => s.invalidateL1 (some g) k)
      { s with holds := placeHolds (s.holdOf g ctx) s.holds ks }
  else s

/-- A write of agent g arrives at a sector: it waits while the sector's group is not OPEN, and is performed otherwise; a
write that places holds places them on its arrival (R256, R264, R266). `ret` is told when a waiting write is settled. -/
def State.arriveWrite (s : State) (g : Agent) (ctx : Nat) (hold : Bool) (sec : Nat) (key : Byte) (mask : List (Option Byte))
    (scales : Option (BitVec 16)) (ret : WaitRet) : State × Bool :=
  match s.closedAt sec with
  | some (c, grp) =>
    ((s.putHolds g ctx hold (maskGranules sec mask)).await c ⟨grp, sec, .write mask scales, key, g, ctx, ret, s.order⟩, true)
  | none => ((s.performWrite g sec key mask scales).putHolds g ctx hold (maskGranules sec mask), false)

/-- A copied sector whose source is poisoned arrives, as a write does (R250, R256, R266). -/
def State.arrivePoison (s : State) (g : Agent) (ctx sec : Nat) (key : Byte) (ret : WaitRet) : State × Bool :=
  let ks := (List.range 4).map (4 * sec + ·)
  match s.closedAt sec with
  | some (c, grp) => ((s.putHolds g ctx true ks).await c ⟨grp, sec, .poison, key, g, ctx, ret, s.order⟩, true)
  | none => ((s.performPoison g sec).putHolds g ctx true ks, false)

/-- The word at an address, read under a key. -/
def State.homeWord (s : State) (key : Byte) (a : Nat) : Word := BitVec.ofNat 32 (natOfBytes (s.homeBytes key a 4))

/-- The mask of one word of a sector. -/
def wordMask (k : Nat) (v : Word) : List (Option Byte) :=
  (List.range 64).map fun i => if i / 4 = k then some (BitVec.ofNat 8 (v.toNat >>> (8 * (i % 4)))) else none

/-- The new word of an atomic or a reduction: a compare and swap that fails writes nothing (R245, R246). -/
def rmwWord (op : Nat) (cmp : Option Word) (old v : Word) : Option Word :=
  match cmp with
  | some c => if old = c then some v else none
  | none => some (memOp op old v)

/-- Perform one operation on word k of a sector: the state after and the old word (R245, R246). -/
def State.performRmw (s : State) (g : Agent) (sec : Nat) (key : Byte) (k op : Nat) (cmp : Option Word) (v : Word)
    (scales : Option (BitVec 16)) : State × Word :=
  let old := s.homeWord key (64 * sec + 4 * k)
  match rmwWord op cmp old v with
  | some w => (s.performWrite g sec key (wordMask k w) scales, old)
  | none => (s.seeHome g sec 2 false, old)

/-- What becomes of an operation on a word that arrives at its home or is performed there. -/
inductive RmwRes
  | waits
  | old (v : Word)
  | poisoned
  | held
deriving DecidableEq, Repr

/-- The issuer is told the old word: the operation is `at` or `cas`. -/
def returnsOld (r : WaitRet) : Bool :=
  match r with
  | .atomic _ _ => true
  | .peerOld _ _ => true
  | _ => false

/-- An operation of agent g on a word is performed at its home, unless the word is poisoned; a returning atomic has its hold point
now (R246, R247, R260, R264, R270). It invalidates the line in every L1 (R236). -/
def State.tryRmw (s : State) (g : Agent) (sec : Nat) (key : Byte) (k op : Nat) (cmp : Option Word) (v : Word)
    (scales : Option (BitVec 16)) (atomic : Bool) : State × RmwRes :=
  if s.poisoned sec then (s, .poisoned)
  else if atomic && (s.conflictIn s.holds g (64 * sec + 4 * k) 4).isSome then (s, .held)
  else
    let r := s.performRmw g sec key k op cmp v scales
    (r.1.invalidateL1 none sec, .old r.2)

/-- An operation of agent g on a word arrives at its home: it waits while the sector's group is not OPEN (R256), and is performed
otherwise; one that places a hold places it on its arrival (R264, R266). -/
def State.arriveRmw (s : State) (g : Agent) (ctx : Nat) (hold : Bool) (a : Nat) (key : Byte) (op : Nat) (cmp : Option Word)
    (v : Word) (scales : Option (BitVec 16)) (ret : WaitRet) : State × RmwRes :=
  let sec := a / 64
  let k := a % 64 / 4
  match s.closedAt sec with
  | some (c, grp) =>
    ((s.putHolds g ctx hold [a / 16]).await c ⟨grp, sec, .rmw k op cmp v scales, key, g, ctx, ret, s.order⟩, .waits)
  | none =>
    let r := s.tryRmw g sec key k op cmp v scales (returnsOld ret)
    (r.1.putHolds g ctx hold [a / 16], r.2)

/-! ### Host bias (R356, R357) -/

/-- Lines in host bias that n bytes at an address touch and whose snoop is not yet answered to an access. -/
def State.needSnoop (s : State) (who a n : Nat) : List Nat :=
  (sectorsOf a n).filter fun k => s.host.hostBias.contains (k / 64) && !s.host.acked.contains (k, who)

/-- Send the snoops of lines that wait for one (R357). -/
def State.snoop (s : State) (ls : List Nat) : State :=
  { s with host := { s.host with snoops := s.host.snoops ++ ls.filter fun k => !s.host.snoops.contains k } }

/-- An access waits for the snoops of lines (R357). -/
def State.sendSnoops (s : State) (who : Nat) (ls : List Nat) : State :=
  let s1 := s.snoop ls
  { s1 with host := { s1.host with pledged := s1.host.pledged ++
      (ls.map fun k => (k, who)).filter fun x => !s1.host.pledged.contains x } }

/-- The answered snoops of an access of n bytes at an address are used up: it has performed, or failed (R357). -/
def State.useSnoops (s : State) (who a n : Nat) : State :=
  let keep := fun (x : Nat × Nat) => x.2 != who || !(sectorsOf a n).contains x.1
  State.endFlips { s with host := { s.host with pledged := s.host.pledged.filter keep, acked := s.host.acked.filter keep } }

end Sys2Proof.Machine
end

