-- ==== Sys2Proof/Machine/Global.lean ====
section
/-! DEFINITION. The global memory instructions of A, fences and `drain`: what each checks, pops and enters into the list of
accesses (R201, R240 to R250, R264, R273 to R282). -/

namespace Sys2Proof.Machine

open Sys2Proof

/-! ### The list of accesses -/

/-- An entry of the list of accesses with nothing yet performed. -/
def access (seq : Nat) (e : Engine) (k : AccKind) (left : Bool) : Access :=
  ⟨seq, e, k, left, false, 0, false, none, none, none, []⟩

/-- Append an access, with what its engine knows of the completion of A's instructions (R273). -/
def Live.addAcc (l : Live) (a : Access) : Live := { l with acc := l.acc ++ [{ a with known := l.known a.eng }] }

/-- Append a release that is part of another instruction, under a number of its own; at `.core` there is nothing to do (R267,
R280). -/
def Live.addRelease (l : Live) (e : Engine) (scope : Nat) : Live :=
  if scope = 0 then l else { (l.addAcc (access l.seq e (.release scope none) true)) with seq := l.seq + 1 }

/-- The access under a number of engine e. -/
def Live.accAt (l : Live) (e : Engine) (seq : Nat) : Option Access := l.acc.find? fun a => a.seq == seq && decide (a.eng = e)

/-! ### Issue of a global access (R241) -/

/-- Go on with the pieces of an access, or raise its first failed check, or wait for a copy-on-write resolution (R241, R340). The
translations found up to then fill the TLBs, and a walk without a valid result is counted (R341, R389). -/
def State.checked (s : State) (ck : Checked) (k : List Piece → State → Res) : Res :=
  match ck with
  | .trap t ts =>
    .fault (((s.fillTlbs s.core.num ts).missed s.core.num t).seeTrap s.ctxId t (16 * s.core.num)) t
  | .cow p ts => .hold ((s.fillTlbs s.core.num ts).askCow s.ctxId p (16 * s.core.num)) .external
  | .ok ps ts => k ps (s.fillTlbs s.core.num ts)

/-- The effective address: base register plus the offset in units (R242). -/
def State.ea (s : State) (base : BitVec 5) (off : BitVec 9) (unit : Nat) : DWord :=
  s.ra base + off.signExtend 64 * BitVec.ofNat 64 unit

/-- What an instruction of A that pops the store queues qs waits for (R241 step 1). -/
def Live.sqWait (l : Live) (qs : List Nat) : Option Wait :=
  (List.range 4).findSome? fun q =>
    let n := (qs.filter (· == q)).length
    if (l.storeQ q).length < n then some (.sqEntry q n) else none

/-- What an instruction of A that pushes load queue q waits for. -/
def Live.lqWait (l : Live) (q : Nat) : Option Wait :=
  if Config.queueDepth ≤ (l.loadQ q).length then some (.lqRoom q) else none

/-- Pop the head of store queue q. -/
def Live.popSq (l : Live) (q : Nat) : VReg × Live :=
  match l.storeQ q with
  | [] => (VReg.zero, l)
  | e :: es => (e, l.setStoreQ q es)

/-- An instruction of A under the current context and core. -/
def State.range (s : State) (w : Want) (va : DWord) (n align : Nat) : Checked := s.checkRange s.core.num s.ctxId w va n align

/-- A load issues: its entry is reserved, with the sidecar 0x7F, and its pieces wait to be read. -/
def Live.issueLoad (l : Live) (q : Nat) (ps : List Piece) (scaled : Bool) (hint : BitVec 2) (whole : Bool) : Live :=
  let l1 := l.setLoadQ q (l.loadQ q ++ [⟨l.seq, false, ⟨0, side7F⟩, none, none, none⟩])
  l1.addAcc (access l.seq .a (.load q ps scaled hint whole) true)

/-- LD and LDS (R240, R242). -/
def loadOp (i : Instr) (cu : Cue) (op : BitVec 7) (q base : BitVec 5) (hint : BitVec 2) (off : BitVec 9) (scaled : Bool)
    (s : State) : Host.Outcome State Fault Refusal :=
  ({ i := i, cu := cu, op := op,
     body := fun s =>
       match s.core.live.lqWait (queueOf q) with
       | some w => .wait w
       | none => s.checked (s.range { write := false, noAlias := scaled } (s.ea base off 512) 512 64) fun ps s =>
           .pend (s.modLive fun l => l.issueLoad (queueOf q) ps scaled hint true) } : Issue).run s

/-- LD: loads 512 bytes (R242). -/
def execLd (cu : Cue) (q base : BitVec 5) (hint : BitVec 2) (off : BitVec 9) (s : State) : Host.Outcome State Fault Refusal :=
  loadOp (.ld cu q base hint off) cu 0x60 q base hint off false s

/-- LDS: loads 512 bytes with their scales (R240, R242). -/
def execLds (cu : Cue) (q base : BitVec 5) (hint : BitVec 2) (off : BitVec 9) (s : State) : Host.Outcome State Fault Refusal :=
  loadOp (.lds cu q base hint off) cu 0x61 q base hint off true s

/-- Bytes off to off + n - 1 of a queue entry. -/
def VReg.bytes (v : VReg) (off n : Nat) : List Byte := bytesOfNat n (v.data.toNat >>> (8 * off))

/-- Word at byte offset off of a queue entry. -/
def VReg.word (v : VReg) (off : Nat) : Word := BitVec.ofNat 32 (v.data.toNat >>> (8 * off))

/-- A part of a piece: n bytes from its byte i on. -/
def Piece.part (p : Piece) (i n : Nat) : Piece :=
  { p with va := p.va + BitVec.ofNat 64 i, pa := p.pa + BitVec.ofNat 52 i, len := n, off := p.off + i }

/-- The address lies in an alias range (R233, R245). -/
def Piece.alias (p : Piece) : Bool := paSpace p.pa != 2 && paOpc p.pa != 0

/-- The scales that a plain write gives the sectors of a piece: 0x7F on a scaled page, else none (R240). -/
def plainScales (p : Piece) : List (BitVec 16) :=
  if p.sm = 0 then [] else (sectorsOf (paOff p.pa) p.len).map fun _ => 0x7F7F

/-- The jobs of a store of entry v over a piece: an alias store is one ordered reduction for each word (R240, R248). -/
def storeJobs (v : VReg) (hold : Bool) (p : Piece) : List Job :=
  if p.alias then
    (List.range (p.len / 4)).map fun i => .rmw (p.part (4 * i) 4) (paOpc p.pa) true (v.word (p.off + 4 * i))
  else [.write p hold (v.bytes p.off p.len) (plainScales p)]

/-- A store issues (R242, R276). -/
def Live.issueStore (l : Live) (jobs : List Job) : Live := l.addAcc (access l.seq .a (.write jobs) false)

/-- ST: stores an entry (R242). -/
def execSt (cu : Cue) (q base : BitVec 5) (off : BitVec 9) (s : State) : Host.Outcome State Fault Refusal :=
  ({ i := .st cu q base off, cu := cu, op := 0x62,
     body := fun s =>
       match s.core.live.sqWait [queueOf q] with
       | some w => .wait w
       | none => s.checked (s.range { write := true } (s.ea base off 512) 512 64) fun ps s =>
           let r := s.core.live.popSq (queueOf q)
           .pend (s.setLive (r.2.issueStore (ps.flatMap (storeJobs r.1 true)))) } : Issue).run s

/-- Half j of an entry under 4-bit scaling: the larger of its two scales, with the codes of the block with the smaller one
re-rounded under it (R100, R240): scale and 64 codes. -/
def halfOf4 (f : BitVec 4) (v : VReg) (j : Nat) : Nat × List Nat :=
  let s0 := elem 8 v.side (2 * j)
  let s1 := elem 8 v.side (2 * j + 1)
  let m := max s0 s1
  (m, (List.range 64).map fun i =>
    let c := elem 4 v.data (64 * j + i)
    let sc := if i < 32 then s0 else s1
    if m = 255 then 0 else if sc = m then c
    else (convertScaled f .rne ((decodeCode f c).scale sc) m).1)

/-- The bytes and sector scales of `sts` over a piece (R240). -/
def stsJob (v : VReg) (f4 : BitVec 2) (p : Piece) : Job :=
  let secs := List.range (p.len / 64)
  let t0 := p.off / 64
  if p.sm = 0 then .write p true (v.bytes p.off p.len) []
  else if p.sm = 1 then
    .write p true (v.bytes p.off p.len) (secs.map fun t =>
      BitVec.ofNat 16 (elem 8 v.side (2 * (t0 + t)) + 256 * elem 8 v.side (2 * (t0 + t) + 1)))
  else
    let f : BitVec 4 := if f4 = 0 then 9 else 5
    let hs := secs.map fun t => (halfOf4 f v (2 * (t0 + t)), halfOf4 f v (2 * (t0 + t) + 1))
    .write p true (hs.flatMap fun h => bytesOfNat 32 (packNat 4 h.1.2) ++ bytesOfNat 32 (packNat 4 h.2.2))
      (hs.map fun h => BitVec.ofNat 16 (h.1.1 + 256 * h.2.1))

/-- STS: stores an entry with its scales (R100, R240, R242). -/
def execSts (cu : Cue) (q base : BitVec 5) (f4 : BitVec 2) (off : BitVec 9) (s : State) : Host.Outcome State Fault Refusal :=
  ({ i := .sts cu q base f4 off, cu := cu, op := 0x63,
     body := fun s =>
       match s.core.live.sqWait [queueOf q] with
       | some w => .wait w
       | none => s.checked (s.range { write := true, noAlias := true } (s.ea base off 512) 512 64) fun ps s =>
           let r := s.core.live.popSq (queueOf q)
           .pend (s.setLive (r.2.issueStore (ps.map (stsJob r.1 f4)))) } : Issue).run s

/-! ### Indexed accesses (R243, R247) -/

/-- The elements of an index entry that are not skipped: element number and address (R243). -/
def indexed (ea : DWord) (idx : VReg) (sh : BitVec 5) : List (Nat × DWord) :=
  (List.range 128).filterMap fun i =>
    let x := idx.word (4 * i)
    if x = 0x80000000 then none else some (i, ea + (x.signExtend 64) <<< sh.toNat)

/-- The index entry of an instruction that pops the data queue d, if any, before the index queue x (R241 step 2, R243). -/
def Live.peekIdx (l : Live) (d : Option Nat) (x : Nat) : VReg := (l.storeQ x).getD (if d = some x then 1 else 0) VReg.zero

/-- Element size of ES (R243). -/
def elemSize (es : BitVec 2) : Nat := 2 ^ es.toNat

/-- GATHER (R243). -/
def execGather (cu : Cue) (q base : BitVec 5) (hint : BitVec 2) (off : BitVec 9) (idx : BitVec 5) (es : BitVec 2)
    (sh : BitVec 5) (s : State) : Host.Outcome State Fault Refusal :=
  ({ i := .gather cu q base hint off idx es sh, cu := cu, op := 0x64,
     body := fun s =>
       let l := s.core.live
       match l.lqWait (queueOf q), l.sqWait [queueOf idx] with
       | some w, _ => .wait w
       | none, some w => .wait w
       | none, none =>
         let n := elemSize es
         let els := indexed (s.ea base off 4) (l.peekIdx none (queueOf idx)) sh
         s.checked (s.checkElems s.core.num s.ctxId { write := false, noAlias := decide (n < 4) } n
             (els.map fun e => (n * e.1, e.2))) fun ps s =>
           .pend (s.modLive fun l => (l.popSq (queueOf idx)).2.issueLoad (queueOf q) ps false hint false) } : Issue).run s

/-- A list in an order chosen freely (R9); the free counter after. -/
def shuffle {α : Type} (free : Nat) : Nat → List α → List α × Nat
  | 0, xs => (xs, free)
  | n + 1, xs =>
    match xs[Config.freeNat free % max 1 xs.length]? with
    | none => ([], free)
    | some x =>
      let r := shuffle (free + 1) n (xs.eraseIdx (Config.freeNat free % max 1 xs.length))
      (x :: r.1, r.2)

/-- The place of a job's access. -/
def Job.pa (j : Job) : BitVec 52 :=
  match j with
  | .write p _ _ _ => p.pa
  | .rmw p _ _ _ => p.pa

/-- The jobs of a list at the places of another, each the first left over of its place. -/
def deal : List Job → List Job → List Job
  | [], _ => []
  | j :: js, xs =>
    match xs.find? fun x => x.pa == j.pa with
    | some x => x :: deal js (xs.erase x)
    | none => j :: deal js xs

/-- The jobs of an instruction in its order: its elements reach their hold points in ascending order (R264), and where it is not ordered,
what it does to one place is done in an order chosen freely (R243, R249). -/
def State.arrange (s : State) (ordered : Bool) (jobs : List Job) : List Job × State :=
  if ordered then (jobs, s) else
    let r := shuffle s.free jobs.length jobs
    (deal jobs r.1, { s with free := r.2 })

/-- SCATTER (R243, R249, R266). -/
def execScatter (cu : Cue) (q base : BitVec 5) (off : BitVec 9) (idx : BitVec 5) (es : BitVec 2) (sh : BitVec 5) (o : Bool)
    (s : State) : Host.Outcome State Fault Refusal :=
  ({ i := .scatter cu q base off idx es sh o, cu := cu, op := 0x65,
     body := fun s =>
       let l := s.core.live
       match l.sqWait [queueOf q, queueOf idx] with
       | some w => .wait w
       | none =>
         let n := elemSize es
         let els := indexed (s.ea base off 4) (l.peekIdx (some (queueOf q)) (queueOf idx)) sh
         s.checked (s.checkElems s.core.num s.ctxId { write := true, noAlias := decide (n < 4) } n
             (els.map fun e => (n * e.1, e.2))) fun ps s =>
           let r := s.core.live.popSq (queueOf q)
           let jobs := ps.map fun p =>
             if p.alias then Job.rmw p (paOpc p.pa) o (r.1.word p.off) else .write p true (r.1.bytes p.off p.len) (plainScales p)
           let j := s.arrange o jobs
           .pend (j.2.setLive ((r.2.popSq (queueOf idx)).2.issueStore j.1)) } : Issue).run s

/-- PF: brings sectors into the L1 of the core; sectors that would fail a check, alias or distant ones and poisoned ones are
skipped (R244), and so are those whose line the host may hold: DEDUCED, log 3, as a request that changes no architectural state sends no
snoop (R357). The translations found fill the TLBs, and a walk without a valid result is counted (R341, R389). -/
def execPf (cu : Cue) (q base : BitVec 5) (hint : BitVec 2) (off : BitVec 9) (s : State) : Host.Outcome State Fault Refusal :=
  plain (.pf cu q base hint off) cu 0x66 [] (fun s =>
    (List.range (q.toNat + 1)).foldl (fun s i =>
      match s.range { write := false } (s.ea base off 64 + BitVec.ofNat 64 (64 * i)) 64 64 with
      | .ok [p] ts =>
        let s1 := s.fillTlbs s.core.num ts
        if paSpace p.pa = 0 && paOpc p.pa = 0 && !s1.poisoned (paOff p.pa / 64) &&
            (s1.needSnoop (snoopCore s1.core.num) (paOff p.pa) 64).isEmpty then s1.l1Reads p.pa 64 hint else s1
      | .ok _ ts => s.fillTlbs s.core.num ts
      | .cow _ ts => s.fillTlbs s.core.num ts
      | .trap t ts => (s.fillTlbs s.core.num ts).missed s.core.num t) s) s

/-! ### Copies (R250) -/

/-- The first ADDR or ALIGN of the addresses of a copy at issue (R241 checks 1 and 2, R250). -/
def copyTrap : List DWord → Option Trap
  | [] => none
  | v :: vs => if v.toNat / 2 ^ 56 ≠ 0 then some (vaTrap 0x13 v) else if v.toNat % 64 ≠ 0 then some (vaTrap 0x12 v) else copyTrap vs

/-- The first length or stride that is no multiple of 64 (R250). It is checked after the source and the destination, TVAL0 is its value
and TVAL1 is 0: DESIGN CHOICE, log 38. -/
def copyLens : List Word → Option Trap
  | [] => none
  | v :: vs => if v.toNat % 64 ≠ 0 then some ⟨0x12, v, 0⟩ else copyLens vs

/-- Commands of a channel, held ones included (R297). -/
def State.chanLoad (s : State) (ch : Nat) : Nat :=
  (vget s.core.chans ch ⟨0, []⟩).queue.length +
    (s.core.live.acc.filter fun a => match a.kind with | .copy c _ => c == ch | _ => false).length

/-- A copy instruction (R250, R297). -/
def copyOp (i : Instr) (cu : Cue) (op : BitVec 7) (q base : BitVec 5) (off : BitVec 9) (dst : BitVec 4)
    (uses : List (BitVec 5)) (lens : State → List Word) (cmd : State → CopyCmd) (s : State) :
    Host.Outcome State Fault Refusal :=
  ({ i := i, cu := cu, op := op, uses := uses,
     body := fun s =>
       let src := s.ea base off 64
       let d := vget s.core.live.a dst.toNat 0
       match firstCopy (copyTrap [src, d]) (copyLens (lens s)) with
       | some t => .fault s t
       | none =>
         if Config.copyDepth ≤ s.chanLoad q.toNat then .wait .external
         else .done (s.modLive fun l =>
           l.addAcc (access l.seq .a (.copy q.toNat { cmd s with seq := l.seq, src := src, dst := d }) false)) } : Issue).run s
where
  firstCopy (a b : Option Trap) : Option Trap :=
    match a with
    | some t => some t
    | none => b

/-- CPY: queues a linear copy (R250). -/
def execCpy (cu : Cue) (q base : BitVec 5) (off : BitVec 9) (dst : BitVec 4) (len : BitVec 5) (s : State) :
    Host.Outcome State Fault Refusal :=
  copyOp (.cpy cu q base off dst len) cu 0x67 q base off dst [len] (fun s => [s.rs len]) (fun s =>
    { seq := 0, src := 0, dst := 0, len := (s.rs len).toNat, rows := 1, ss := 0, ds := 0, row := 0, off := 0, sent := none,
      got := none, ones := false }) s

/-- CPY2D: queues a two-dimensional copy (R250). -/
def execCpy2d (cu : Cue) (q base : BitVec 5) (off : BitVec 9) (dst : BitVec 4) (len rows ss ds : BitVec 5) (s : State) :
    Host.Outcome State Fault Refusal :=
  copyOp (.cpy2d cu q base off dst len rows ss ds) cu 0x68 q base off dst [len, rows, ss, ds]
    (fun s => [s.rs len, s.rs ss, s.rs ds]) (fun s =>
    { seq := 0, src := 0, dst := 0, len := (s.rs len).toNat, rows := (s.rs rows).toNat, ss := (s.rs ss).toInt,
      ds := (s.rs ds).toInt, row := 0, off := 0, sent := none, got := none, ones := false }) s

/-! ### Atomics and reductions (R245 to R249) -/

/-- What an atomic or a reduction at a scope refuses (R241 check 5). -/
def atomWant (sc : BitVec 3) : Want := { write := true, noAlias := true, noHost := true, noPeer := decide (sc ≠ 4) }

/-- A returning atomic: it releases at its scope, and A issues nothing until its result is written (R246, R280). -/
def atomicOp (i : Instr) (cu : Cue) (op : BitVec 7) (q base : BitVec 5) (off : BitVec 9) (sc : BitVec 3)
    (uses : List (BitVec 5)) (k : Nat) (cmp : State → Option Word) (v : State → Word) : Issue :=
  { i := i, cu := cu, op := op, uses := q :: uses,
    body := fun s =>
      if s.eng.phase = 1 then .wait .external
      else s.checked (s.range (atomWant sc) (s.ea base off 4) 4 4) fun ps s =>
        match ps with
        | [p] =>
          .hold (s.modLive fun l =>
            let l1 := l.addRelease .a sc.toNat
            let l2 := l1.addAcc (access l1.seq .a (.atomic p k (cmp s) (v s) q) false)
            { l2.modEng .a fun x => { x with phase := 1, phaseSeq := l1.seq } with seq := l1.seq + 1 }) .external
        | _ => .wait .external }

/-- The issue of AT. -/
def atIssue (cu : Cue) (q base : BitVec 5) (off : BitVec 9) (v : BitVec 5) (op sc : BitVec 3) : Issue :=
  atomicOp (.atOp cu q base off v op sc) cu 0x69 q base off sc [v] op.toNat (fun _ => none) (fun s => s.rs v)

/-- The issue of CAS. -/
def casIssue (cu : Cue) (q base : BitVec 5) (off : BitVec 9) (cr n : BitVec 5) (sc : BitVec 3) : Issue :=
  atomicOp (.cas cu q base off cr n sc) cu 0x6A q base off sc [cr, n] 0 (fun s => some (s.rs cr)) (fun s => s.rs n)

/-- AT: returning read-modify-write of one word (R246). -/
def execAtOp (cu : Cue) (q base : BitVec 5) (off : BitVec 9) (v : BitVec 5) (op sc : BitVec 3) (s : State) :
    Host.Outcome State Fault Refusal := (atIssue cu q base off v op sc).run s

/-- CAS: returning compare and swap of one word (R246). -/
def execCas (cu : Cue) (q base : BitVec 5) (off : BitVec 9) (cr n : BitVec 5) (sc : BitVec 3) (s : State) :
    Host.Outcome State Fault Refusal := (casIssue cu q base off cr n sc).run s

/-- A reduction issues after its release (R247, R280). -/
def Live.issueRed (l : Live) (sc : BitVec 3) (jobs : List Job) : Live :=
  let l1 := l.addRelease .a sc.toNat
  l1.addAcc (access l1.seq .a (.reduce jobs) false)

/-- RED: return-free reduction of one word, one entry or indexed words (R247, R249). -/
def execRed (cu : Cue) (q base : BitVec 5) (off : BitVec 9) (idx : BitVec 5) (op : BitVec 3) (v ix : Bool) (sh : BitVec 5)
    (sc : BitVec 3) (o : Bool) (s : State) : Host.Outcome State Fault Refusal :=
  ({ i := .red cu q base off idx op v ix sh sc o, cu := cu, op := 0x6B, uses := if v then [] else [q],
     body := fun s =>
       let l := s.core.live
       let ea := s.ea base off 4
       let w := atomWant sc
       match l.sqWait ((if v then [queueOf q] else []) ++ (if ix then [queueOf idx] else [])) with
       | some x => .wait x
       | none =>
         if !v then s.checked (s.range w ea 4 4) fun ps s =>
           .pend (s.modLive fun l => l.issueRed sc (ps.map fun p => .rmw p op.toNat o (s.rs q)))
         else if !ix then s.checked (s.range w ea 512 4) fun ps s =>
           let r := s.core.live.popSq (queueOf q)
           let jobs := ps.flatMap fun p => (List.range (p.len / 4)).map fun i =>
             Job.rmw (p.part (4 * i) 4) op.toNat o (r.1.word (p.off + 4 * i))
           let j := s.arrange o jobs
           .pend (j.2.setLive (r.2.issueRed sc j.1))
         else
           s.checked (s.checkElems s.core.num s.ctxId w 4
               ((indexed ea (l.peekIdx (some (queueOf q)) (queueOf idx)) sh).map fun e => (4 * e.1, e.2))) fun ps s =>
             let r := s.core.live.popSq (queueOf q)
             let j := s.arrange o (ps.map fun p => Job.rmw p op.toNat o (r.1.word p.off))
             .pend (j.2.setLive ((r.2.popSq (queueOf idx)).2.issueRed sc j.1)) } : Issue).run s

/-! ### Acquire and release (R273 to R278) -/

/-- What `ldacq` and `strel` refuse (R277). -/
def orderWant (write : Bool) (sc : BitVec 3) : Want :=
  { write := write, noAlias := true, noHost := decide (sc.toNat < 3), noPeer := decide (sc ≠ 4) }

/-- LDACQ: loads one sector as an acquire (R275): A's accesses are performed in order, so nothing passes its read. -/
def execLdacq (cu : Cue) (sc : BitVec 3) (q : BitVec 2) (base : BitVec 5) (hint : BitVec 2) (off : BitVec 9) (s : State) :
    Host.Outcome State Fault Refusal :=
  ({ i := .ldacq cu sc q base hint off, cu := cu, op := 0x70,
     body := fun s =>
       match s.core.live.lqWait q.toNat with
       | some w => .wait w
       | none => s.checked (s.range (orderWant false sc) (s.ea base off 64) 64 64) fun ps s =>
           .pend (s.modLive fun l => l.issueLoad q.toNat ps false hint true) } : Issue).run s

/-- STREL: releases, then stores one sector without a hold (R276). -/
def execStrel (cu : Cue) (sc : BitVec 3) (q : BitVec 2) (base : BitVec 5) (off : BitVec 9) (s : State) :
    Host.Outcome State Fault Refusal :=
  ({ i := .strel cu sc q base off, cu := cu, op := 0x71,
     body := fun s =>
       match s.core.live.sqWait [q.toNat] with
       | some w => .wait w
       | none => s.checked (s.range (orderWant true sc) (s.ea base off 64) 64 64) fun ps s =>
           let r := s.core.live.popSq q.toNat
           .pend (s.setLive ((r.2.addRelease .a sc.toNat).issueStore (ps.flatMap (storeJobs r.1 false)))) } : Issue).run s

/-- A fence that releases: once every earlier instruction of its engine has completed, it enters its release; at `.core` it
completes (R274). -/
def fenceRelease (i : Instr) (cu : Cue) (sc : BitVec 3) (s : State) : Host.Outcome State Fault Refusal :=
  ({ i := i, cu := cu, op := 0x6E,
     body := fun s => s.afterEarlier fun _ =>
       if sc = 0 then .done s
       else .pend (s.modLive fun l => l.addAcc (access l.seq s.cur (.release sc.toNat none) true)) } : Issue).run s

/-- FENCE_ACQ: completes once every earlier instruction of its engine has (R274). -/
def execFenceAcq (cu : Cue) (sc : BitVec 3) (s : State) : Host.Outcome State Fault Refusal :=
  ({ i := .fenceAcq cu sc, cu := cu, op := 0x6E, body := fun s => s.afterEarlier fun _ => .done s } : Issue).run s

/-- FENCE_REL (R273, R274). -/
def execFenceRel (cu : Cue) (sc : BitVec 3) (s : State) : Host.Outcome State Fault Refusal :=
  fenceRelease (.fenceRel cu sc) cu sc s

/-- FENCE_AR (R274). -/
def execFenceAr (cu : Cue) (sc : BitVec 3) (s : State) : Host.Outcome State Fault Refusal :=
  fenceRelease (.fenceAr cu sc) cu sc s

/-- The core has nothing under way that `drain` waits for, beside the engine's own earlier instructions (R278). -/
def State.emptied (s : State) : Bool :=
  let l := s.core.live
  s.quiet && vall l.lq (·.isEmpty) && vall l.sq (·.isEmpty) && l.pass.isNone && l.drains.isEmpty && l.spDrains.isEmpty

/-- DRAIN: waits until everything the act has started has finished; X delivers its slow results (R126, R278). -/
def execDrain (cu : Cue) (s : State) : Host.Outcome State Fault Refusal :=
  ({ i := .drain cu, cu := cu, op := 0x6F, flush := true,
     body := fun s => if s.eng.retire.isEmpty && s.emptied then .done s else if s.hopeless then .fault s deadlockM else .wait .drain } :
    Issue).run s

end Sys2Proof.Machine
end

