-- ==== Sys2Proof/Machine/Perform.lean ====
section
/-! DEFINITION. The performance of global accesses: held operations leave the core, loads, writes, reductions, atomics and
copies reach their homes or owners, releases advance generations, and peers answer (R201, R202, R248 to R251, R256, R260,
R264 to R270, R280 to R282, R346, R396). -/

namespace Sys2Proof.Machine

open Sys2Proof

/-! ### Leaving the core (R201) -/

/-- An access has nothing more to do but to wait for what waits at a sequencer (R256). -/
def Access.parked (a : Access) : Bool :=
  decide (0 < a.waits) && (match a.kind with
    | .write (_ :: _) => false
    | .reduce (_ :: _) => false
    | _ => true)

/-- The first access of engine e in issue order that still has something to do at a home. -/
def Live.firstAcc (l : Live) (e : Engine) : Option Access := l.acc.find? fun a => decide (a.eng = e) && !a.parked

/-- Change the access under a number. -/
def Live.modAcc (l : Live) (seq : Nat) (f : Access → Access) : Live :=
  { l with acc := l.acc.map fun a => if a.seq = seq then f a else a }

/-- Remove the access under a number. -/
def Live.dropAcc (l : Live) (seq : Nat) : Live := { l with acc := l.acc.filter fun a => a.seq != seq }

/-- The access under a number is in the list. -/
def Live.hasAcc (l : Live) (seq : Nat) : Bool := l.acc.any fun a => a.seq == seq

/-- What follows at the core when an operation leaves: a reduction is complete (R247), and a copy command enters its
channel. -/
def State.afterLeave (s : State) (a : Access) : State :=
  match a.kind with
  | .reduce _ => s.modAll fun l => l.retireDone .a a.seq
  | .copy ch cmd =>
    ({ s with core := { s.core with
        chans := vset s.core.chans ch { vget s.core.chans ch ⟨0, []⟩ with
          queue := (vget s.core.chans ch ⟨0, []⟩).queue ++ [cmd] } } }).modAll fun l => l.dropAcc a.seq
  | _ => s

/-! ### Routes (R233, R251, R394) -/

/-- The link to the host carries transactions: it is up and holds none for a width change (R394). -/
def HostPort.linked (h : HostPort) : Bool := h.up && !h.retraining

/-- The host is served: the link carries transactions, and the host is not lost, or its stage manager has accepted a new ADMBASE
since (R394). -/
def HostPort.serves (h : HostPort) : Bool := h.linked && !h.lost

/-- Where a physical address of a context is reached. -/
inductive Route
  | here
  | host
  | peer (n : Nat)
  | lost
deriving DecidableEq, Repr

/-- The route of an address: a peer marked lost and a lost host settle at once (R251, R394). -/
def State.route (s : State) (ctx : Nat) (pa : BitVec 52) : Route :=
  if paSpace pa = 2 then (if s.host.lost then .lost else .host)
  else match s.ctxAt ctx with
    | some c => if c.isLocal pa then .here else if c.lost.contains (paPeer pa) then .lost else .peer (paPeer pa)
    | none => .here

/-- The offset of an address in a peer's range, alias included (R235). -/
def rangeOff (pa : BitVec 52) : Nat := pa.toNat % 2 ^ 43

/-- The module has sent a request to a peer for the focused core (R235, R346, R396). -/
def State.request (s : State) (peer : Nat) (key : Byte) (req : MemReq) : State :=
  ({ s with outbox := s.outbox ++ [Msg.request s.ctxId peer s.core.num (s.gensOf s.me) key req] }).modCtx s.ctxId fun c =>
    { c with traffic := insertSorted peer c.traffic }

/-- Whether n bytes may be accessed now: none when they may; else the state in which the access waits, with its request to a
peer or its snoops sent, and whether a request is outstanding. A read waits behind a waiting write (R256). -/
def State.gate (s : State) (p : Piece) (read : Bool) (req : MemReq) : Option (State × Bool) :=
  match s.route s.ctxId p.pa with
  | .lost => none
  | .host => if s.host.linked then none else some (s, false)
  | .peer n => some (s.request n p.key req, true)
  | .here =>
    let need := s.needSnoop (snoopCore s.core.num) (paOff p.pa) p.len
    if read && s.waitingOn (paOff p.pa) p.len then some (s, false)
    else if need.isEmpty then none else some (s.sendSnoops (snoopCore s.core.num) need, false)

/-! ### Loads (R240, R242, R251, R260, R270) -/

/-- Change the unfilled entry of instruction seq in load queue q. -/
def Live.modEntry (l : Live) (q seq : Nat) (f : LEntry → LEntry) : Live :=
  l.setLoadQ q ((l.loadQ q).map fun e => if e.seq = seq && !e.filled then f e else e)

/-- Put bytes at an offset of an entry. -/
def LEntry.put (e : LEntry) (off : Nat) (bs : List Byte) : LEntry :=
  { e with val := { e.val with data := e.val.data ||| BitVec.ofNat 4096 (natOfBytes bs * 2 ^ (8 * off)) } }

/-- Write sidecar entry j. -/
def setSide (side : BitVec 256) (j v : Nat) : BitVec 256 :=
  (side &&& ~~~(BitVec.ofNat 256 (255 * 2 ^ (8 * j)))) ||| BitVec.ofNat 256 (v % 256 * 2 ^ (8 * j))

/-- Write the sidecar entries of half j under a scaled mode (R240). -/
def sideHalf (sm : BitVec 2) (side : BitVec 256) (j v : Nat) : BitVec 256 :=
  if sm = 1 then setSide side j v else if sm = 2 then setSide (setSide side (2 * j) v) (2 * j + 1) v else side

/-- Put the scales of the sectors of a piece into the sidecar (R240). -/
def LEntry.putScales (e : LEntry) (sm : BitVec 2) (off : Nat) (scs : List (BitVec 16)) : LEntry :=
  { e with val := { e.val with
      side := scs.zipIdx.foldl (fun sd x =>
        let j := 2 * (off / 64 + x.2)
        sideHalf sm (sideHalf sm sd j (x.1.toNat % 256)) (j + 1) (x.1.toNat / 256)) e.val.side } }

/-- Mark an entry poisoned, conflicting or refused; the first address of each kind stays (R295). -/
def LEntry.markPoison (e : LEntry) (va : DWord) : LEntry := { e with poison := e.poison.orElse fun _ => some va }
def LEntry.markMmx (e : LEntry) (va : DWord) : LEntry := { e with mmx := e.mmx.orElse fun _ => some va }
def LEntry.markRefused (e : LEntry) (va : DWord) : LEntry := { e with refused := e.refused.orElse fun _ => some va }

/-- The virtual address of the unit of k bytes that holds byte x of the space in which a piece lies at base. -/
def unitVa (p : Piece) (base x : Nat) : DWord := p.va + BitVec.ofNat 64 x - BitVec.ofNat 64 base

/-- A piece of a load reads local bytes: data and scales, or the marks of poison and of a hold conflict. -/
def State.readHere (s : State) (p : Piece) (scaled : Bool) (e : LEntry) : LEntry :=
  let a := paOff p.pa
  let e1 := match s.poisonIn a p.len with
    | some k => e.markPoison (unitVa p a (64 * k))
    | none => e
  match s.conflictIn s.holds s.me a p.len with
  | some g => e1.markMmx (unitVa p a (16 * g))
  | none =>
    let e2 := e1.put p.off (s.homeBytes p.key a p.len)
    if scaled then e2.putScales p.sm p.off ((sectorsOf a p.len).map s.scalesOf) else e2

/-- The first line of host memory, of n bytes at a, that a copy has written poisoned (R250, R260). -/
def State.hostPoisonIn (s : State) (a n : Nat) : Option Nat := (sectorsOf a n).find? fun k => s.host.poison.contains k

/-- A piece of a load reads host memory (R240, R260, R271). -/
def State.readHost (s : State) (p : Piece) (e : LEntry) : LEntry :=
  let a := paHost p.pa
  let e1 := match s.hostPoisonIn a p.len with
    | some k => e.markPoison (unitVa p a (64 * k))
    | none => e
  match s.conflictIn s.host.holds s.me a p.len with
  | some g => e1.markMmx (unitVa p a (16 * g))
  | none => e1.put p.off (Sparse.read 0 s.host.mem a p.len)

/-- All-ones bytes (R251). -/
def onesBytes (n : Nat) : List Byte := List.replicate n 0xFF

/-- Set a bit of LERR (R189). -/
def State.lerr (s : State) (b : Nat) : State := s.modAll fun l => { l with lerr := l.lerr ||| BitVec.ofNat 5 (2 ^ b) }

/-- A load has the error value of a lost peer in queue q: LERR shows it in every state of the core that has issued the load (R189, R200,
R251). -/
def Live.loseLoad (l : Live) (q seq : Nat) (p : Piece) : Live :=
  if l.acc.any fun a => a.seq == seq then
    { (l.modEntry q seq fun e => e.put p.off (onesBytes p.len)).modAcc seq fun x => { x with lost := true } with
      lerr := l.lerr ||| BitVec.ofNat 5 (2 ^ q) }
  else l

/-- The focused core's access of n bytes at an address of this module has performed or failed (R357). -/
def State.snoopsUsed (s : State) (a n : Nat) : State := s.useSnoops (snoopCore s.core.num) a n

/-- Perform one piece of a load that may be accessed now. -/
def State.loadPiece (s : State) (a : Access) (q : Nat) (scaled : Bool) (hint : BitVec 2) (p : Piece) : State :=
  match s.route s.ctxId p.pa with
  | .here =>
    ((s.modAll fun l => l.modEntry q a.seq (s.readHere p scaled)).l1Reads p.pa p.len hint).snoopsUsed (paOff p.pa) p.len
  | .host => s.modAll fun l => l.modEntry q a.seq (s.readHost p)
  | _ => s.modAll fun l => l.loseLoad q a.seq p

/-- The last piece has been read: the entry is filled and the load completes. A conflict leaves zero data (R270); an entry of
a lost peer that settles whole holds all-ones (R396). -/
def Live.endLoad (l : Live) (q seq : Nat) (whole : Bool) : Live :=
  let lost := match l.accAt .a seq with | some a => a.lost | none => false
  let l1 := l.modEntry q seq fun e =>
    { e with filled := true,
             val := if e.mmx.isSome || e.refused.isSome then ⟨0, side7F⟩
                    else if lost && whole then ⟨BitVec.allOnes 4096, side7F⟩ else e.val }
  (l1.dropAcc seq).retireDone .a seq

/-- Perform the pieces of a load in order, as far as they may be accessed now. -/
def State.loadPieces (s : State) (a : Access) (q : Nat) (scaled : Bool) (hint : BitVec 2) (whole : Bool) :
    List Piece → State
  | [] => s.modAll fun l => l.endLoad q a.seq whole
  | p :: ps =>
    match s.gate p true (.read (rangeOff p.pa) p.len) with
    | some (s', sent) => s'.modAll fun l => l.modAcc a.seq fun x => { x with kind := .load q (p :: ps) scaled hint whole, sent := sent }
    | none => (s.loadPiece a q scaled hint p).loadPieces a q scaled hint whole ps

/-- GLOBAL_LOAD_PERFORM: the first access of A is a load, which reads what it can (R264, R265). -/
def execGlobalLoadPerform (s : State) : Host.Outcome State Fault Refusal :=
  .next (match s.core.live.firstAcc .a with
    | some a =>
      match a.kind with
      | .load q ps scaled hint whole => if a.sent then s else s.loadPieces a q scaled hint whole ps
      | _ => s
    | none => s)

/-! ### Writes and reductions (R242, R247 to R249, R266, R270) -/

/-- Note the first address of a kind of refusal of a write. -/
def Access.noteConf (a : Access) (va : DWord) : Access := { a with conf := a.conf.orElse fun _ => some va }
def Access.noteKey (a : Access) (va : DWord) : Access := { a with keyr := a.keyr.orElse fun _ => some va }
def Access.noteProt (a : Access) (va : DWord) : Access := { a with protr := a.protr.orElse fun _ => some va }

/-- The sectors that bytes at address a fall into, each with its mask. -/
def sectorMasks (a : Nat) (bs : List Byte) : List (Nat × List (Option Byte)) :=
  (sectorsOf a bs.length).map fun k =>
    (k, (List.range 64).map fun i => if a ≤ 64 * k + i then bs[64 * k + i - a]? else none)

/-- Write the sectors of a piece at this module's home (R240, R266, R270): conflicting granules are left out, and their first
address is noted. -/
def State.writeSectors (s : State) (a : Access) (p : Piece) (hold : Bool) (scales : List (BitVec 16)) (i : Nat) :
    List (Nat × List (Option Byte)) → State × Access
  | [] => (s, a)
  | (k, mask) :: rest =>
    let bad := (maskGranules k mask).filter fun g => match assoc s.holds g with
      | some h => s.conflicts s.me h
      | none => false
    let a1 := match bad with
      | [] => a
      | g :: _ => a.noteConf (if paOff p.pa < 16 * g then unitVa p (paOff p.pa) (16 * g) else p.va)
    let m := maskWithout k mask bad
    let r := if m.any Option.isSome then
        s.arriveWrite s.me s.ctxId hold k p.key m scales[i]? (.access s.core.num a.seq)
      else (s, false)
    r.1.writeSectors (if r.2 then { a1 with waits := a1.waits + 1 } else a1) p hold scales (i + 1) rest

/-- Granules that write every granule of a line. -/
def wholeLine (x n : Nat) (good : List Nat) (line : Nat) : Bool :=
  decide (x ≤ 64 * line) && decide (64 * line + 64 ≤ x + n) && (List.range 4).all fun i => good.contains (4 * line + i)

/-- Agent g writes bytes at x of host memory, leaving out conflicting granules, which are answered (R266, R270); a poisoned line changes
only when it is written whole, and a copy of a poisoned sector poisons its line (R250, R260). -/
def State.hostWriteAs (s : State) (g : Agent) (ctx x : Nat) (hold poison : Bool) (bs : List Byte) : State × List Nat :=
  let bad := (granules x bs.length).filter fun k => match assoc s.host.holds k with
    | some h => s.conflicts g h
    | none => false
  let good := (granules x bs.length).filter fun k => !bad.contains k
  let whole := (sectorsOf x bs.length).filter (wholeLine x bs.length good)
  let open_ := good.filter fun k => !s.host.poison.contains (k / 4) || whole.contains (k / 4)
  let mem := open_.foldl (fun m k =>
    let lo := max x (16 * k)
    let hi := min (x + bs.length) (16 * k + 16)
    Sparse.write 0 m lo ((bs.drop (lo - x)).take (hi - lo))) s.host.mem
  let holds := if hold then placeHolds (s.holdOf g ctx) s.host.holds good else s.host.holds
  let left := s.host.poison.filter fun k => !whole.contains k
  ({ s with host := { s.host with mem := mem, holds := holds,
                                  poison := if poison then whole.foldl (fun ps k => insertSorted k ps) left else left } }, bad)

/-- A piece of a write of the focused core is written to host memory, and its first conflict noted (R266, R270). -/
def State.writeHost (s : State) (a : Access) (p : Piece) (hold : Bool) (bs : List Byte) (poison : Bool) : State × Access :=
  let x := paHost p.pa
  let r := s.hostWriteAs s.me s.ctxId x hold poison bs
  (r.1, match r.2 with
    | [] => a
    | g :: _ => a.noteConf (if x < 16 * g then unitVa p x (16 * g) else p.va))

/-- One reduction at this module's home: a conflict is noted, and nothing is done to a poisoned word (R247, R249, R260). -/
def State.reduceHere (s : State) (a : Access) (p : Piece) (op : Nat) (hold : Bool) (v : Word) : State × Access :=
  let x := paOff p.pa
  match s.conflictIn s.holds s.me x 4 with
  | some _ => (s, a.noteConf p.va)
  | none =>
    let r := s.arriveRmw s.me s.ctxId hold x p.key op none v (if p.sm = 0 then none else some 0x7F7F)
      (.access s.core.num a.seq)
    (r.1, if r.2 = .waits then { a with waits := a.waits + 1 } else a)

/-- One reduction of a word of host memory through a plain alias is never formed (SPACE 2 has no alias, R233). -/
def Job.piece (j : Job) : Piece :=
  match j with
  | .write p _ _ _ => p
  | .rmw p _ _ _ => p

/-- Bytes of the scales of a list of sectors, S0 first. -/
def scaleBytes (scs : List (BitVec 16)) : List Byte := scs.flatMap fun (v : BitVec 16) => [v.setWidth 8, (v >>> 8).setWidth 8]

/-- The request that performs a job at its owner. -/
def Job.req (j : Job) : MemReq :=
  match j with
  | .write p hold bs scales => .write (rangeOff p.pa) bs (scaleBytes scales) hold none
  | .rmw p op hold v => .reduce (paOff p.pa) op v hold (p.sm != 0)

/-- Perform one job that may be performed now. -/
def State.doJob (s : State) (a : Access) (j : Job) : State × Access :=
  match s.route s.ctxId j.piece.pa, j with
  | .here, .write p hold bs scales =>
    let r := s.writeSectors a p hold scales 0 (sectorMasks (paOff p.pa) bs)
    (r.1.snoopsUsed (paOff p.pa) p.len, r.2)
  | .here, .rmw p op hold v =>
    let r := s.reduceHere a p op hold v
    (r.1.snoopsUsed (paOff p.pa) p.len, r.2)
  | .host, .write p hold bs _ => s.writeHost a p hold bs false
  | .host, .rmw _ _ _ _ => (s, a)
  | _, _ => (s.lerr 4, a)

/-- Replace an access in the core and its undo ring. -/
def State.putAcc (s : State) (a : Access) : State := s.modAll fun l => l.modAcc a.seq fun _ => a

/-- An optional address is logged once for the instruction. -/
def State.logAddr (s : State) (code : Nat) (e : Engine) : Option DWord → State
  | some va => (if code = 0x40 then s.bump 13 else s).logOp code e (va.setWidth 32) ((va >>> 32).setWidth 32)
  | none => s

/-- A write or reduction has performed everything that does not wait at a sequencer. With nothing waiting it completes, and
its conflicts and refusals are logged (R256, R270, R346). -/
def State.endWrite (s : State) (a : Access) : State :=
  if a.waits = 0 then
    (((((s.modAll fun l => (l.dropAcc a.seq).retireDone a.eng a.seq).logAddr 0x40 a.eng a.conf).logAddr 0x4A a.eng a.keyr).logAddr
      0x4B a.eng a.protr))
  else s.putAcc a

/-- The kind of a list of jobs that are left. -/
def AccKind.withJobs (k : AccKind) (js : List Job) : AccKind :=
  match k with
  | .write _ => .write js
  | .reduce _ => .reduce js
  | k => k

/-- Perform the jobs of an access in order, as far as they may be performed now. -/
def State.doJobs (s : State) (a : Access) : List Job → State
  | [] => s.endWrite { a with kind := a.kind.withJobs [] }
  | j :: js =>
    match s.gate j.piece false j.req with
    | some (s', sent) => s'.putAcc { a with kind := a.kind.withJobs (j :: js), sent := sent }
    | none => let r := s.doJob a j; r.1.doJobs r.2 js

/-- GLOBAL_WRITE_PERFORM: the first access of A is a store or scatter that has left the core (R264). -/
def execGlobalWritePerform (s : State) : Host.Outcome State Fault Refusal :=
  .next (match s.core.live.firstAcc .a with
    | some a =>
      match a.kind with
      | .write js => if a.left && !a.sent then s.doJobs a js else s
      | _ => s
    | none => s)

/-- REDUCTION_PERFORM: the first access of A is a reduction that has left the core (R249, R264). -/
def execReductionPerform (s : State) : Host.Outcome State Fault Refusal :=
  .next (match s.core.live.firstAcc .a with
    | some a =>
      match a.kind with
      | .reduce js => if a.left && !a.sent then s.doJobs a js else s
      | _ => s
    | none => s)

/-! ### Atomics (R246, R251, R270) -/

/-- The issue of the atomic at the program counter of A and its destination. -/
def EngState.atomicAt (x : EngState) : Option (Issue × BitVec 5) :=
  match x.fetched with
  | .atOp cu q base off v op sc => some (atIssue cu q base off v op sc, q)
  | .cas cu q base off cr n sc => some (casIssue cu q base off cr n sc, q)
  | _ => none

/-- The atomic of A with number seq returns v: it is written and the instruction completes, in the core and in every state of
its undo ring that has issued it (R202, R246). -/
def State.endAtomic (s : State) (seq : Nat) (v : Word) : State :=
  let fin := fun (l : Live) =>
    if l.ea.started && decide (l.ea.phase = 1) && decide (l.ea.phaseSeq = seq) then
      match l.ea.atomicAt with
      | some (p, d) =>
        (p.finish ({ s with cur := .a }.setLive ((l.dropAcc seq).modEng .a fun x => x.setS d v))).core.live
      | none => l.dropAcc seq
    else l.dropAcc seq
  s.modAll fin

/-- The atomic of A with number seq raises a fault, once every earlier instruction of A has completed (R194, R246). -/
def State.failAtomic (s : State) (seq : Nat) (code : Nat) (va : DWord) : State :=
  if s.core.live.ea.retire.isEmpty then
    (s.modLive fun l => l.dropAcc seq).take .a (vaTrap code va)
  else s

/-- ATOMIC_PERFORM: the first access of A is an atomic that has left the core (R246, R264, R270). -/
def execAtomicPerform (s : State) : Host.Outcome State Fault Refusal :=
  .next (match s.core.live.firstAcc .a with
    | some a =>
      match a.kind with
      | .atomic p op cmp v _ =>
        if a.left && !a.sent then
          match s.gate p false (.atomic (paOff p.pa) op cmp v (p.sm != 0)) with
          | some (s', sent) => s'.putAcc { a with sent := sent }
          | none =>
            match s.route s.ctxId p.pa with
            | .lost => (s.lerr 4).endAtomic a.seq 0xFFFFFFFF
            | _ =>
              let x := paOff p.pa
              let r := (s.snoopsUsed x 4).arriveRmw s.me s.ctxId false x p.key op cmp v (if p.sm = 0 then none else some 0x7F7F)
                (.atomic s.core.num a.seq)
              match r.2 with
              | .old w => r.1.endAtomic a.seq w
              | .waits => r.1.putAcc { a with waits := 1 }
              | .poisoned => (s.snoopsUsed x 4).failAtomic a.seq 0x15 p.va
              | .held => (s.snoopsUsed x 4).failAtomic a.seq 0x14 p.va
        else s
      | _ => s
    | none => s)

/-! ### Releases (R267, R273, R280) -/

/-- The generations after a release at scope k: those of k and every narrower scope rise by 1 (R267). -/
def advanceGens (gs : Vector DWord 4) (k : Nat) : Vector DWord 4 := Vector.ofFn fun i => if i.val < k then gs[i] + 1 else gs[i]

/-- The peers of the focused core's fabric group that are not lost. -/
def State.livePeers (s : State) : List Nat :=
  match s.ctxAt s.ctxId with
  | some c => (List.range c.fabric.length).filter fun i => i != c.self && !c.lost.contains i
  | none => []

/-- The focused core releases at scope k (R267): a release at `.grp` is told to every module of the group. -/
def State.release (s : State) (k : Nat) : State :=
  let s1 := { s with core := { s.core with gens := advanceGens s.core.gens k } }
  if k = 4 then
    ({ s1 with outbox := s1.outbox ++ [Msg.release s1.ctxId s1.me (s1.gensOf s1.me)] }).modCtx s1.ctxId fun c =>
      { c with traffic := s1.livePeers.foldl (fun t i => insertSorted i t) c.traffic }
  else s1

/-- A release covers the instruction of A under number n: for A, one that precedes it in issue order; for another engine, one whose
completion a cue point, tokens or a semaphore order before it (R273, log 32). -/
def Live.covers (l : Live) (a : Access) (n : Nat) : Bool :=
  match a.eng with
  | .a => decide (n < a.seq)
  | _ => decide (n < l.told.floor) || a.known.contains n

/-- Every write that a release covers is performed, and every covered copy is finished (R273). -/
def State.covered (s : State) (a : Access) : Bool :=
  (s.core.live.acc.all fun x => !(decide (x.eng = .a) && s.core.live.covers a x.seq)) &&
    vall s.core.chans fun c => c.queue.all fun x => !s.core.live.covers a x.seq

/-- The release of an access is complete (R267). -/
def State.endRelease (s : State) (a : Access) : State := s.modAll fun l => (l.dropAcc a.seq).retireDone a.eng a.seq

/-- A release waits for the homes of these peers; with none left it is complete (R267). -/
def State.awaitPeers (s : State) (a : Access) (k : Nat) (peers : List Nat) : State :=
  if peers.isEmpty then s.endRelease a else s.putAcc { a with kind := .release k (some peers), sent := true }

/-- GENERATION_ADVANCE: the first access of engine e is a release whose writes are all performed: the generations advance, and a
release at `.grp` waits for the homes of every module of the group that is not lost (R267, R273, R274). -/
def execGenerationAdvance (e : Engine) (s : State) : Host.Outcome State Fault Refusal :=
  .next (match s.core.live.firstAcc e with
    | some a =>
      match a.kind with
      | .release k none =>
        if s.covered a then (s.release k).awaitPeers a k (if k = 4 then s.livePeers else []) else s
      | _ => s
    | none => s)

/-- The resident act releases at scope k as it leaves its core, and then f is done: at once, or when the homes of every other module
have applied the release (R30, R267, R279). -/
def State.afterRelease (s : State) (k : Nat) (f : State → State) : State :=
  match s.core.releasing with
  | some [] => f s
  | some _ => s
  | none =>
    let away := if k = 4 then s.livePeers else []
    let s1 := s.release k
    if away.isEmpty then f s1 else { s1 with core := { s1.core with releasing := some away } }

/-! ### Copies (R250, R251, R282, R365) -/

/-- Change copy channel ch. -/
def State.modChan (s : State) (ch : Nat) (f : Channel → Channel) : State :=
  { s with core := { s.core with chans := vset s.core.chans ch (f (vget s.core.chans ch ⟨0, []⟩)) } }

/-- The command that channel ch performs. -/
def State.copyHead (s : State) (ch : Nat) : Option CopyCmd := (vget s.core.chans ch ⟨0, []⟩).queue.head?

/-- Replace the command that channel ch performs. -/
def State.putCopy (s : State) (ch : Nat) (c : CopyCmd) : State := s.modChan ch fun x => { x with queue := c :: x.queue.drop 1 }

/-- The current source and destination addresses of a copy (R250). -/
def CopyCmd.srcVa (c : CopyCmd) : DWord := c.src + BitVec.ofInt 64 (c.row * c.ss) + BitVec.ofNat 64 c.off
def CopyCmd.dstVa (c : CopyCmd) : DWord := c.dst + BitVec.ofInt 64 (c.row * c.ds) + BitVec.ofNat 64 c.off

/-- An access is a copy command on its way to channel ch (R297). -/
def Access.copyTo (a : Access) (ch : Nat) : Bool :=
  match a.kind with
  | .copy c _ => c == ch
  | _ => false

/-- The channel stops before a sector: COPY is logged and its queue discarded, commands that have not yet left the core included
(R250, R297); nothing waits for it any more (R340, R357). -/
def State.stopCopy (s : State) (ch : Nat) (va : DWord) : State :=
  ((((s.unpledge (· == snoopChan s.core.num ch)).forgetAsks s.ctxId (16 * s.core.num + ch + 1)).modChan ch fun x => { x with queue := [] }).modAll fun l => { l with acc := l.acc.filter fun a => !a.copyTo ch }).logOp 0x42 .a
    (BitVec.ofNat 32 ch) (va.setWidth 32)

/-- A sector has been moved: CWP advances, and the command goes on or is finished (R250, R365). CE shows the error value of a lost peer
that has been written (R189). -/
def State.nextSector (s : State) (ch : Nat) (c : CopyCmd) : State :=
  let last := decide (c.len ≤ c.off + 64)
  let c1 := { c with row := if last then c.row + 1 else c.row, off := if last then 0 else c.off + 64, sent := none, got := none,
                     ones := false }
  (((if c.ones then s.lerr 3 else s).bump 14).modChan ch fun x =>
    { x with cwp := x.cwp + 64, queue := if c1.row < c1.rows then c1 :: x.queue.drop 1 else x.queue.drop 1 })

/-- What a copy reads: bytes, scales, poison. -/
abbrev CopyData := List Byte × BitVec 16 × Bool

/-- Write the sector of a copy at this module's home; an alias destination is 16 ordered reductions (R248, R250), and a poisoned source
makes a poisoned sector (R250, R260). -/
def State.copyHere (s : State) (ch : Nat) (c : CopyCmd) (p : Piece) (d : CopyData) : State :=
  let a := paOff p.pa
  let go := fun (r : State × Bool) => if r.2 then r.1.putCopy ch { c with sent := some true } else r.1.nextSector ch c
  if (s.conflictIn s.holds s.me a 64).isSome then s.stopCopy ch c.dstVa
  else if d.2.2 then go (s.arrivePoison s.me s.ctxId (a / 64) p.key (.copy s.core.num ch))
  else if p.alias then
    go ((List.range 16).foldl (fun r i =>
      let y := r.1.arriveRmw s.me s.ctxId true (a + 4 * i) p.key (paOpc p.pa) none
        (BitVec.ofNat 32 (natOfBytes ((d.1.drop (4 * i)).take 4))) (if p.sm = 0 then none else some 0x7F7F)
        (if i = 15 then .copy s.core.num ch else .collective)
      (y.1, y.2 == .waits)) (s, false))
  else go (s.arriveWrite s.me s.ctxId true (a / 64) p.key (d.1.map some) (if p.sm = 0 then none else some d.2.1) (.copy s.core.num ch))

/-- The write half of a sector's move. -/
def State.copyWrite (s : State) (ch : Nat) (c : CopyCmd) (p : Piece) (d : CopyData) : State :=
  match s.route s.ctxId p.pa with
  | .lost => (s.lerr 4).nextSector ch { c with ones := false }
  | .host =>
    if !s.host.linked then s
    else if (s.conflictIn s.host.holds s.me (paHost p.pa) 64).isSome then s.stopCopy ch c.dstVa
    else
      let r := s.writeHost (access 0 .a (.write []) true) p true d.1 d.2.2
      r.1.nextSector ch c
  | .peer n =>
    (s.request n p.key (.write (rangeOff p.pa) d.1 (if p.sm = 0 then [] else scaleBytes [d.2.1]) true (some d.2.2))).putCopy ch
      { c with sent := some true }
  | .here =>
    let need := s.needSnoop (snoopChan s.core.num ch) (paOff p.pa) 64
    if need.isEmpty then (s.copyHere ch c p d).useSnoops (snoopChan s.core.num ch) (paOff p.pa) 64
    else s.sendSnoops (snoopChan s.core.num ch) need

/-- The read half: the command with the data of the source sector, or the state in which the channel waits or stops (R251, R260, R270). The
error value of a lost peer comes with scales 0x7F: DESIGN CHOICE, log 29, as the spec names no scales for it. -/
def State.copyRead (s : State) (ch : Nat) (c : CopyCmd) (p : Piece) : State ⊕ (State × CopyCmd × CopyData) :=
  match c.got with
  | some (v, sc, bad) => .inr (s, c, bytesOfNat 64 v.toNat, sc, bad)
  | none =>
    match s.route s.ctxId p.pa with
    | .lost =>
      let c1 := { c with got := some (BitVec.allOnes 512, 0x7F7F, false), ones := true }
      .inr (s.putCopy ch c1, c1, onesBytes 64, 0x7F7F, false)
    | .peer n => .inl ((s.request n p.key (.read (rangeOff p.pa) 64)).putCopy ch { c with sent := some false })
    | .host =>
      if !s.host.linked then .inl s
      else if (s.conflictIn s.host.holds s.me (paHost p.pa) 64).isSome then .inl (s.stopCopy ch c.srcVa)
      else .inr (s, c, Sparse.read 0 s.host.mem (paHost p.pa) 64, 0x7F7F, (s.hostPoisonIn (paHost p.pa) 64).isSome)
    | .here =>
      let a := paOff p.pa
      let who := snoopChan s.core.num ch
      let need := s.needSnoop who a 64
      if s.waitingOn a 64 then .inl s
      else if !need.isEmpty then .inl (s.sendSnoops who need)
      else if (s.conflictIn s.holds s.me a 64).isSome then .inl (s.stopCopy ch c.srcVa)
      else .inr ((s.useSnoops who a 64).homeReads s.me a 64, c, s.homeBytes p.key a 64, s.scalesOf (a / 64), s.poisoned (a / 64))

/-- The one piece of a sector whose checks 3 to 5 passed, or the state in which the channel waits or stops (R250, R340); the translation
found fills the TLBs, and a walk without a valid result is counted (R341, R389). -/
def State.copyPiece (s : State) (ch : Nat) (write : Bool) (va : DWord) : State ⊕ (State × Piece) :=
  let w : Want := { write := write, who := ch + 1 }
  match s.checkPage s.core.num s.ctxId w va 64 0 with
  | .trap t tr =>
    .inl ((((s.fillTlbs s.core.num tr.toList).missed s.core.num t).seeTrap s.ctxId t (w.waiter s.core.num)).stopCopy ch va)
  | .cow p t => .inl ((s.fillTlb s.core.num t).askCow s.ctxId p (w.waiter s.core.num))
  | .ok p t => .inr (s.fillTlb s.core.num t, p)

/-- A full-image suspension keeps the copies that are left (R331): no release waits for them any more. -/
def State.copiesStop (s : State) : Bool :=
  s.core.live.acc.isEmpty && (match s.core.ending with
    | some (.image _) => true
    | _ => false)

/-- COPY_SECTOR_TRANSFER: channel ch moves one sector of its oldest command, once every earlier access of A is performed
(R250, R282). -/
def execCopySectorTransfer (ch : Nat) (s : State) : Host.Outcome State Fault Refusal :=
  .next (match s.copyHead ch with
    | none => s
    | some c =>
      if c.sent.isSome || s.copiesStop || (s.core.live.acc.any fun a => decide (a.eng = .a) && decide (a.seq < c.seq)) then s
      else if c.rows ≤ c.row ∨ c.len = 0 then s.modChan ch fun x => { x with queue := x.queue.drop 1 }
      else match s.copyPiece ch false c.srcVa with
        | .inl s' => s'
        | .inr (s1, ps) =>
          match s1.copyPiece ch true c.dstVa with
          | .inl s' => s'
          | .inr (s2, pd) =>
            match s2.copyRead ch c ps with
            | .inl s' => s'
            | .inr (s3, c1, d) => s3.copyWrite ch c1 pd d)

/-! ### Answers of peers (R251, R256, R260, R270, R346, R395) -/

/-- Some link that routes to a peer of a context carries flits; an entry for which no link is listed is always reached (R344, R395,
log 28). -/
def State.linked (s : State) (ctx peer : Nat) : Bool :=
  match (s.ctxAt ctx).map fun c => c.routes.getD peer [] with
  | some (l :: ls) => (l :: ls).any fun i => match s.links[i]? with
      | some k => !k.down && !k.retraining
      | none => false
  | _ => true

/-- Every one of these peers may be heard (R395). -/
def State.hears (s : State) (ctx : Nat) (peers : List Nat) : Bool := peers.all fun n => s.linked ctx n

/-- A peer whose loss is noticed will be recorded as lost (R396). -/
def Ctx.notice (c : Ctx) (peer : Nat) : Ctx :=
  if peer < c.fabric.length ∧ peer ≠ c.self ∧ c.lost.contains peer = false then
    { c with lossDue := insertSorted peer c.lossDue }
  else c

/-- A link is down. -/
def State.linkDown (s : State) (i : Nat) : Bool :=
  match s.links[i]? with
  | some l => l.down
  | none => true

/-- Peers to which no link route is left are noticed (R396). -/
def State.noticeRoutes (s : State) : State :=
  { s with ctxs := s.ctxs.map fun c =>
      (c.1, (c.2.routes.zipIdx.filter fun r => !r.1.isEmpty && r.1.all s.linkDown).foldl (fun c r => c.notice r.2) c.2) }

/-- A peer's answer to a piece of a load. -/
def State.answerLoad (s : State) (a : Access) (q : Nat) (ps : List Piece) (scaled : Bool) (hint : BitVec 2) (whole : Bool)
    (ans : RemoteAns) : State :=
  match ps with
  | [] => s
  | p :: rest =>
    let f : LEntry → LEntry := fun e =>
      match ans with
      | .done bs =>
        let e1 := e.put p.off (bs.take p.len)
        let scs := (List.range (sectorsOf (rangeOff p.pa) p.len).length).map fun i =>
          BitVec.ofNat 16 ((bs.getD (p.len + 2 * i) 0x7F).toNat + 256 * (bs.getD (p.len + 2 * i + 1) 0x7F).toNat)
        if scaled then e1.putScales p.sm p.off scs else e1
      | .poisoned o => e.markPoison (unitVa p (rangeOff p.pa) (64 * ((rangeOff p.pa + o) / 64)))
      | .held o => e.markMmx (unitVa p (rangeOff p.pa) (16 * ((rangeOff p.pa + o) / 16)))
      | .keyRefused o => e.markRefused (unitVa p (rangeOff p.pa) (64 * ((rangeOff p.pa + o) / 64)))
      | .protRefused _ => e
    s.modAll fun l => (l.modEntry q a.seq f).modAcc a.seq fun x =>
      { x with sent := false, kind := .load q rest scaled hint whole }

/-- A peer's answer to a job of a write or reduction. -/
def State.answerJob (s : State) (a : Access) (js : List Job) (ans : RemoteAns) : State :=
  match js with
  | [] => s
  | j :: rest =>
    let va := fun (o : Nat) => j.piece.va + BitVec.ofNat 64 o
    let a1 := match ans with
      | .held o => a.noteConf (va o)
      | .keyRefused o => a.noteKey (va o)
      | .protRefused o => a.noteProt (va o)
      | _ => a
    s.putAcc { a1 with sent := false, kind := a.kind.withJobs rest }

/-- A peer's answer to an atomic. -/
def State.answerAtomic (s : State) (a : Access) (p : Piece) (ans : RemoteAns) : State :=
  match ans with
  | .done bs => s.endAtomic a.seq (BitVec.ofNat 32 (natOfBytes (bs.take 4)))
  | .poisoned _ => s.failAtomic a.seq 0x15 p.va
  | .held _ => s.failAtomic a.seq 0x14 p.va
  | .keyRefused _ => s.failAtomic a.seq 0x10 p.va
  | .protRefused _ => s.failAtomic a.seq 0x11 p.va

/-- A peer's answer to a copy channel. -/
def State.answerCopy (s : State) (ch : Nat) (c : CopyCmd) (wr : Bool) (ans : RemoteAns) : State :=
  match ans with
  | .done bs =>
    if wr then s.nextSector ch c
    else s.putCopy ch { c with sent := none, got := some (BitVec.ofNat 512 (natOfBytes (bs.take 64)),
      BitVec.ofNat 16 ((bs.getD 64 0x7F).toNat + 256 * (bs.getD 65 0x7F).toNat), false) }
  | .poisoned _ => if wr then s.nextSector ch c else s.putCopy ch { c with sent := none, got := some (0, 0x7F7F, true) }
  | _ => s.stopCopy ch (if wr then c.dstVa else c.srcVa)

/-- The peer to which a copy has a request outstanding. -/
def State.peerOfCopy (s : State) (c : CopyCmd) : Option Nat :=
  match c.sent with
  | none => none
  | some wr =>
    match s.checkPage s.core.num s.ctxId { write := wr } (if wr then c.dstVa else c.srcVa) 64 0 with
    | .ok p _ => match s.route s.ctxId p.pa with
      | .peer n => some n
      | _ => none
    | _ => none

/-- The first copy channel with a request outstanding to a peer that may be heard (R395). -/
def State.sentCopy (s : State) : Option (Nat × CopyCmd × Bool) :=
  (List.range 8).findSome? fun ch => match s.copyHead ch with
    | some c => if (s.peerOfCopy c).any (s.linked s.ctxId) then c.sent.map fun wr => (ch, c, wr) else none
    | none => none

/-! ### Waiting writes are settled (R256) -/

/-- Lines in host bias whose snoop a waiting write still needs before it performs; a host write needs none (R357). -/
def State.lateSnoops (s : State) (w : Waiting) : List Nat :=
  match w.who with
  | .host _ => []
  | _ => s.needSnoop (snoopLate w.stamp) (64 * w.sector) 64

/-- Perform a waiting write as an in-base operation and a write of the open round, with what its issuer is told (R252, R256). -/
def State.performWaiting (s : State) (w : Waiting) : State × RmwRes :=
  match w.act with
  | .write mask scales => ((s.performWrite w.who w.sector w.key mask scales).inBase w.sector, .old 0)
  | .rmw k op cmp v scales =>
    let r := s.tryRmw w.who w.sector w.key k op cmp v scales (returnsOld w.ret)
    (match r.2 with
      | .old _ => r.1.inBase w.sector
      | _ => r.1, r.2)
  | .poison => ((s.performPoison w.who w.sector).inBase w.sector, .old 0)

/-- What the issuer of a waiting write that is discarded is told: an atomic's word as it stands. -/
def State.discardWaiting (s : State) (w : Waiting) : RmwRes :=
  match w.act with
  | .rmw k _ _ _ _ => .old (s.homeWord w.key (64 * w.sector + 4 * k))
  | _ => .old 0

/-- Do f with core n in focus. -/
def State.onCore (s : State) (n : Nat) (f : State → State) : State := (f (s.focus n)).focus s.core.num

/-- What a peer is told of an atomic that has been settled. -/
def RmwRes.answer (r : RmwRes) : RemoteAns :=
  match r with
  | .old v => .done (bytesOfNat 4 v.toNat)
  | .poisoned => .poisoned 0
  | .held => .held 0
  | .waits => .done []

/-- Tell the issuer that its waiting write is settled. An atomic whose word is poisoned or held is tried again, and faults then. -/
def State.tellSettled (s : State) (ret : WaitRet) (res : RmwRes) : State :=
  match ret with
  | .access n seq => s.onCore n fun s =>
      match s.core.live.acc.find? fun a => a.seq == seq with
      | some a =>
        let a1 := { a with waits := a.waits - 1 }
        match a1.kind with
        | .write [] => s.endWrite a1
        | .reduce [] => s.endWrite a1
        | _ => s.putAcc a1
      | none => s
  | .atomic n seq => s.onCore n fun s =>
      match res with
      | .old v => s.endAtomic seq v
      | _ => s.modAll fun l => l.modAcc seq fun a => { a with waits := 0 }
  | .peer ctx p ans => match ans with
      | some x => { s with notices := s.notices ++ [.peerAnswer ctx p x] }
      | none => s
  | .peerOld ctx p => { s with notices := s.notices ++ [.peerAnswer ctx p res.answer] }
  | .copy n ch => s.onCore n fun s => match s.copyHead ch with
      | some c => s.nextSector ch c
      | none => s
  | .host => s
  | .collective => s

/-- Settle waiting writes of a context in arrival order: performed, or discarded after a roll-back (R256, R375). One whose line the
host still has to give up stays, with those behind it (R357). -/
def State.settleWaiting (ctx : Nat) (discard : Bool) : List Waiting → State → State
  | [], s => s
  | w :: ws, s =>
    let used := fun (s : State) => s.unpledge (· == snoopLate w.stamp)
    if discard then State.settleWaiting ctx discard ws ((used s).tellSettled w.ret (s.discardWaiting w))
    else
      let need := s.lateSnoops w
      if need.isEmpty then
        let r := s.performWaiting w
        State.settleWaiting ctx discard ws ((used r.1).tellSettled w.ret r.2)
      else (s.sendSnoops (snoopLate w.stamp) need).modCtx ctx fun c => { c with waiting := w :: ws ++ c.waiting }

/-- The writes that wait for a group of a context are settled when its STATE becomes OPEN (R256). -/
def State.settleGroup (s : State) (ctx grp : Nat) (discard : Bool) : State :=
  match s.ctxAt ctx with
  | none => s
  | some c =>
    State.settleWaiting ctx discard (c.waiting.filter fun w => w.grp == grp)
      (s.modCtx ctx fun c => { c with waiting := c.waiting.filter fun w => w.grp != grp })

/-- Writes that still wait for a snoop in groups that are OPEN are tried again (R256, R357). -/
def State.settleLate (s : State) : State :=
  s.ctxs.foldl (fun s c => ((c.2.waiting.map (·.grp)).eraseDups.filter fun g => s.groupOpen c.1 g).foldl (fun s g =>
    s.settleGroup c.1 g false) s) s

end Sys2Proof.Machine
end

