-- ==== Sys2Proof/Machine/Stacks.lean ====
section
/-! DEFINITION. The stacks, translations and the host port as agents of their own: walks, copy-on-write resolutions and
invalidations, evictions, scrub and refresh, bias and keys, host accesses and host releases (R235, R258 to R261, R268, R340
to R345, R356 to R358, R392 to R394). -/

namespace Sys2Proof.Machine

open Sys2Proof

/-- Tell the outside something. -/
def State.tell (s : State) (n : Notice) : State := { s with notices := s.notices ++ [n] }

/-- Write a status to byte 0 of a command's slot; a poisoned line of host memory changes only as a whole (R250, R392). -/
def State.putStatus (s : State) (x : Nat × Nat) : State :=
  if s.host.poison.contains (x.1 / 64) then s
  else { s with host := { s.host with mem := Sparse.write 0 s.host.mem x.1 [BitVec.ofNat 8 x.2] } }

/-- The statuses that have waited for the host link are written (R392, R394). -/
def State.flushDue (s : State) : State :=
  if s.host.serves then
    let s1 := s.host.due.foldl State.putStatus s
    { s1 with host := { s1.host with due := [] } }
  else s

/-- Address of the 64-byte slot of the admin command that completes next: 2^SIZE slots stand from ADMBASE on (R392). -/
def HostPort.slot (h : HostPort) : Nat := h.admBase.toNat / 4096 * 4096 + 64 * (h.admDone.toNat % 2 ^ (h.admBase.toNat % 16))

/-- The status of the oldest admin command that is not complete goes to its slot, once the host link carries it; a lost host takes none
(R392, R394; log 26). -/
def State.answerSlot (s : State) (code : Nat) : State :=
  if s.host.admDone = s.host.admHead then s
  else State.flushDue { s with host := { s.host with
    admDone := s.host.admDone + 1,
    due := if s.host.lost then s.host.due else s.host.due ++ [(s.host.slot, code)] } }

/-- A command of the stage manager completes with a status code of R400, which is told, and written to its slot (R392). -/
def State.status (s : State) (code : Nat) : State := (s.answerSlot code).tell (.status code)

/-- Status codes (R400): OK, REFUSED, BUSY. -/
def stOk : Nat := 0x00
def stRefused : Nat := 0x03
def stBusy : Nat := 0x04

/-- Complete a command with OK when it may be done, and refuse it with no change otherwise (R400). -/
def State.command (s : State) (ok : Bool) (f : State → State) : State := if ok then (f s).status stOk else s.status stRefused

/-! ### Translations (R340 to R343) -/

/-- Core n and its cluster forget what they hold of a virtual address of a context. -/
def State.forget (s : State) (n ctx va : Nat) : State :=
  ({ s with clusTlb := s.clusTlb.filter fun t => !(t.1 == clusterOf n && t.2.covers ctx va) }).modCore n fun c =>
    { c with tlb := c.tlb.filter fun t => !t.covers ctx va }

/-- TLB_MISS_WALK: a walk for the focused core reads the tables and fills its TLB and its cluster's; an invalid result is not
cached (R341). -/
def execTlbMissWalk (ctx : Nat) (va : DWord) (s : State) : Host.Outcome State Fault Refusal :=
  .next (if va.toNat / 2 ^ 56 = 0 then
    match s.walk ctx va.toNat with
    | some t => (s.forget s.core.num ctx va.toNat).fillTlb s.core.num t
    | none => s
  else s)

/-- Every TLB forgets the entries of a context that reach into [lo, hi) (R343). -/
def State.invalidate (s : State) (ctx lo hi : Nat) : State :=
  let keep := fun (t : Trans) => !(t.ctx == ctx && decide (t.va < hi) && decide (lo < t.va + t.size))
  ({ s with clusTlb := s.clusTlb.filter fun t => keep t.2 }).modCores fun c => { c with tlb := c.tlb.filter keep }

/-- INVALIDATION: no TLB of the module holds an entry of the context in the range any more (R343). -/
def execInvalidation (ctx lo hi : Nat) (s : State) : Host.Outcome State Fault Refusal :=
  .next ((s.invalidate ctx lo hi).status stOk)

/-- Address of the leaf entry that translates a virtual address (R337). -/
def State.leafFrom (s : State) (va t level : Nat) : Nat → Option Nat
  | 0 => none
  | n + 1 =>
    let a := t + 8 * walkIndex va level
    let e := s.entry a
    if !e.testBit 0 then none
    else if e.testBit 4 then some a
    else s.leafFrom va (e / 2 ^ 12 % 2 ^ 40 * 2 ^ 12) (level + 1) n

/-- The addresses of the leaf entries of a translation: 16 in a 64 KiB group (R339). -/
def State.leavesOf (s : State) (ctx va : Nat) (t : Trans) : List Nat :=
  match (s.ctxAt ctx).bind fun c => s.leafFrom va c.ttb.toNat 0 5 with
  | some a => if t.group then (List.range 16).map fun i => a / 128 * 128 + 8 * i else [a]
  | none => []

/-- A leaf entry with a new page, W = 1 and COW = 0 (R340). -/
def resolvedEntry (e pa : Nat) : Nat :=
  e % 2 ^ 12 - (if e.testBit 3 then 8 else 0) + (if e.testBit 2 then 0 else 4) + pa / 2 ^ 12 % 2 ^ 40 * 2 ^ 12 + e / 2 ^ 52 * 2 ^ 52

/-- Sectors of [a, a + n) that hold something of their own: written ones and deferred ones. -/
def State.writtenIn (s : State) (a n : Nat) : List Nat :=
  let hit := fun (k : Nat) => decide (a ≤ 64 * k) && decide (64 * k < a + n)
  (s.secKey.map (·.1)).filter hit ++
    s.ctxs.flatMap fun c => c.2.prot.flatMap fun p => (p.2.deferred.map (·.sector)).filter hit

/-- The bytes [a, a + n) of stacked memory are zero with scales 0x7F, unpoisoned, written under no key, and no cache or hold
knows them. -/
def State.blank (s : State) (a n : Nat) : State :=
  let keep := fun (k : Nat) => decide (64 * k < a) || decide (a + n ≤ 64 * k)
  ({ s with mem := Sparse.clear s.mem a (a + n), secScale := Sparse.clear s.secScale (a / 64) ((a + n) / 64),
            poison := s.poison.filter keep, secKey := s.secKey.filter fun k => keep k.1,
            l2 := s.l2.filter fun l => keep l.line,
            holds := s.holds.filter fun h => keep (h.1 / 4) }).modCores fun c =>
    { c with l1 := c.l1.filter fun l => keep l.line }

/-- Copy n bytes of stacked memory from a to b under a key, with scales and poison, the destination being fresh (R340). -/
def State.copyPage (s : State) (key : Byte) (a b n : Nat) : State :=
  let s1 := (s.writtenIn a n).foldl (fun r k =>
      r.storeSector (k - a / 64 + b / 64) key ((bytesOfNat 64 (s.sectorRead k key).toNat).map some) (some (s.scalesOf k)))
    (s.blank b n)
  let bad := ((s.writtenIn a n) ++ s.poison).filter fun k => s.poisoned k && decide (a ≤ 64 * k) && decide (64 * k < a + n)
  { s1 with poison := bad.foldl (fun ps k => insertSorted (k - a / 64 + b / 64) ps) s1.poison }

/-- Copy n bytes of host memory into a fresh page of stacked memory (R340). -/
def State.copyHostPage (s : State) (key : Byte) (a b n : Nat) : State :=
  let cells := s.host.mem.filter fun c => decide (a ≤ c.1) && decide (c.1 < a + n)
  (cells.map fun c => c.1 / 64).eraseDups.foldl (fun r k =>
    r.storeSector (k - a / 64 + b / 64) key ((Sparse.read 0 s.host.mem (64 * k) 64).map some) (some 0x7F7F)) (s.blank b n)

/-- Write 8 bytes of a page table. -/
def State.setEntry (s : State) (a v : Nat) : State := { s with mem := Sparse.write 0 s.mem a (bytesOfNat 8 v) }

/-- The page of a translation may be read: host memory only over a link that carries transactions (R394). -/
def State.pageReach (s : State) (t : Trans) : Bool := paSpace (BitVec.ofNat 52 t.pa) != 2 || s.host.linked

/-- Pages of a context that wait for a resolution, outside a translation. -/
def Ctx.answered (c : Ctx) (t : Trans) : Ctx :=
  { c with cowAsked := c.cowAsked.filter fun p => !(decide (t.va ≤ p.1.toNat) && decide (p.1.toNat < t.va + t.size)) }

/-- The stage manager's new page may take the place of a translation's: it is well placed in local stacked memory, and no area of a
protected-region entry in use has any of it (R353). -/
def State.freshPage (s : State) (t : Trans) (pa : BitVec 52) : Bool :=
  pa.toNat % t.size == 0 && paSpace pa == 0 && paOpc pa == 0 && paFormed pa &&
    s.guarded.all fun k => decide (4096 * k + 4096 ≤ paOff pa) || decide (paOff pa + t.size ≤ 4096 * k)

/-- Sectors that a peer has returned of its page take their places in a fresh page of stacked memory (R340). -/
def State.copyFarPage (s : State) (key : Byte) (a b n : Nat) (far : List SavedSector) : State :=
  (far.filter fun x => decide (a ≤ x.addr) && decide (x.addr + 64 ≤ a + n) && x.addr % 64 == 0).foldl (fun r x =>
    r.storeSector (x.addr / 64 - a / 64 + b / 64) key ((x.data ++ List.replicate (64 - x.data.length) 0).map some |>.take 64)
      (some x.scales)) (s.blank b n)

/-- The page of a translation is copied to local stacked memory; of a peer's page, what its owner has returned. -/
def State.cowCopy (s : State) (c : Ctx) (t : Trans) (pa : BitVec 52) (far : List SavedSector) : State :=
  let old := BitVec.ofNat 52 t.pa
  if c.isLocal old then s.copyPage t.key (paOff old) (paOff pa) t.size
  else if paSpace old = 2 then s.copyHostPage t.key (paHost old) (paOff pa) t.size
  else s.copyFarPage t.key (paOff old) (paOff pa) t.size far

/-- COW_RESOLUTION: the stage manager answers for a page that writes wait for: a new page with a copy of the old one, its leaf
rewritten and the range invalidated, or a refusal, which every access that waits sees (R340). What the owner of a peer's page has
returned, sectors by their offset in its range, comes with the new page (log 24). A page in host memory is read over the host link, for
which the resolution waits (R394). -/
def execCowResolution (ctx : Nat) (va : DWord) (page : Option (BitVec 52 × List SavedSector)) (s : State) :
    Host.Outcome State Fault Refusal :=
  .next (match s.ctxAt ctx, s.walk ctx va.toNat with
    | some c, some t =>
      if !(c.cowAsked.any fun p => p.1 == BitVec.ofNat 64 (va.toNat / 4096 * 4096)) then s
      else match page with
        | none => s.modCtx ctx fun c =>
            let c1 := c.answered t
            { c1 with cowRefused := c1.cowRefused ++ c.cowAsked.filter fun p => !c1.cowAsked.contains p }
        | some (pa, far) =>
          if !s.freshPage t pa || !s.pageReach t then s
          else
            let s1 := s.cowCopy c t pa far
            let s2 := (s1.leavesOf ctx va.toNat t).foldl (fun r a => r.setEntry a (resolvedEntry (r.entry a) pa.toNat)) s1
            (s2.invalidate ctx t.va (t.va + t.size)).modCtx ctx fun c => c.answered t
    | _, _ => s)

/-! ### The memory-side cache and the sequencers (R258 to R261, R385) -/

/-- A key belongs to exactly one live context (R261). -/
def State.soleOwner (s : State) (key : Nat) : Bool := (s.ctxs.filter fun c => s.keyBound key c.1).length == 1

/-- DIRTY_LINE_EVICTION: the memory-side cache writes a dirty line back; an uncorrectable one is poisoned, and orphan poison is
told to the stage manager (R238, R261). -/
def execDirtyLineEviction (line : Nat) (bad : Bool) (s : State) : Host.Outcome State Fault Refusal :=
  .next (if s.l2.any fun l => l.line == line && l.dirty then
    let s1 := { s with l2 := s.l2.filter fun l => l.line != line }
    if bad then
      let s2 := { s1 with poison := insertSorted line s1.poison }
      if s.soleOwner (match assoc s.secKey line with | some k => k.1.toNat | none => 0) then s2
      else s2.tell (.orphan (64 * line))
    else s1
  else s)

/-- The pseudo-channel of a sector: stack, and channel in the stack (R234). -/
def pcOf (sec : Nat) : Nat := 512 * (sec / 2 ^ 30) + Nat.xor (sec % 512) (sec / 512 % 512)

/-- Count a corrected sector; the one that makes a pseudo-channel lasting is told to the stage manager (R239, R385). -/
def State.countCorrected (s : State) (sec : Nat) : State :=
  let n := Sparse.get 0 s.stackCor (pcOf sec) + 1
  let s1 := { s with stackCor := Sparse.set 0 s.stackCor (pcOf sec) n }
  if n = 4096 then s1.tell (.pseudoChannel (pcOf sec / 512) (pcOf sec % 512)) else s1

/-- SCRUB_READ: a patrol read of a sector with an error over some symbols: up to four are corrected and written back in base,
five to ten poison it, and more poison it, or are taken for a smaller error and written back as a wrong value, or pass unseen (R239, R252,
R258, R260). A correction to a wrong value counts as one: DESIGN CHOICE, log 6, as the spec says that nothing records it. -/
def execScrubRead (sector symbols : Nat) (s : State) : Host.Outcome State Fault Refusal :=
  .next (if s.poison.contains sector || decide (2 ^ 34 ≤ sector) || symbols == 0 then s
    else if symbols ≤ 4 then (s.countCorrected sector).inBase sector
    else if symbols ≤ 10 then s.poisonSector sector
    else
      let r := s.draw
      match r.1 % 3 with
      | 0 => r.2.poisonSector sector
      | 1 => ((r.2.countCorrected sector).spoil sector).inBase sector
      | _ => r.2.spoil sector)

/-- Change the traffic state of a pseudo-channel. -/
def State.modPc (s : State) (stack pc : Nat) (f : PcState → PcState) : State :=
  if stack < 16 ∧ pc < 512 then
    { s with pcs := Sparse.set ⟨0, 0, 0⟩ s.pcs (512 * stack + pc) (f (Sparse.get ⟨0, 0, 0⟩ s.pcs (512 * stack + pc))) }
  else s

/-- FORCED_REFRESH: a refresh issues at its deadline, before everything else (R258). -/
def execForcedRefresh (stack pc : Nat) (s : State) : Host.Outcome State Fault Refusal :=
  .next (s.modPc stack pc fun p => { p with forced := p.forced + 1 })

/-- REFRESH: a refresh issues before its deadline (R258). -/
def execRefresh (stack pc : Nat) (s : State) : Host.Outcome State Fault Refusal :=
  .next (s.modPc stack pc fun p => { p with refreshes := p.refreshes + 1 })

/-- REQUEST_PROMOTION: a lower-class request that has waited long goes above demand for one command (R258). -/
def execRequestPromotion (stack pc : Nat) (s : State) : Host.Outcome State Fault Refusal :=
  .next (s.modPc stack pc fun p => { p with promoted := p.promoted + 1 })

/-! ### Bias and keys (R345, R356 to R358) -/

/-- BACK_INVALIDATE_RESPONSE: the host has given up a line, and every access that waits for it may perform (R357). -/
def execBackInvalidateResponse (line : Nat) (s : State) : Host.Outcome State Fault Refusal :=
  .next (if s.host.linked && s.host.snoops.contains line then
    State.endFlips (State.settleLate { s with host := { s.host with
      snoops := s.host.snoops.filter (· != line),
      acked := s.host.acked ++ s.host.pledged.filter fun x => x.1 == line && !s.host.acked.contains x } })
  else s)

/-- BIAS_FLIP: to host bias the bit is set at once; to device bias every line of the page is back-invalidated first (R358). A page
outside stacked memory is refused (R400). The status says that the flip has begun: it comes before the bit of a flip to device bias is
set (DESIGN CHOICE, log 24). -/
def execBiasFlip (page : Nat) (device : Bool) (s : State) : Host.Outcome State Fault Refusal :=
  .next (if 2 ^ 28 ≤ page then s.status stRefused
    else if device then
      if s.host.hostBias.contains page then
        (State.sendSnoops { s with host := { s.host with flips := insertSorted page s.host.flips } } (snoopFlip page)
          (linesOf page)).status stOk
      else s.status stOk
    else State.status { s with host := { s.host with hostBias := insertSorted page s.host.hostBias } } stOk)

/-- HOST_KEY_WINDOW_WRITE: KEY and EN of a host key window (R356). -/
def execHostKeyWindowWrite (win : Nat) (key : BitVec 8) (en : Bool) (s : State) : Host.Outcome State Fault Refusal :=
  .next (s.command (decide (win < 1024)) fun s =>
    { s with host := { s.host with
        windows := Sparse.set 0 s.host.windows win (key.setWidth 9 + if en then 256 else 0) } })

/-- A live context is bound to a key entry (R345). -/
def State.keyInUse (s : State) (idx : Nat) : Bool := s.ctxs.any fun c => s.keyBound idx c.1

/-- KEY_TABLE_WRITE: the stage manager binds an entry, or frees one to which no context is bound (R345). -/
def execKeyTableWrite (idx : Nat) (bound : Bool) (mask : DWord) (keys : BitVec 512) (s : State) :
    Host.Outcome State Fault Refusal :=
  .next (s.command (decide (idx < 256) && (bound || !s.keyInUse idx)) fun s =>
    { s with keys := if bound then assocSet s.keys idx ⟨mask, true, keys⟩ else assocDel s.keys idx })

/-! ### Host accesses (R235, R248, R256, R269, R356, R393) -/

/-- Why a host access is refused (R393). -/
inductive HostCause
  | hold
  | protection
  | window
  | partWord
  | poison
deriving DecidableEq, Repr

/-- The number of a cause in the host error log. -/
def HostCause.num (c : HostCause) : Nat :=
  match c with
  | .hold => 0
  | .protection => 1
  | .window => 2
  | .partWord => 3
  | .poison => 4

/-- The host port carries transactions, and n bytes at a range offset lie in one alias of stacked memory (R235, R394). -/
def State.hostAble (s : State) (off n : Nat) : Bool :=
  s.host.serves && decide (0 < n) && decide (off < 2 ^ 43) && decide (off % 2 ^ 40 + n ≤ 2 ^ 40)

/-- The host key window of a byte of stacked memory (R356). -/
def State.windowOf (s : State) (a : Nat) : BitVec 9 := Sparse.get 0 s.host.windows (a / 2 ^ 30)

/-- Every window that n bytes at a touch is enabled. -/
def State.windowsOn (s : State) (a n : Nat) : Bool :=
  (s.windowOf a).getLsbD 8 && (s.windowOf (a + n - 1)).getLsbD 8 &&
    ((List.range (n / 2 ^ 30)).all fun i => (s.windowOf (a + i * 2 ^ 30)).getLsbD 8)

/-- The KEY of a byte's window. -/
def State.windowKey (s : State) (a : Nat) : Byte := (s.windowOf a).setWidth 8

/-- The host agent of this module (R262). -/
def hostAgent : Agent := .host 0

/-- The causes that refuse a host access, first one first (R393). -/
def State.hostRefusal (s : State) (off n : Nat) (write : Bool) (masks : List (Nat × List (Option Byte))) : Option HostCause :=
  let a := off % 2 ^ 40
  if !s.windowsOn a n then some .window
  else if write && decide (off / 2 ^ 40 ≠ 0) && (off % 4 != 0 || n % 4 != 0) then some .partWord
  else if write && (sectorsOf a n).any (fun k => s.pairRefuses (k / 64)) then some .protection
  else if (s.conflictIn s.holds hostAgent a n).isSome then some .hold
  else if (if write then masks.any fun m => s.poisoned m.1 && (!maskWhole m.2 || decide (off / 2 ^ 40 ≠ 0))
      else (s.poisonIn a n).isSome) then some .poison
  else none

/-- STATE of BAR0: [1:0] bring-up, ready, failed or stopped, [31:16] the failure code (R392). A module without power is on its way to
a bring-up, which is one step here (log 32). -/
def Power.word (p : Power) : Nat :=
  match p with
  | .off => 0
  | .ready => 1
  | .failed k => 2 + 2 ^ 16 * (k % 2 ^ 16)
  | .stopped => 3

/-- The 8 bytes of BAR0 at offset 8 k, as a read returns them (R392). -/
def State.barWord (s : State) (k : Nat) : Nat :=
  if k < 0x1000 then (Sparse.get 0 s.bells k).toNat
  else match k with
    | 0x1000 => s.host.admBase.toNat
    | 0x1001 => s.host.admTail.toNat
    | 0x1002 => s.host.admHead.toNat
    | 0x1003 => s.power.word
    | 0x1004 => s.host.genChip.toNat
    | 0x1006 => Config.caps.toNat % 2 ^ 64
    | 0x1007 => Config.caps.toNat / 2 ^ 64
    | _ => 0

/-- n bytes of BAR0 (R392). -/
def State.barRead (s : State) (off n : Nat) : List Byte :=
  (List.range n).map fun i => BitVec.ofNat 8 (s.barWord ((off + i) / 8) / 256 ^ ((off + i) % 8))

/-- The host reads registers of BAR0: aligned words or doublewords inside its 64 KiB (R392). -/
def State.barAccess (s : State) (off len : Nat) : State :=
  if s.host.linked && (len == 4 || len == 8) && off % len == 0 && decide (off + len ≤ 2 ^ 16) then
    s.tell (.hostData (s.barRead off len) false)
  else s

/-- A response may grant the host a cached copy of n bytes: every page of them is in host bias (R357), and none is on its way out of it.
DEDUCED, log 24: while a flip to device bias waits for its pages, no copy of a line of them is granted, since none may be left when the
bit changes (R358). -/
def State.grants (s : State) (a n : Nat) : Bool :=
  (sectorsOf a n).all fun k => s.host.hostBias.contains (k / 64) && !s.host.flips.contains (k / 64)

/-- The host has a cached copy of lines: an access that waits to perform on one needs a new snoop (R357). -/
def State.granted (s : State) (a n : Nat) : State :=
  if s.grants a n then
    { s with host := { s.host with acked := s.host.acked.filter fun x => !(sectorsOf a n).contains x.1 } }
  else s

/-- A host read of device memory at its home, returned or refused (R235, R393); it waits behind a waiting write (R256), and its response
grants a cached copy in host bias only (R357). -/
def State.readDevice (s : State) (off len : Nat) : State :=
  let a := off % 2 ^ 40
  if !s.hostAble off len || s.waitingOn a len then s
  else match s.hostRefusal off len false [] with
    | some c => (s.tell (.hostError off c.num)).tell .hostPoison
    | none => ((s.granted a len).homeReads hostAgent a len).tell (.hostData ((sectorsOf a len).flatMap fun k =>
        let lo := max a (64 * k)
        let hi := min (a + len) (64 * k + 64)
        s.homeBytes (s.windowKey (64 * k)) lo (hi - lo)) (s.grants a len))

/-- HOST_READ: a host read of BAR0, or of device memory (R235, R392, R393). -/
def execHostRead (off : HostPlace) (len : Nat) (s : State) : Host.Outcome State Fault Refusal :=
  .next (match off with
    | .bar0 off => s.barAccess off len
    | .memory off => s.readDevice off len)

/-- The words of a list of bytes. -/
def wordsOf (bs : List Byte) : List Word := (List.range (bs.length / 4)).map fun i => BitVec.ofNat 32 (natOfBytes ((bs.drop (4 * i)).take 4))

/-- HOST_WRITE: a host write of device memory at its home, performed, kept waiting or refused; through an alias it is ordered
reductions (R235, R248, R256, R393). Whether the pages it reaches are `scaled` comes with it, since a host access has no translation
(R240, log 29). -/
def execHostWrite (off : Nat) (bytes : HostData) (s : State) : Host.Outcome State Fault Refusal :=
  .next (let a := off % 2 ^ 40
    let scales : Option (BitVec 16) := if bytes.scaled then some 0x7F7F else none
    let bytes := bytes.bytes
    let masks := sectorMasks a bytes
    if !s.hostAble off bytes.length then s
    else match s.hostRefusal off bytes.length true masks with
      | some c => s.tell (.hostError off c.num)
      | none =>
        if off / 2 ^ 40 = 0 then
          masks.foldl (fun s m => (s.arriveWrite hostAgent 64 true m.1 (s.windowKey (64 * m.1)) m.2 scales .host).1) s
        else
          (wordsOf bytes).zipIdx.foldl (fun s w =>
            let x := a + 4 * w.2
            (s.arriveRmw hostAgent 64 true x (s.windowKey x) (off / 2 ^ 40) none w.1 scales .host).1) s)

/-! ### Host releases and the admin ring (R268, R392, R394) -/

/-- A host release starts (R268). -/
def State.hostRelease (s : State) : State :=
  { s with host := { s.host with releases := s.host.releases ++ [s.order] }, order := s.order + 1 }

/-- HREL: the host starts a release (R268, R392, R394). -/
def execHrel (s : State) : Host.Outcome State Fault Refusal := .next (if s.host.serves then s.hostRelease else s)

/-- Every host write that arrived before a release is settled (R268). -/
def State.hostSettled (s : State) (r : Nat) : Bool :=
  s.ctxs.all fun c => c.2.waiting.all fun w => decide (w.ret ≠ .host) || decide (r < w.stamp)

/-- HOST_RELEASE_COMPLETE: the oldest host release whose earlier writes are settled advances both host generations (R268). -/
def execHostReleaseComplete (s : State) : Host.Outcome State Fault Refusal :=
  .next (match s.host.releases with
    | r :: rs =>
      if s.hostSettled r then
        { s with host := { s.host with releases := rs, genChip := s.host.genChip + 1, genGrp := s.host.genGrp + 1 } }
      else s
    | [] => s)

/-- ADMTAIL: publishes admin commands, which the stage manager takes, and releases the host's writes (R268, R392). Log 26. -/
def execAdmtail (v : DWord) (s : State) : Host.Outcome State Fault Refusal :=
  .next (if s.host.serves then State.hostRelease { s with host := { s.host with admTail := v, admHead := v } } else s)

/-- ADMBASE: the stage manager accepts a base aligned to 4 KiB with a size of 4 to 12, which restores service after a loss of
the host (R392, R394). -/
def execAdmbase (v : DWord) (s : State) : Host.Outcome State Fault Refusal :=
  .next (if s.host.linked = true ∧ v.toNat / 16 % 256 = 0 ∧ 4 ≤ v.toNat % 16 ∧ v.toNat % 16 ≤ 12 then
    { s with host := { s.host with admBase := v, lost := false } }
  else s)

end Sys2Proof.Machine
end

