-- ==== Sys2Proof/Machine/Sched.lean ====
section
/-! DEFINITION. Launch records, the level hierarchy and its bindings, ready pools, eligibility, and the choice of the next act
of a core (R21 to R31, R311, R317 to R325). -/

namespace Sys2Proof.Machine

open Sys2Proof

/-! ### Launch records (R311) -/

/-- n bytes of a record as a number. -/
def field (bs : List Byte) (off n : Nat) : Nat := natOfBytes ((bs.drop off).take n)

/-- Fields of a launch record. -/
def LaunchRec.kind (r : LaunchRec) : Nat := field r.bytes 0 1
def LaunchRec.ctl (r : LaunchRec) : Nat := field r.bytes 1 1
def LaunchRec.cor (r : LaunchRec) : Bool := r.ctl.testBit 0
def LaunchRec.rpl (r : LaunchRec) : Bool := r.ctl.testBit 1
def LaunchRec.rsc (r : LaunchRec) : Nat := r.ctl / 4 % 8
def LaunchRec.levels (r : LaunchRec) : Nat := r.ctl / 32 % 8 + 1
def LaunchRec.prio (r : LaunchRec) : Nat := field r.bytes 2 1
def LaunchRec.arg (r : LaunchRec) : Nat := field r.bytes 3 1
def LaunchRec.scene (r : LaunchRec) : Word := BitVec.ofNat 32 (field r.bytes 4 4)
def LaunchRec.cueix (r : LaunchRec) : Nat := field r.bytes 8 2
def LaunchRec.span (r : LaunchRec) : Nat := field r.bytes 12 4
def LaunchRec.seed (r : LaunchRec) : DWord := BitVec.ofNat 64 (field r.bytes 16 8)
def LaunchRec.gen (r : LaunchRec) : Word := BitVec.ofNat 32 (field r.bytes 24 4)
def LaunchRec.count (r : LaunchRec) (i : Nat) : Nat := field r.bytes (32 + 4 * i) 2 + 1
def LaunchRec.domain (r : LaunchRec) (i : Nat) : Nat := field r.bytes (34 + 4 * i) 2 % 8
def LaunchRec.scope (r : LaunchRec) (i : Nat) : Nat := field r.bytes (34 + 4 * i) 2 / 8 % 8
def LaunchRec.done (r : LaunchRec) : DWord := BitVec.ofNat 64 (field r.bytes 64 8)
def LaunchRec.live (r : LaunchRec) : List Word := (List.range 12).map fun j => BitVec.ofNat 32 (field r.bytes (80 + 4 * j) 4)

/-- n₁₊ᵢ · … · n₍L−1₎: acts in one instance of level i (R25). -/
def LaunchRec.inner (r : LaunchRec) (i : Nat) : Nat :=
  ((List.range r.levels).filter (i < ·)).foldl (fun n k => n * r.count k) 1

/-- N: acts of the launch (R25). -/
def LaunchRec.acts (r : LaunchRec) : Nat := (List.range r.levels).foldl (fun n k => n * r.count k) 1

/-- The scope of the innermost level (R27, R30). -/
def LaunchRec.innerScope (r : LaunchRec) : Nat := r.scope (r.levels - 1)

/-- The instance of level i that holds act j (R29, R318). -/
def LaunchRec.instOf (r : LaunchRec) (j i : Nat) : Nat := j / r.inner i

/-- The level coordinates of a record (R29), for the number of its span. -/
def LaunchRec.coords (r : LaunchRec) (q : Nat) : Vector (BitVec 16) 8 :=
  Vector.ofFn fun i => if i.val < r.levels then BitVec.ofNat 16 (q / r.inner i.val % r.count i.val) else 0

/-! ### Act records (R21) -/

/-- PRIO, DET and LCV of an act record. -/
def ActRec.prio (a : ActRec) : Nat := a.flags.toNat % 128
def ActRec.det (a : ActRec) : BitVec 2 := a.flags.extractLsb' 7 2
def ActRec.lcv (a : ActRec) : Bool := a.flags.getLsbD 9

/-- The record in 64 bytes. -/
def ActRec.ofBytes (bs : List Byte) : ActRec :=
  { scene := BitVec.ofNat 32 (field bs 0 4), cueix := BitVec.ofNat 16 (field bs 4 2), flags := BitVec.ofNat 16 (field bs 6 2),
    lo := BitVec.ofNat 32 (field bs 8 4), hi := BitVec.ofNat 32 (field bs 12 4),
    live := (List.range 12).map fun j => BitVec.ofNat 32 (field bs (16 + 4 * j) 4) }

/-- A scene of a context (R355). -/
def Ctx.sceneOf (c : Ctx) (id : Word) : Option Scene := c.scenes.find? fun k => k.id == id

/-- A record is bad (R22). -/
def Ctx.badRecord (c : Ctx) (a : ActRec) : Bool :=
  (match c.sceneOf a.scene with
   | some k => decide (k.cues.length ≤ a.cueix.toNat)
   | none => true) || a.det == 3 || decide (1024 ≤ a.flags.toNat) || decide (a.hi < a.lo)

/-- The record of act j of a launch (R25). -/
def Launch.recordOf (l : Launch) (j : Nat) : ActRec :=
  { scene := l.record.scene, cueix := BitVec.ofNat 16 l.record.cueix,
    flags := BitVec.ofNat 16 (l.record.prio + 128 * l.det.toNat + 512),
    lo := BitVec.ofNat 32 (j * l.record.span), hi := BitVec.ofNat 32 ((j + 1) * l.record.span), live := l.record.live }

/-- Act j of a launch, new. -/
def Launch.actOf (l : Launch) (j home : Nat) : Act :=
  { record := l.recordOf j, origin := l.recordOf j, ctx := l.ctx, launch := l.id, num := j, image := .none, placed := 0,
    home := home, spawned := false, slot := none, pinned := false }

/-! ### Hardware instances and bindings (R26, R318) -/

/-- A set of cores that a level may be bound to: domain (0 core, 1 cluster, 2 die, 3 chip) and number. -/
structure Place where
  dom : Nat
  num : Nat
deriving DecidableEq, Repr

/-- The whole module. -/
def Place.chip : Place := ⟨3, 0⟩

/-- Logical cores of a place: first and count (R11). -/
def Place.first (p : Place) : Nat := if p.dom = 0 then p.num else if p.dom = 1 then 8 * p.num else if p.dom = 2 then 40 * p.num else 0
def Place.size (p : Place) : Nat := if p.dom = 0 then 1 else if p.dom = 1 then 8 else if p.dom = 2 then 40 else Config.cores

/-- Core n lies in a place. -/
def Place.has (p : Place) (n : Nat) : Bool := decide (p.first ≤ n) && decide (n < p.first + p.size)

/-- The cores of a place. -/
def Place.cores (p : Place) : List Nat := (List.range p.size).map (p.first + ·)

/-- The places of domain d inside a place, ascending (R318). -/
def Place.inside (p : Place) (d : Nat) : List Place :=
  let n := if d = 0 then 1 else if d = 1 then 8 else 40
  if p.dom ≤ d then [p] else (List.range (p.size / n)).map fun i => ⟨d, p.first / n + i⟩

/-- The core map lets core n take acts (R347). -/
def State.available (s : State) (n : Nat) : Bool := (vget s.coreMap n 0).getLsbD 6

/-- The prompter places acts on core n: its map entry is available, and no replacement is under way (R347, R348). -/
def State.placeable (s : State) (n : Nat) : Bool := s.available n && !s.replacing.contains n

/-- Core n has no resident act and may take one. -/
def State.idleCore (s : State) (n : Nat) : Bool := s.placeable n && (s.coreAt n).act.isNone

/-- Idle cores of a place, but for some that are taken. -/
def State.idleIn (s : State) (taken : List Nat) (p : Place) : Nat :=
  (p.cores.filter fun n => s.idleCore n && !taken.contains n).length

/-- The candidate with the most idle cores, the lowest on a tie (R318). -/
def State.mostIdle (s : State) (taken : List Nat) : List Place → Place
  | [] => .chip
  | [p] => p
  | p :: ps => let q := s.mostIdle taken ps; if s.idleIn taken q ≤ s.idleIn taken p then p else q

/-- The place of one instance of level i in a place: its binding, or the candidate it would be bound to (R318). -/
def State.placeOf (s : State) (l : Launch) (j i : Nat) (p : Place) : Place :=
  let d := l.record.domain i
  if 3 ≤ d then p
  else match l.binds.find? fun b => b.1 == i && b.2.1 == l.record.instOf j i with
    | some b => ⟨d, b.2.2⟩
    | none =>
      let cs := p.inside d
      if l.det = 2 then
        cs.getD ((philox64 l.record.seed (BitVec.ofNat 32 (l.record.instOf j i), BitVec.ofNat 32 i, 0, 0)).toNat % cs.length) p
      else s.mostIdle ((l.binds.filter fun b => b.1 == 8).map fun b => b.2.2) cs

/-- The places of act j for the levels of a list, from the outermost (R318). -/
def State.placesOf (s : State) (l : Launch) (j : Nat) : List Nat → Place → List (Nat × Place)
  | [], _ => []
  | i :: is, p => let q := s.placeOf l j i p; (i, q) :: s.placesOf l j is q

/-- The places of act j of a launch, level by level. -/
def State.chain (s : State) (l : Launch) (j : Nat) : List (Nat × Place) := s.placesOf l j (List.range l.record.levels) .chip

/-- The innermost place of act j. -/
def State.innermost (s : State) (l : Launch) (j : Nat) : Place :=
  match (s.chain l j).getLast? with
  | some q => q.2
  | none => .chip

/-- The core of act j at level 2 (R321). -/
def State.keyedCore (s : State) (l : Launch) (j : Nat) : Nat :=
  let p := s.innermost l j
  p.first + (philox64 l.record.seed (BitVec.ofNat 32 j, 0xFFFF, 0, 0)).toNat % p.size

/-- The bindings that the first placement of act j makes (R318). -/
def State.bindsFor (s : State) (l : Launch) (j : Nat) : List (Nat × Nat × Nat) :=
  ((s.chain l j).filter fun q => decide (l.record.domain q.1 < 3) &&
      !(l.binds.any fun b => b.1 == q.1 && b.2.1 == l.record.instOf j q.1)).map fun q => (q.1, l.record.instOf j q.1, q.2.num)

/-- Bind the instances of act j. -/
def State.bind (s : State) (l : Launch) (j : Nat) : State :=
  s.modLaunch l.id fun x => { x with binds := x.binds ++ s.bindsFor l j }

/-! ### Ready acts (R317, R323) -/

/-- Acts of a launch that are resident, by core. -/
def State.residents (s : State) (id : Nat) : List Nat :=
  (s.allCores.filter fun c => match c.act with | some a => a.launch == id | none => false).map (·.num)

/-- The acts in the ready pools, which the four dies share. -/
def State.readyActs (s : State) : List Act :=
  (vget s.pools 0 []).filterMap fun x => match x.2 with
    | .act a => some a
    | .gen _ => none

/-- Acts of a launch in the ready pools. -/
def State.pooled (s : State) (id : Nat) : List Act := s.readyActs.filter fun a => a.launch == id

/-- An item enters the tail of the list of its priority in the pool of every die, and the four pools share it (R317). -/
def State.enlist (s : State) (prio : Nat) (x : PoolItem) : State := { s with pools := vmap (fun p => p ++ [(prio, x)]) s.pools }

/-- An act becomes Ready at the tail of its priority's list, in every pool: any core that its binding admits may take it (R23, R28, R317).
DEDUCED, log 25: R317 does not say which die's list an act enters. -/
def State.ready (s : State) (a : Act) : State := s.enlist a.record.prio (.act a)

/-- A generator enters the list of its priority on every die (R317). -/
def State.readyGen (s : State) (id prio : Nat) : State := s.enlist prio (.gen id)

/-- A list without the first entry that is an item. -/
def dropItem (x : PoolItem) (p : List (Nat × PoolItem)) : List (Nat × PoolItem) :=
  match p.findIdx? fun y => y.2 == x with
  | some i => p.eraseIdx i
  | none => p

/-- Take an item out of the pools. -/
def State.unpool (s : State) (x : PoolItem) : State := { s with pools := vmap (dropItem x) s.pools }

/-- Take a generator out of every pool. -/
def State.dropGen (s : State) (id : Nat) : State :=
  { s with pools := vmap (fun p => p.filter fun y => y.2 != .gen id) s.pools }

/-- Take act j out of ascending ranges. -/
def dropNum (j : Nat) : List (Nat × Nat) → List (Nat × Nat)
  | [] => []
  | (lo, hi) :: rs =>
    if lo ≤ j ∧ j < hi then
      (if lo < j then [(lo, j)] else []) ++ (if j + 1 < hi then [(j + 1, hi)] else []) ++ rs
    else (lo, hi) :: dropNum j rs

/-- The lowest number of n from lo on that satisfies f. -/
def findFrom (f : Nat → Bool) (lo : Nat) : Nat → Option Nat
  | 0 => none
  | n + 1 => if f lo then some lo else findFrom f (lo + 1) n

/-- The lowest number of ascending ranges that satisfies f. -/
def findNum (f : Nat → Bool) : List (Nat × Nat) → Option Nat
  | [] => none
  | (lo, hi) :: rs => match findFrom f lo (hi - lo) with
    | some j => some j
    | none => findNum f rs

/-! ### Eligibility (R28, R319 to R321) -/

/-- The credit of a context on a die is positive (R320). -/
def State.credited (s : State) (ctx die : Nat) : Bool :=
  match s.ctxAt ctx with
  | some c => decide (0 < vget c.credit die 0)
  | none => false

/-- A lower act of the launch that is assigned to core n has been suspended and not resumed (R321). -/
def State.earlierOn (s : State) (l : Launch) (j n : Nat) : Bool :=
  ((s.pooled l.id) ++ (s.waiters.map (·.1)).filter fun a => a.launch == l.id).any fun a =>
    !a.spawned && decide (a.num < j) && decide (a.home = n)

/-- The binding of act j admits core n (R28, R318, R321); an act that the replacement of its core has suspended resumes there (R348). -/
def State.admits (s : State) (l : Launch) (a : Act) (n : Nat) : Bool :=
  if a.pinned then decide (a.home = n)
  else if l.det = 2 then
    if a.spawned then decide (a.home = n)
    else decide (s.keyedCore l a.num = n) && !s.earlierOn l a.num n
  else (s.innermost l a.num).has n

/-- A launch whose acts may be placed at all: it is neither cancelled nor at its start barrier. -/
def Launch.open? (l : Launch) : Bool := !l.cancelled && !l.barrier && decide (l.status = 0)

/-- A single act of a launch that is not co-resident is eligible on core n (R319). -/
def State.eligibleAct (s : State) (a : Act) (n : Nat) : Bool :=
  match s.launchAt a.launch with
  | some l => l.open? && s.admits l a n && s.credited a.ctx (dieOf n)
  | none => false

/-- The lowest act of a generator that is eligible on core n (R317). -/
def State.fromGen (s : State) (l : Launch) (n : Nat) : Option Nat :=
  if l.det = 2 then
    match findNum (fun j => decide (s.keyedCore l j = n)) l.toYield with
    | some j => if s.eligibleAct (l.actOf j n) n then some j else none
    | none => none
  else findNum (fun j => s.eligibleAct (l.actOf j n) n) l.toYield

/-- Numbers of ascending ranges. -/
def numsOf (rs : List (Nat × Nat)) : List Nat := rs.flatMap fun r => (List.range (r.2 - r.1)).map (r.1 + ·)

/-- Give each act of a list a core of its own among the idle ones, in order; none where one finds none (R31, R319). At level 2 an act
has the core that its number gives it (R321). -/
def State.assign (s : State) (l : Launch) (used : List Nat) : List Act → Option (List (Act × Nat))
  | [] => some []
  | a :: as =>
    let ok := fun (n : Nat) => s.idleCore n && !used.contains n && s.credited l.ctx (dieOf n)
    let cs := if l.det = 2 then [if a.spawned then a.home else s.keyedCore l a.num]
      else match l.binds.find? fun b => !a.spawned && b.1 == 8 && b.2.1 == a.num with
        | some b => [b.2.2]
        | none => (s.innermost l a.num).cores
    match cs.find? ok with
    | some n => match s.assign l (n :: used) as with
      | some r => some ((a, n) :: r)
      | none => none
    | none => none

/-- The acts of a co-resident launch that are to be placed together: those suspended and ready, and those not yet yielded. -/
def State.together (s : State) (l : Launch) : List Act := s.pooled l.id ++ (numsOf l.toYield).map fun j => l.actOf j 0

/-- A launch is being intermitted: some of its resident acts have still to suspend (R31, R322). -/
def State.intermitting (s : State) (l : Launch) : Bool :=
  s.allCores.any fun c => c.request.isSome && (match c.act with
    | some a => a.launch == l.id
    | none => false)

/-- The placement of a co-resident launch in one cycle, when one can be made that gives core n an act (R31, R319, R320). While it is being
intermitted no act of it starts again, as its acts suspend all together (R31). -/
def State.ensemble (s : State) (l : Launch) (n : Nat) : Option (List (Act × Nat)) :=
  if l.open? && decide (l.open_ ≤ Config.cores) && !s.intermitting l then
    match s.assign l [] (s.together l) with
    | some r => if r.any fun x => x.2 == n then some r else none
    | none => none
  else none

/-- What a core would take from a pool. -/
inductive Pick
  | single (a : Act) (item : PoolItem)
  | all (l : Launch) (acts : List (Act × Nat))
deriving DecidableEq, Repr

/-- What an item of a pool offers core n (R319). -/
def State.offer (s : State) (n : Nat) (x : PoolItem) : Option Pick :=
  match s.launchAt (match x with | .gen id => id | .act a => a.launch) with
  | none => none
  | some l =>
    if l.record.cor then (s.ensemble l n).map fun r => .all l r
    else match x with
      | .gen _ => (s.fromGen l n).map fun j => .single (l.actOf j n) x
      | .act a => if s.eligibleAct a n then some (.single a x) else none

/-- Priority of the items of a pool, the highest first. -/
def priosOf (p : List (Nat × PoolItem)) : List Nat := (List.range 128).reverse.filter fun k => p.any fun x => x.1 == k

/-- The first eligible act of the pool of core n's die, from the highest priority down, above a bound (R319). -/
def State.fromPool (s : State) (n low : Nat) : Option (Nat × Pick) :=
  let p := vget s.pools (dieOf n) []
  ((priosOf p).filter (low ≤ ·)).findSome? fun k =>
    (p.filter fun x => x.1 == k).findSome? fun x => (s.offer n x.2).map fun y => (k, y)

/-- The next act of core n: the head of its wings if it is eligible, unless the pool holds an eligible act of strictly higher priority;
else the pool's (R319). At level 2 the wings go first, so that the order on a core does not depend on what has come to the pool
(R40, R321; log 25). -/
def State.pick (s : State) (n : Nat) : Option Pick :=
  match (s.coreAt n).wings with
  | a :: _ =>
    if s.eligibleAct a n then
      match if a.record.det = 2 then none else s.fromPool n (a.record.prio + 1) with
      | some (_, y) => some y
      | none => some (.single a (.act a))
    else (s.fromPool n 0).map (·.2)
  | [] => (s.fromPool n 0).map (·.2)

/-- The wings of a core enter the ready pool, head first, but for acts that only their spawner's core may run (R321, R323). -/
def State.emptyWings (s : State) : State :=
  let stay := fun (a : Act) => a.record.det == 2
  (s.core.wings.filter fun a => !stay a).foldl State.ready
    { s with core := { s.core with wings := s.core.wings.filter stay } }

/-! ### Scenes in use, and the end of an act (R355) -/

/-- An act names a scene of a context. -/
def Act.names (a : Act) (ctx : Nat) (id : Word) : Bool := a.ctx == ctx && a.record.scene == id

/-- An act of a scene is in some state: resident, ready, waiting, in a wing, or not yet made by its generator (R355). -/
def State.sceneUsed (s : State) (ctx : Nat) (id : Word) : Bool :=
  (s.allCores.any fun c => (match c.act with | some a => a.names ctx id | none => false) || c.wings.any fun a => a.names ctx id) ||
    (s.pools.toList.flatten.any fun x => match x.2 with
      | .act a => a.names ctx id
      | .gen _ => false) ||
    (s.waiters.any fun w => w.1.names ctx id) ||
    s.launches.any fun l => l.ctx == ctx && l.record.scene == id && !l.toYield.isEmpty

/-- The entries of retiring scenes of a context without an act are free; a later scene with such an id is another scene, whose streams
a core loads (R231, R355). -/
def State.freeScenes (s : State) (ctx : Nat) : State :=
  let gone := match s.ctxAt ctx with
    | some c => (c.scenes.filter fun (x : Scene) => x.retiring && !s.sceneUsed ctx x.id).map fun (x : Scene) => x.id
    | none => []
  if gone.isEmpty then s
  else
    (s.modCores fun c => { c with scene := match c.scene with
      | some k => if k.1 = ctx ∧ gone.contains k.2 = true then none else some k
      | none => none }).modCtx ctx fun c => { c with scenes := c.scenes.filter fun (x : Scene) => !gone.contains x.id }

/-- The resident act leaves its launch in the way t, and the core is free. -/
def State.endAct (s : State) (t : Tally) : State :=
  match s.core.act with
  | some a => ((s.tally a.launch t).vacate).freeScenes a.ctx
  | none => s.vacate

end Sys2Proof.Machine
end

