-- ==== Sys2Proof/Machine/Acts.lean ====
section
/-! DEFINITION. Acts on a core: cue points, placement, suspension, the end of an act, `act.next`, `act.spawn`, `act.yield`,
`act.end`, intermission and stealing (R17 to R24, R30, R186, R210, R319 to R333). -/

namespace Sys2Proof.Machine

open Sys2Proof

/-! ### Live maps and live ranges (R18 to R20, R81) -/

/-- The engine of a code (R81). -/
def engineOf (n : Nat) : Engine := engines.getD n .a

/-- The word that a live-map entry names; an unused entry gives zero (R19, R81). -/
def Live.readLive (l : Live) (e : BitVec 16) : Word :=
  let n := e.extractLsb' 0 5
  match (e.extractLsb' 14 2).toNat with
  | 0 => 0
  | 1 => (l.eng (engineOf (e.extractLsb' 12 2).toNat)).sreg n
  | 2 => (vget l.a n.toNat 0).setWidth 32
  | _ => (vget l.a n.toNat 0 >>> 32).setWidth 32

/-- Write the register that a live-map entry names (R19, R81). -/
def Live.writeLive (l : Live) (e : BitVec 16) (w : Word) : Live :=
  let n := e.extractLsb' 0 5
  match (e.extractLsb' 14 2).toNat with
  | 0 => l
  | 1 => l.modEng (engineOf (e.extractLsb' 12 2).toNat) fun x => x.setS n w
  | 2 => { l with a := vset l.a n.toNat ((vget l.a n.toNat 0).extractLsb' 32 32 ++ w) }
  | _ => { l with a := vset l.a n.toNat (w ++ (vget l.a n.toNat 0).extractLsb' 0 32) }

/-- The live map of cue point n. -/
def Scene.liveMap (k : Scene) (n : Nat) : List (BitVec 16) := k.live.getD n []

/-- The live ranges of cue point n: base and length. -/
def Scene.rangesAt (k : Scene) (n : Nat) : List (Nat × Nat) := (k.ranges.filter fun r => r.1 == n).map (·.2)

/-- The parts of the scratchpad from lo on that no range of an ascending list covers. -/
def gaps (lo : Nat) : List (Nat × Nat) → List (Nat × Nat)
  | [] => if lo < Config.spBytes then [(lo, Config.spBytes)] else []
  | (b, n) :: rs => (if lo < b then [(lo, b)] else []) ++ gaps (b + n) rs

/-- The bytes outside the live ranges are unspecified (R18). -/
def Scratch.keep (m : Scratch) (rs : List (Nat × Nat)) (epoch : Nat) : Scratch :=
  (gaps 0 rs).foldl (fun m g => m.fill g.1 g.2 (.free epoch)) m

/-- The bytes [lo, hi) lie wholly in live ranges. -/
def inRanges (rs : List (Nat × Nat)) (lo hi : Nat) : Bool := (gaps 0 rs).all fun g => decide (g.2 ≤ lo) || decide (hi ≤ g.1)

/-- A declared group (first macro, count) lies wholly in live ranges (R20, R210). -/
def groupLive (rs : List (Nat × Nat)) (first count : Nat) : Bool := inRanges rs (65536 * first) (65536 * (first + count))

/-- Set what the scale stores of some macros hold. -/
def Scratch.fillScales (m : Scratch) (ms : List Nat) (v : FillVal) : Scratch :=
  ms.foldl (fun m k => m.fill (4096 * k) (4096 * k + 4096) v) m

/-- The declaration of macro m in a scene (R78). -/
def Scene.declares (k : Scene) (m : Nat) : Option (Nat × Nat × BFmt × Nat) :=
  k.stats.find? fun d => decide (d.1 ≤ m) && decide (m < d.1 + d.2.1)

/-- A group is declared by a scene. -/
def Scene.declaresGroup (k : Scene) (g : Nat) : Bool := k.stats.any fun d => d.2.2.2 == g

/-! ### Passing a cue point (R17, R18, R186, R335) -/

/-- An engine whose registers are cleared, at a word (R18, R186). -/
def EngState.cleared (x : EngState) (pc : Nat) : EngState :=
  { EngState.reset with pc := pc, imem := x.imem, tags := x.tags, issued := x.issued, claims := x.claims }

/-- A core whose state is cleared, its engines at the words of a list, with given scratchpad, scale stores, marks, FPFLAGS and
almanac (R18). -/
def Live.cleared (l : Live) (pcs : List Nat) (scratch scales : Scratch) (marks : Vector (Option Mark) 64) (fp : BitVec 5)
    (alm : List Word) : Live :=
  { Live.reset with
    ea := l.ea.cleared (pcs.getD 0 0), ex := l.ex.cleared (pcs.getD 1 0), em := l.em.cleared (pcs.getD 2 0),
    eb := l.eb.cleared (pcs.getD 3 0), scratch := scratch, scales := scales, marks := marks, fpflags := fp,
    alm := Vector.ofFn fun i => alm.getD i.val 0, acc := l.acc, told := .start l.seq, seq := l.seq }

/-- The words after `cue n` in the four streams (R19). -/
def Scene.starts (k : Scene) (n : Nat) : List Nat := (k.cues.getD n []).map (· + 1)

/-- The live state after cue point n is passed; `epoch` numbers the unspecified bytes (R18, R210). -/
def Live.passCue (l : Live) (k : Scene) (n epoch : Nat) : Live :=
  let rs := k.rangesAt n
  let keeps := fun (m : Nat) => match l.mark m with
    | some x => k.declaresGroup x.group
    | none => false
  let lost := (List.range 64).filter fun m => (l.mark m).isSome && !keeps m
  let open_ := (List.range 64).filter fun m => keeps m && (match k.declares m with
    | some d => !groupLive rs d.1 d.2.1
    | none => true)
  let l1 := l.cleared (k.starts n) (l.scratch.keep rs epoch)
    ((l.scales.fillScales lost (.byte 0)).fillScales open_ (.free (epoch + 1)))
    (Vector.ofFn fun i => if keeps i.val then l.mark i.val else none) l.fpflags k.almanac
  (k.liveMap n).foldl (fun m e => m.writeLive e (l.readLive e)) l1

/-- The scene of the resident act. -/
def State.actScene (s : State) : Option Scene :=
  match s.core.act with
  | some a => (s.ctxAt a.ctx).bind fun c => c.sceneOf a.record.scene
  | none => none

/-- Every channel starts at CWP 0 (R365). -/
def State.zeroCwp (s : State) : State := { s with core := { s.core with chans := vmap (fun c => { c with cwp := 0 }) s.core.chans } }

/-- The release scope of the launch of the resident act (R311). -/
def State.rsc (s : State) : Nat :=
  match s.curLaunch with
  | some l => l.record.rsc
  | none => 0

/-! ### The act store (R330) -/

/-- Acts of a context, wherever they are. -/
def State.actsOf (s : State) (ctx : Nat) : List Act :=
  s.readyActs ++ s.waiters.map (·.1) ++ (s.allCores.flatMap fun c => c.act.toList ++ c.wings) |>.filter fun a => a.ctx == ctx

/-- The first slot of a context's act store that no act holds. -/
def State.freeStoreSlot (s : State) (ctx : Nat) : Option Nat :=
  match s.ctxAt ctx with
  | some c =>
    let used := (s.actsOf ctx).filterMap fun (a : Act) => a.slot
    findFrom (fun k => !used.contains k) 0 c.store
  | none => none

/-- The slot in which an act's record is kept: the one it holds, or a free one. -/
def State.slotOf (s : State) (a : Act) : Option Nat := a.slot.orElse fun _ => s.freeStoreSlot a.ctx

/-- The resident act has a slot for its suspension (R330). -/
def State.slotFree (s : State) : Bool :=
  match s.core.act with
  | some a => (s.slotOf a).isSome
  | none => false

/-- The resident act takes the slot of its suspension (R330). -/
def State.reserveSlot (s : State) : State :=
  { s with core := { s.core with act := s.core.act.map fun a => { a with slot := s.slotOf a } } }

/-- Bytes of a slot: the record, the wardrobe header, and an area that holds a full image (log 8). -/
def slotBytes : Nat := 128 + 5 * 2 ^ 20

/-- Address of a slot of an act's context in device memory. -/
def State.slotAt (s : State) (ctx k : Nat) : Nat := (match s.ctxAt ctx with | some c => c.area | none => 0) + slotBytes * k

/-- An act record in 64 bytes (R21). -/
def ActRec.bytes (r : ActRec) : List Byte :=
  bytesOfNat 4 r.scene.toNat ++ bytesOfNat 2 r.cueix.toNat ++ bytesOfNat 2 r.flags.toNat ++ bytesOfNat 4 r.lo.toNat ++
    bytesOfNat 4 r.hi.toNat ++ (List.range 12).flatMap fun j => bytesOfNat 4 (r.live.getD j 0).toNat

/-- The wardrobe header (R330). -/
def wardrobeHeader (fp : BitVec 5) (full : Bool) (n core : Nat) : List Byte :=
  bytesOfNat 4 fp.toNat ++ bytesOfNat 4 (if full then 1 else 0) ++ bytesOfNat 4 n ++ bytesOfNat 4 core ++ List.replicate 48 0

/-- The bytes of a cue-point image: the live ranges in the order of their table, then the scale stores of the declared groups that
lie wholly in them (R330). -/
def Scene.imageBytes (k : Scene) (n : Nat) (m scales : Scratch) : List Byte :=
  let rs := k.rangesAt n
  (rs.flatMap fun r => m.read r.1 r.2) ++
    (k.stats.filter fun d => groupLive rs d.1 d.2.1).flatMap fun d => scales.read (4096 * d.1) (4096 * d.2.1)

/-- The prompter writes bytes of the act store, under key 0 (log 8). -/
def State.writeStore (s : State) (a : Nat) (bs : List Byte) : State :=
  (sectorMasks a bs).foldl (fun s m => s.storeSector m.1 0 m.2 none) s

/-- An act with a record takes its slot, and what its slot holds is written: record, header and image (R330). -/
def State.keep (s : State) (a : Act) (header image : List Byte) : State × Act :=
  match s.slotOf a with
  | some k => (s.writeStore (s.slotAt a.ctx k) (a.record.bytes ++ header ++ image), { a with slot := some k })
  | none => (s, a)

/-- The record of the resident act as a suspension writes it (R331). -/
def State.written (s : State) (a : Act) (n : Nat) : ActRec :=
  { a.record with cueix := BitVec.ofNat 16 n, lo := s.core.actCur, hi := s.core.actCeil }

/-- The resident act becomes Ready, the wings are emptied and the core is free (R323, R331). -/
def State.leave (s : State) (a : Act) : State := ((s.ready a).emptyWings).vacate

/-- The resident act suspends at cue point n (R279, R331). -/
def State.suspendAt (s : State) (k : Scene) (n : Nat) : State :=
  match s.core.act with
  | none => s
  | some a =>
    s.afterRelease (max 3 s.rsc) fun s =>
      let l := s.core.live
      let image := k.imageBytes n l.scratch l.scales
      let r := s.keep { a with
        record := { s.written a n with live := (k.liveMap n).map l.readLive },
        image := .cue l.fpflags s.core.num l.scratch l.scales, home := s.core.num, pinned := s.replacing.contains s.core.num }
        (wardrobeHeader l.fpflags false image.length s.core.num) image
      r.1.leave r.2

/-- All four engines wait at the rendezvous with this index. -/
def Live.met (l : Live) : Option Nat :=
  match l.ea.rend with
  | some n => if l.ex.rend = some n ∧ l.em.rend = some n ∧ l.eb.rend = some n then some n else none
  | none => none

/-- Every instruction that the engines have issued has completed, its pushes made (R17, R289). -/
def Live.allDone (l : Live) : Bool := engines.all fun e => (l.eng e).retire.isEmpty

/-- No copy command is queued or held (R298). -/
def State.noCopies (s : State) : Bool := (List.range 8).all fun ch => s.chanLoad ch == 0

/-- The act suspends at the next cue point (R322, R328). -/
def State.suspends (s : State) : Bool := s.core.yieldMark || s.core.request.isSome

/-- The cue point that the core may pass now (R17, R298, R331). -/
def State.atCue (s : State) : Option Nat :=
  match s.core.live.met with
  | some n => if n < 0x2000 && s.running && s.core.live.allDone && s.noCopies && (!s.suspends || (s.quiet && s.slotFree)) then some n else none
  | none => none

/-- CUE_POINT_PASS: the core passes the cue point at which its four engines wait; where the act is to suspend there, its record is
held until it leaves the core (R17, R18, R201, R331). -/
def execCuePointPass (s : State) : Host.Outcome State Fault Refusal :=
  .next (match s.atCue, s.actScene with
    | some n, some k =>
      let s1 := ({ s with free := s.free + 2, core := { s.core with lastCue := n } }.modLive fun l =>
        l.passCue k n s.free).zeroCwp
      if s.suspends then { s1 with core := { s1.core with ending := some (.suspend n) } } else s1
    | _, _ => s)

/-! ### Placement (R19, R20, R231, R319) -/

/-- The tagged words of a stream: those after the first word of a W instruction (R60). -/
def tagsOf (a : Nat) : List Word → List Nat
  | [] => []
  | [_] => []
  | w :: v :: rest => if isWide (opOf w) then (a + 1) :: tagsOf (a + 2) rest else tagsOf (a + 1) (v :: rest)

/-- An engine with a stream loaded (R230, R231). -/
def EngState.load (x : EngState) (ws : List Word) : EngState := { x with imem := Sparse.write 0 [] 0 ws, tags := tagsOf 0 ws }

/-- The focused core holds the streams of a scene (R231). -/
def State.reside (s : State) (ctx : Nat) (k : Scene) : State :=
  if s.core.scene = some (ctx, k.id) then s
  else
    ({ s with core := { s.core with scene := some (ctx, k.id) } }).modLive fun l =>
      { l with ea := l.ea.load (k.streams.getD 0 []), ex := l.ex.load (k.streams.getD 1 []),
               em := l.em.load (k.streams.getD 2 []), eb := l.eb.load (k.streams.getD 3 []) }

/-- The number that the level coordinates of a record are derived from (R29, R331). -/
def Act.spanOf (a : Act) (l : Launch) : Nat :=
  let lo := if a.image ≠ .none ∧ a.record.lo = a.record.hi ∧ 0 < a.record.hi.toNat then a.record.hi.toNat - 1 else a.record.lo.toNat
  lo / l.record.span

/-- The level coordinates of an act (R29). -/
def State.coordsOf (s : State) (a : Act) : Vector (BitVec 16) 8 :=
  match s.launchAt a.launch with
  | some l => if a.record.lcv then l.record.coords (a.spanOf l) else Vector.replicate 8 0
  | none => Vector.replicate 8 0

/-- The per-core registers and marks of a core that takes an act; no copy-on-write wait and no semaphore's order of an earlier act is
its own (R186, R191, R273, R325, R340). -/
def State.seat (s : State) (a : Act) : State :=
  { s with
    ctxs := s.ctxs.map fun c => (c.1, { c.2 with
      cowAsked := c.2.cowAsked.filter fun p => p.2 / 16 != s.core.num,
      cowRefused := c.2.cowRefused.filter fun p => p.2 / 16 != s.core.num,
      semTold := c.2.semTold.map fun x => (x.1, x.2.filter fun y => y.1 != s.core.num) }),
    core := { s.core with
      act := some { a with origin := a.record, image := .none, placed := s.order, home := s.core.num, pinned := false }, ring := [],
      detlvl := a.record.det, actCur := a.record.lo, actCeil := a.record.hi, lvl := s.coordsOf a, halt := false,
      yieldMark := false, request := none, cancelled := false, ending := none, releasing := none, claims := [],
      stealsLeft := 16, resting := false },
    order := s.order + 1 }

/-- The marks of an act that starts: every declared group's macros (R210). -/
def Scene.marks (k : Scene) : Vector (Option Mark) 64 :=
  Vector.ofFn fun i => (k.declares i.val).map fun d => ⟨d.2.2.2, d.2.2.1⟩

/-- The declared macros of a scene whose groups lie (or do not lie) wholly in live ranges. -/
def Scene.declaredIn (k : Scene) (rs : List (Nat × Nat)) (inside : Bool) : List Nat :=
  (List.range 64).filter fun m => match k.declares m with
    | some d => groupLive rs d.1 d.2.1 == inside
    | none => false

/-- The scratchpad of an act that starts at cue point n: its image's, or zero in the live ranges (R19, R20). -/
def startScratch (i : Image) (rs : List (Nat × Nat)) (epoch : Nat) : Scratch :=
  match i with
  | .cue _ _ m _ => m.keep rs epoch
  | _ => (Scratch.mk [] []).keep rs epoch

/-- The scale stores of an act that starts (R20, R210). -/
def startScales (i : Image) (k : Scene) (rs : List (Nat × Nat)) (epoch : Nat) : Scratch :=
  match i with
  | .cue _ _ _ m => m.fillScales (k.declaredIn rs false) (.free epoch)
  | _ => ((Scratch.mk [] []).fillScales (k.declaredIn rs true) (.byte 0x7F)).fillScales (k.declaredIn rs false) (.free epoch)

/-- The live state of an act that starts from its record at a cue point (R18 to R20, R186). -/
def Live.start (l : Live) (k : Scene) (a : Act) (epoch : Nat) : Live :=
  let n := a.record.cueix.toNat
  let rs := k.rangesAt n
  let fp : BitVec 5 := match a.image with
    | .cue f _ _ _ => f
    | _ => 0
  let l1 := ({ l with acc := [] } : Live).cleared (k.starts n) (startScratch a.image rs epoch)
    (startScales a.image k rs (epoch + 1)) k.marks fp k.almanac
  ((k.liveMap n).zip a.record.live).foldl (fun m e => m.writeLive e.1 e.2) l1

/-- An engine restored from a full image: the counts of the core go on (R331, R389). -/
def EngState.restored (x old : EngState) : EngState := { x with issued := old.issued, imem := old.imem, tags := old.tags, claims := 0 }

/-- The focused core starts or resumes an act whose record is good (R19, R331). -/
def State.startAct (s : State) (k : Scene) (a : Act) : State :=
  let s1 := s.reside a.ctx k
  match a.image with
  | .full _ l chans last mark =>
    let old := s1.core.live
    let l1 := { l with ea := l.ea.restored old.ea, ex := l.ex.restored old.ex, em := l.em.restored old.em, eb := l.eb.restored old.eb }
    let s2 := s1.seat a
    { s2 with core := { s2.core with live := l1, chans := chans, lastCue := last, yieldMark := mark } }
  | _ =>
    let s2 := ({ s1 with free := s1.free + 2 }.modLive fun l => l.start k a s1.free).seat a
    ({ s2 with core := { s2.core with lastCue := a.record.cueix.toNat } }).zeroCwp

/-- Place an act on the focused core: a bad record is logged and counted, and never runs (R22, R318). BADACT found here has TVAL0 and
TVAL1 of 0, as the record of a generator or of the act store has no stated address: DESIGN CHOICE, log 38. -/
def State.place (s : State) (a : Act) : State :=
  match s.ctxAt a.ctx with
  | none => s
  | some c =>
    match c.sceneOf a.record.scene with
    | some k =>
      if c.badRecord a.record then (s.logAsync a.ctx 0x41 0 false false 0 0).tally a.launch .bad
      else
        let s1 := match s.launchAt a.launch with
          | some l => s.bind l a.num
          | none => s
        s1.startAct k a
    | none => (s.logAsync a.ctx 0x41 0 false false 0 0).tally a.launch .bad

/-- Take an act from where it was found: the wings of the focused core, a generator, or a pool. -/
def State.takeItem (s : State) (a : Act) (x : PoolItem) : State :=
  match x with
  | .gen id =>
    let s1 := s.modLaunch id fun l => { l with toYield := dropNum a.num l.toYield }
    match s1.launchAt id with
    | some l => if l.toYield.isEmpty then s1.dropGen id else s1
    | none => s1
  | .act _ =>
    match s.core.wings with
    | w :: ws => if w = a then { s with core := { s.core with wings := ws } } else s.unpool x
    | [] => s.unpool x

/-- Take every ready act of a co-resident launch out of the pools and its generator. -/
def State.takeAll (s : State) (l : Launch) : State :=
  let s1 : State := { s with pools := vmap (fun (p : List (Nat × PoolItem)) => p.filter fun y => match y.2 with
    | .gen id => id != l.id
    | .act a => a.launch != l.id) s.pools }
  s1.modLaunch l.id fun x => { x with toYield := [], started := true }

/-- ACT_PLACEMENT: the focused core takes its next act from its wings or the ready pool; a co-resident launch starts all its
acts at once (R31, R319). -/
def execActPlacement (s : State) : Host.Outcome State Fault Refusal :=
  .next (if s.idleCore s.core.num then
    match s.pick s.core.num with
    | some (.single a x) => (s.takeItem a x).place a
    | some (.all l acts) => acts.foldl (fun s x => s.onCore x.2 fun s => s.place x.1) (s.takeAll l)
    | none => s
  else s)

/-! ### Leaving the core (R195, R201) -/

/-- The semaphore and value of the `sem.wait` of engine e that is on its way to the store or waits there. -/
def Live.semAcc (l : Live) (e : Engine) : Option (Nat × Word) :=
  l.acc.findSome? fun a => if a.eng = e then (match a.kind with
    | .hub (.semWait n v) => some (n, v)
    | _ => none) else none

/-- No operation but waits for semaphores is in flight. -/
def Live.onlyWaits (l : Live) : Bool := l.acc.all fun a => match a.kind with
  | .hub (.semWait _ _) => true
  | _ => false

/-- Engine e has started an instruction that still completes while nothing new issues: what it waits for needs no engine to act
(R195, R331; log 37). -/
def State.underway (s : State) (e : Engine) : Bool :=
  s.goesOn e && (s.core.live.eng e).rend.isNone && !s.core.live.pushStalled e &&
    (match (s.core.live.eng e).wait with
     | some w => (s.core.live.needsOf e w s.goesByItself).isNone
     | none => true)

/-- Everything that the act had started is done, as far as it can be: its started instructions, its accesses, and what the banks
can begin (R195 steps 2 and 3, R331). -/
def State.spent (s : State) : Bool :=
  engines.all (fun e => !s.underway e) && s.core.live.onlyWaits && s.core.live.drainReady.isEmpty &&
    (List.range 64).all fun j => (s.core.live.bankReady j).isNone

/-- No channel has a command. -/
def State.chansIdle (s : State) : Bool := vall s.core.chans (·.queue.isEmpty)

/-- What the end of an act leaves to be sent leaves the core by engine e: the entry of the fault log, or the record of a suspension at
a cue point; the act has then ended or suspended (R195 steps 4 and 5, R201, R202, R316, R331). The entry of UPSETX names M
(log 38). -/
def State.leaveEnd (s : State) (e : Engine) : State :=
  if s.spent && s.chansIdle then
    match s.core.ending with
    | some (.fault code f tv0 tv1) => if e = f then (s.logEnd code f.idx true tv0 tv1).endAct .faulted else s
    | some (.upset win) => if e = .m then (s.logAsync s.ctxId 0x44 2 true true win 0).endAct .faulted else s
    | some .cancel => if e = .a then s.endAct .dropped else s
    | some (.suspend n) =>
      match s.actScene with
      | some k => if e = .a && s.slotFree then s.suspendAt k n else s
      | none => s
    | some (.image _) => s
    | none => s
  else s

/-- HELD_OPERATION_LEAVE: the oldest held operation of engine e leaves the core; from then on it cannot be undone, so the undo ring
keeps no state from before its issue (R200, R201). Where none is left, the fault-log entry or the record of an act that ends or
suspends leaves. -/
def execHeldOperationLeave (e : Engine) (s : State) : Host.Outcome State Fault Refusal :=
  .next (match s.core.live.acc.find? fun a => decide (a.eng = e) && !a.left with
    | none => s.leaveEnd e
    | some a =>
      let s1 : State := { s with core := { s.core with ring := s.core.ring.takeWhile fun k => k.live.hasAcc a.seq } }
      ((s1.bump 15).modAll fun l => l.modAcc a.seq fun x => { x with left := true }).afterLeave a)

/-! ### Full images (R331, R332) -/

/-- The core may be saved: what it had started is done as far as it can be, and its channels are between sectors (R331). -/
def State.saveable (s : State) : Bool :=
  s.spent && vall s.core.chans fun c => match c.queue with
    | x :: _ => x.sent.isNone && x.got.isNone
    | [] => true

/-- The waits for semaphores as a full image saves them: those for the value w that it waits for complete at the resume, the others
are begun anew (R36, R331). -/
def Live.unwait (l : Live) (w : Option (Nat × Word)) : Live :=
  let l1 := engines.foldl (fun (x : Live) e => match l.semAcc e with
    | some q => x.modEng e fun y => { y with phase := if w = some q then 2 else 0 }
    | none => x) l
  { l1 with acc := [] }

/-- Begin a full-image suspension: no engine issues any more (R331). -/
def State.beginImage (s : State) (w : Option (Nat × Word)) : State :=
  { s with core := { s.core with ending := some (.image w) } }

/-- Value of a semaphore of a context (R360). -/
def State.semVal (s : State) (ctx n : Nat) : Word :=
  match s.ctxAt ctx with
  | some c => Sparse.get 0 c.sems n
  | none => 0

/-- Some engine of the core still waits for this semaphore and value: its wait has not completed (R362). -/
def Live.stillWaits (l : Live) (w : Nat × Word) : Bool := engines.any fun e => l.semAcc e == some w

/-- Save the whole core state and free the core (R331): the act is Ready, or waits for a semaphore (R36), unless its wait has completed
since it began to suspend (R362). The bytes of the image are private to the device, and their number is free (R330; log 8). -/
def State.saveImage (s : State) (w : Option (Nat × Word)) : State :=
  match s.core.act with
  | none => s
  | some a =>
    s.afterRelease (max 3 s.rsc) fun s =>
      let k := s.draw
      let waits := fun (q : Nat × Word) => s.core.live.stillWaits q && decide (s.semVal a.ctx q.1 < q.2)
      let (s, b) := k.2.keep { a with
        record := s.written a s.core.lastCue,
        image := .full s.core.num (s.core.live.unwait w) s.core.chans s.core.lastCue s.core.yieldMark, home := s.core.num,
        pinned := s.replacing.contains s.core.num }
        (wardrobeHeader s.core.live.fpflags true (k.1 % (5 * 2 ^ 20 + 1)) s.core.num) []
      match w with
      | none => s.leave b
      | some (n, v) =>
        if waits (n, v) then ({ s with waiters := s.waiters ++ [(b, n, v)] }.emptyWings).vacate else s.leave b

/-- FULL_IMAGE_SUSPENSION: a hard request stops the core's issue; once what it had started has completed, the whole core state
is saved (R322, R331). -/
def execFullImageSuspension (s : State) : Host.Outcome State Fault Refusal :=
  .next (match s.core.ending with
    | some (.image w) => if s.saveable && s.slotFree then s.saveImage w else s
    | some _ => s
    | none => if s.running && s.core.request == some true then s.beginImage none else s)

/-- REGION_EXPIRY: an intermission request has met no cue point for REGION cycles (R332). -/
def execRegionExpiry (s : State) : Host.Outcome State Fault Refusal :=
  .next (if s.running && s.core.request.isSome then s.beginImage none else s)

/-- The cores that an intermission of the focused core's act concerns: all of a co-resident launch's (R31, R322). -/
def State.together? (s : State) : List Nat :=
  match s.curLaunch with
  | some l => if l.record.cor then s.residents l.id else [s.core.num]
  | none => [s.core.num]

/-- Ask for the intermission of the focused core's act; a core holds at most one request (R322). -/
def State.ask (s : State) (hard : Bool) : State :=
  s.together?.foldl (fun s n => s.modCore n fun c =>
    if c.act.isSome && c.request.isNone then { c with request := some hard } else c) s

/-- INTERMISSION_REQUEST: the prompter or the stage manager asks for an intermission, by a full image if `hard` (R322). -/
def execIntermissionRequest (hard : Bool) (s : State) : Host.Outcome State Fault Refusal :=
  .next (if s.core.act.isSome && s.core.ending.isNone then s.ask hard else s)

/-- The act of a core with a lower priority than p, older placed first among the lowest (R322). -/
def lowestAct (p : Nat) : List Core → Option Core
  | [] => none
  | c :: cs =>
    match c.act, lowestAct p cs with
    | some a, some d =>
      match d.act with
      | some b =>
        if a.record.prio < p ∧ (a.record.prio < b.record.prio ∨ (a.record.prio = b.record.prio ∧ a.placed < b.placed)) then some c
        else some d
      | none => some c
    | some a, none => if a.record.prio < p then some c else none
    | none, r => r

/-- The state in which core n would have no resident act. -/
def State.freed (s : State) (n : Nat) : State := s.modCore n fun c => { c with act := none }

/-- An item of a pool would be eligible on core n if the core were free; a co-resident one, if all its acts could then be placed in
one cycle (R36, R319, R322). -/
def State.wouldRun (s : State) (n : Nat) (x : PoolItem) : Bool := ((s.freed n).offer n x).isSome

/-- PRIORITY_WAIT_EXPIRY: a ready eligible act of a priority has waited 65,536 cycles: the eligible core of the die whose act has
the lowest priority, the longest resident of them, is asked to intermit it (R322). -/
def execPriorityWaitExpiry (die prio : Nat) (s : State) : Host.Outcome State Fault Refusal :=
  .next (match ((vget s.pools die []).filter fun x => x.1 == prio).findSome? fun x =>
      lowestAct prio (s.allCores.filter fun c => dieOf c.num == die && c.act.isSome && s.wouldRun c.num x.2) with
    | some c => s.onCore c.num fun s => s.ask false
    | none => s)

/-! ### The rendezvous of act.yield and act.end (R30, R328) -/

/-- ACT_YIELD: waits for the other engines; X delivers its slow results (R126, R328). -/
def execActYield (cu : Cue) (s : State) : Host.Outcome State Fault Refusal :=
  ({ i := .actYield cu, cu := cu, op := 0x78, flush := true, body := rendezvous 0x2000 } : Issue).run s

/-- ACT_END: waits for the other engines; X delivers its slow results (R126, R328). -/
def execActEnd (cu : Cue) (s : State) : Host.Outcome State Fault Refusal :=
  ({ i := .actEnd cu, cu := cu, op := 0x79, flush := true, body := rendezvous 0x2001 } : Issue).run s

/-- The `act.yield` of engine e completes (R328). -/
def State.endYield (s : State) (e : Engine) : State :=
  match (s.core.live.eng e).fetched with
  | .actYield cu =>
    ({ i := .actYield cu, cu := cu, op := 0x78, body := rendezvous 0x2000 } : Issue).finish
      ({ s with cur := e }.modEng fun x => { x with rend := none })
  | _ => s

/-- ACT_YIELD_RENDEZVOUS: the act is marked to yield, which satisfies a pending request, and every engine issues on (R24, R328,
R333). -/
def execActYieldRendezvous (s : State) : Host.Outcome State Fault Refusal :=
  .next (if s.core.live.met = some 0x2000 ∧ s.running then
    let s1 := engines.foldl State.endYield s
    { s1 with cur := s.cur, core := { s1.core with yieldMark := true, request := none } }
  else s)

/-- The act may end: its engines have met, and what it started is done (R30). -/
def State.mayEnd (s : State) : Bool := s.core.live.met == some 0x2001 && s.running && s.core.live.allDone && s.quiet

/-- ACT_END_RENDEZVOUS: the act releases at the wider of its innermost scope and RSC, and has ended (R30). -/
def execActEndRendezvous (s : State) : Host.Outcome State Fault Refusal :=
  .next (if s.mayEnd then
    s.afterRelease (max s.rsc (match s.curLaunch with | some l => l.record.innerScope | none => 0)) fun s => s.endAct .ended
  else s)

/-! ### act.next (R326) -/

/-- The claim of c indices, or the claim that this `act.next` made before an upset (R202, R326). -/
def State.claim (s : State) (c : Word) : State × Word × Word :=
  let n := s.eng.claims
  match s.core.claims.find? fun x => x.1 == s.cur && x.2.1 == n with
  | some x => (s, x.2.2.1, x.2.2.2)
  | none =>
    let room := s.core.actCeil - s.core.actCur
    let k := if room < c then room else c
    ({ s with core := { s.core with
        actCur := s.core.actCur + k, claims := ((s.cur, n, s.core.actCur, k) :: s.core.claims).take (4 * Config.ringDepth) } },
      s.core.actCur, k)

/-- ACT_NEXT: claims indices of the act's range (R326). -/
def execActNext (cu : Cue) (d a b : BitVec 5) (s : State) : Host.Outcome State Fault Refusal :=
  plain (.actNext cu d a b) cu 0x77 [d, a, b] (fun s =>
    let r := s.claim (s.rs a)
    ((r.1.ws d r.2.1).ws b r.2.2).modEng fun x => { x with claims := x.claims + 1 }) s

/-! ### act.spawn (R327) -/

/-- The scope of the innermost level of the resident act's launch. -/
def State.spawnScope (s : State) : Nat :=
  match s.curLaunch with
  | some l => l.record.innerScope
  | none => 0

/-- A read that an instruction of A waits for at issue: it releases first, and its access is entered (R327, R329). -/
def readPhase (addr : State → DWord) (n : Nat) (scope : State → Nat) (k : Piece → AccKind) (left : Bool) (s : State) : Res :=
  s.checked (s.range { write := false } (addr s) n n) fun ps s =>
    match ps with
    | [p] => .hold (s.modLive fun l =>
        let l1 := l.addRelease .a (scope s)
        let l2 := l1.addAcc (access l1.seq .a (k p) left)
        { l2.modEng .a fun x => { x with phase := 1, phaseSeq := l1.seq } with seq := l1.seq + 1 }) .external
    | _ => .wait .external

/-- The issue of ACT_SPAWN. -/
def spawnIssue (cu : Cue) (a : BitVec 5) : Issue :=
  { i := .actSpawn cu a, cu := cu, op := 0x76,
    body := fun s => if s.eng.phase = 1 then .wait .external
      else readPhase (fun s => s.ra a) 64 State.spawnScope (fun p => .hub (.spawn p)) false s }

/-- ACT_SPAWN: creates an act from a record in memory (R327). -/
def execActSpawn (cu : Cue) (a : BitVec 5) (s : State) : Host.Outcome State Fault Refusal := (spawnIssue cu a).run s

/-- The spawned act of a record: the launch's level replaces its DET (R41, R327). -/
def State.childOf (s : State) (p : Act) (bs : List Byte) : Act :=
  let r := ActRec.ofBytes bs
  let det : BitVec 2 := match s.launchAt p.launch with
    | some l => l.det
    | none => p.record.det
  let r1 := { r with flags := (r.flags &&& ~~~(0x180 : BitVec 16)) ||| (det.setWidth 16 <<< 7) }
  { record := r1, origin := r1, ctx := p.ctx, launch := p.launch, num := p.num, image := .none, placed := 0,
    home := s.core.num, spawned := true, slot := none, pinned := false }

/-- Enter a spawned act: at the head of the wings, or in the ready pool when they are full (R323, R327). It takes a slot of the act
store where one is free (R330; log 8). -/
def State.enterChild (s : State) (b : Act) : State :=
  let (s1, b) := (s.modLaunch b.launch fun l => { l with open_ := l.open_ + 1 }).keep b [] []
  if s1.core.wings.length < 16 then { s1 with core := { s1.core with wings := b :: s1.core.wings } } else s1.ready b

/-- The launch of an act is cancelled. -/
def State.cancelledOf (s : State) (a : Act) : Bool :=
  match s.launchAt a.launch with
  | some l => l.cancelled
  | none => false

/-- A record has been read by `act.spawn` at an address: a bad one is logged and counted; an act of a cancelled launch is dropped (R22,
R316, R327). -/
def State.spawn (s : State) (va : DWord) (bs : List Byte) : State :=
  match s.core.act with
  | none => s
  | some p =>
    let b := s.childOf p bs
    if (match s.ctxAt p.ctx with | some c => c.badRecord b.record | none => true) then
      (s.logAsync p.ctx 0x41 0 true false (va.setWidth 32) ((va >>> 32).setWidth 32)).modLaunch p.launch fun l =>
        { l with bad := l.bad + 1 }
    else if s.cancelledOf p then s.modLaunch p.launch fun l => { l with dropped := l.dropped + 1 }
    else s.enterChild b

/-! ### Stealing (R324, R325) -/

/-- Cores of a place that a thief may ask: a core that takes no acts for want of an understudy is chosen as no victim (R324, R348). -/
def State.victims (s : State) (thief : Nat) (p : Place) : List Nat := p.cores.filter fun n => n != thief && s.available n

/-- Requests left in a round: those to the cluster are left out where it has no other core to ask (R324). -/
def State.toAsk (s : State) (thief left : Nat) : Nat :=
  if (s.victims thief ⟨1, clusterOf thief⟩).isEmpty then min 8 left else left

/-- The victim of a thief's next request: a core of its cluster for the first eight of a round, then of its die (R324). The number of the
first request is 0, and the draw's w0 modulo the number of those that may be asked names one, in ascending order: DESIGN CHOICE, log 25,
as R324 gives the key and the counter and not these. -/
def State.victimOf (s : State) (thief attempt left : Nat) : Nat :=
  let cs := s.victims thief (if 8 < s.toAsk thief left then ⟨1, clusterOf thief⟩ else ⟨2, dieOf thief⟩)
  let w := (philox (BitVec.ofNat 32 (dieOf thief), 0) (BitVec.ofNat 32 thief, BitVec.ofNat 32 attempt, 0, 0)).1
  cs.getD (w.toNat % cs.length) thief

/-- A launch whose acts are never stolen (R28, R324). -/
def Launch.unstealable (l : Launch) : Bool := l.det == 2 || l.record.cor || l.record.domain (l.record.levels - 1) == 0

/-- The victim is asked to suspend, is suspending, or is being replaced (R324, R333, R348). -/
def State.busyVictim (s : State) : Bool := s.replacing.contains s.core.num || s.core.request.isSome || s.core.ending.isSome || s.core.yieldMark && s.core.live.met.isSome

/-- The tail of the wings that the thief may take (R324). -/
def State.wingFor (s : State) (thief : Nat) : Option Act :=
  match s.core.wings.getLast? with
  | some a => match s.launchAt a.launch with
    | some l => if !l.unstealable && s.eligibleAct a thief then some a else none
    | none => none
  | none => none

/-- The piece of the resident act's range that the thief may take: its act, and the new ceiling (R325). -/
def State.pieceFor (s : State) (thief : Nat) : Option (Act × Word) :=
  match s.core.act with
  | some a =>
    match s.launchAt a.launch with
    | some l =>
      let r := s.core.actCeil - s.core.actCur
      if l.unstealable || s.core.actCeil ≤ s.core.actCur || r < 2 || !s.eligibleAct { a with spawned := false } thief then none
      else
        let mid := s.core.actCur + BitVec.ofNat 32 ((r.toNat + 1) / 2)
        let rec' := { a.origin with lo := mid, hi := s.core.actCeil }
        some ({ a with record := rec', origin := rec', image := .none, home := thief, slot := none }, mid)
    | none => none
  | none => none

/-- The thief has made a request, of so many left in its round: it rests after its last (R324). -/
def Core.asked (left : Nat) (c : Core) : Core :=
  { c with attempts := c.attempts + 1, stealsLeft := left - 1, resting := decide (left ≤ 1) }

/-- STEAL_REQUEST: the focused core answers a thief whose next victim it is: it hands over the tail of its wings, splits its
act's range, or refuses (R324, R325). -/
def execStealRequest (thief : Nat) (s : State) : Host.Outcome State Fault Refusal :=
  .next (let t := s.coreAt thief
    if thief < Config.cores && s.idleCore thief && !t.resting && (s.pick thief).isNone && thief != s.core.num &&
        s.victimOf thief t.attempts t.stealsLeft == s.core.num then
      let s1 := s.modCore thief (Core.asked (s.toAsk thief t.stealsLeft))
      if s1.busyVictim then s1.bump 11
      else match s1.wingFor thief with
        | some a =>
          (({ s1 with core := { s1.core with wings := s1.core.wings.dropLast } }).bump 10).onCore thief fun s => s.place a
        | none =>
          match s1.pieceFor thief with
          | some (a, mid) =>
            ((({ s1 with core := { s1.core with actCeil := mid } }).bump 10).modLaunch a.launch fun l =>
              { l with open_ := l.open_ + 1 }).onCore thief fun s => s.place a
          | none => s1.bump 11
    else s)

/-- STEAL_REST_EXPIRY: after its rest the core searches again (R324). -/
def execStealRestExpiry (s : State) : Host.Outcome State Fault Refusal :=
  .next (if s.core.resting then { s with core := { s.core with resting := false, stealsLeft := 16 } } else s)

end Sys2Proof.Machine
end

