-- ==== Sys2Proof/Machine/Galois.lean ====
section
/-! DEFINITION. The field arithmetic of the coding group and of the digest (R367, R368, R380). -/

namespace Sys2Proof.Machine

open Sys2Proof

/-- Multiply in GF(2^w) with the reduction constant poly (without the top term): bits k - 1 to 0 of b still to add. -/
def gfMulFrom (w poly : Nat) (a b : Nat) (k : Nat) (acc : Nat) : Nat :=
  match k with
  | 0 => acc
  | k + 1 =>
    let d := acc * 2
    let r := if 2 ^ w ≤ d then Nat.xor (d - 2 ^ w) poly else d
    gfMulFrom w poly a b k (if b.testBit k then Nat.xor r a else r)

/-- Multiplication in GF(2^8), 0x11D (R367). -/
def gf8Mul (a b : Nat) : Nat := gfMulFrom 8 0x1D a b 8 0

/-- Power in GF(2^8). -/
def gf8Pow (a : Nat) : Nat → Nat
  | 0 => 1
  | n + 1 => gf8Mul a (gf8Pow a n)

/-- Inverse in GF(2^8): the 254th power. -/
def gf8Inv (a : Nat) : Nat := gf8Pow a 254

/-- The coefficient c[j][u] (R367). -/
def coef (j u : Nat) : Nat := gf8Inv (Nat.xor j (4 + u))

/-- Multiply each symbol by a constant. -/
def symScale (c : Nat) (ss : List Byte) : List Byte := ss.map fun b => BitVec.ofNat 8 (gf8Mul c b.toNat)

/-- Add symbols. -/
def symAdd (a b : List Byte) : List Byte := List.zipWith (· ^^^ ·) a b

/-- 66 zero symbols. -/
def symZero : List Byte := List.replicate 66 0

/-- The symbols of a sector: 64 data bytes and the two scales each ⊕ 0x7F (R367). -/
def symsOf (data : List Byte) (scales : BitVec 16) : List Byte :=
  data ++ [scales.setWidth 8 ^^^ 0x7F, (scales >>> 8).setWidth 8 ^^^ 0x7F]

/-- The data bytes of 66 symbols. -/
def symsData (ss : List Byte) : List Byte := ss.take 64

/-- The scales of 66 symbols. -/
def symsScales (ss : List Byte) : BitVec 16 :=
  ((ss.getD 64 0 ^^^ 0x7F).setWidth 16) ||| ((ss.getD 65 0 ^^^ 0x7F).setWidth 16 <<< 8)

/-- Stripe and data position of region sector k of member i in a group of n members with d data positions (R368). -/
def stripeOf (n d k i : Nat) : Nat × Nat := ((k * n + i) / d, (k * n + i) % d)

/-- Holder and parity-area sector of share j of a stripe (R368). -/
def shareOf (n m stripe j : Nat) : Nat × Nat :=
  let h := stripe * m + m - j
  ((n - h % n) % n, (h - 1) / n)

/-- Number of stripes for q sectors a member (R368). -/
def stripes (n d q : Nat) : Nat := (n * q + d - 1) / d

/-- Member and region sector of data position u of a stripe, none where the position is zero (R368). -/
def dataOf (n d q stripe u : Nat) : Option (Nat × Nat) :=
  let g := stripe * d + u
  if g < n * q then some (g % n, g / n) else none

/-- Subtract (add) c times one row from another over GF(2^8). -/
def rowAdd (c : Nat) (x y : List Nat) : List Nat := List.zipWith (fun a b => Nat.xor a (gf8Mul c b)) x y

/-- One column of Gauss-Jordan elimination on rows with at least one nonzero entry in column k at or after row k: the pivot
row is scaled, and every other row is cleared in that column. -/
def eliminate (rows : List (List Nat)) (k : Nat) : List (List Nat) :=
  match (rows.drop k).findIdx? (fun r => r.getD k 0 != 0) with
  | none => rows
  | some i =>
    let p := rows.getD (k + i) []
    let rest := rows.eraseIdx (k + i)
    let piv := p.map (gf8Mul (gf8Inv (p.getD k 0)))
    let cleared := rest.map fun r => rowAdd (r.getD k 0) r piv
    cleared.take k ++ piv :: cleared.drop k

/-- Solve a square system over GF(2^8): rows of coefficients, each followed by its right side in symbols. -/
def solveRows (rows : List (List Nat)) : List (List Nat) := (List.range rows.length).foldl eliminate rows

/-- Multiplication in GF(2^128), x^128 + x^7 + x^2 + x + 1 (R380). -/
def gf128Mul (a b : BitVec 128) : BitVec 128 := BitVec.ofNat 128 (gfMulFrom 128 0x87 a.toNat b.toNat 128 0)

/-- The digest contribution of one sector: blocks b0 to b4 times K^5 to K, by Horner's rule (R380). -/
def digestSector (k : BitVec 128) (off : Nat) (bytes : List Byte) : BitVec 128 :=
  let blk := fun i => BitVec.ofNat 128 (natOfBytes ((bytes.drop (16 * i)).take 16))
  [BitVec.ofNat 128 off, blk 0, blk 1, blk 2, blk 3].foldl (fun acc b => gf128Mul (acc ^^^ b) k) 0

/-- The digest of an output range, sector by sector (R380). -/
def digestBytes (k : BitVec 128) (off : Nat) (bytes : List Byte) (n : Nat) : BitVec 128 :=
  match n with
  | 0 => 0
  | n + 1 => digestSector k off (bytes.take 64) ^^^ digestBytes k (off + 64) (bytes.drop 64) n

end Sys2Proof.Machine
end

