-- ==== Sys2Proof/Machine/Sem.lean ====
section
/-! DEFINITION. Semaphores, the wait for a copy channel, and `ctr.rd` (R36, R360 to R366, R389, R390). -/

namespace Sys2Proof.Machine

open Sys2Proof

/-! ### Selectors (R360) -/

/-- NUM, PEER and RMT of a selector. -/
def semNum (sel : Word) : Nat := sel.toNat % 4096
def semPeer (sel : Word) : Nat := sel.toNat / 4096 % 64
def semRmt (sel : Word) : Bool := sel.getLsbD 18

/-- Fabric indices of the resident act's context (R344). -/
def State.groupSize (s : State) : Nat :=
  match s.ctxAt s.ctxId with
  | some c => c.fabric.length
  | none => 0

/-- The check of a selector: `sig` allows a remote one at `.grp` (R360). -/
def State.semCheck (s : State) (sel : Word) (sig : Bool) (sc : BitVec 3) : Option Trap :=
  if decide (2 ^ 19 ≤ sel.toNat) || (!semRmt sel && semPeer sel != 0) ||
      (semRmt sel && (decide (s.groupSize ≤ semPeer sel) || !sig || sc != 4)) then some ⟨0x13, sel, 0⟩
  else none

/-- A selector names this module's store (R360). -/
def State.semLocal (s : State) (sel : Word) : Bool :=
  !semRmt sel || (match s.ctxAt s.ctxId with
    | some c => c.self == semPeer sel
    | none => true)

/-! ### Signals (R361) -/

/-- A semaphore value after a signal: a saturating add, or a set (R361). -/
def semNew (old : Word) (set : Bool) (v : Word) : Word :=
  if set then v else if 2 ^ 32 ≤ old.toNat + v.toNat then 0xFFFFFFFF else old + v

/-- Waiters whose value is reached become Ready (R36). -/
def State.wake (s : State) (ctx num : Nat) (v : Word) : State :=
  let hit := fun (w : Act × Nat × Word) => w.1.ctx == ctx && w.2.1 == num && decide (w.2.2 ≤ v)
  (s.waiters.filter hit).foldl (fun s w => s.ready w.1) { s with waiters := s.waiters.filter fun w => !hit w }

/-- A signal is performed at this module's store (R361, R364). -/
def State.signal (s : State) (ctx num : Nat) (set : Bool) (v : Word) : State :=
  let x := semNew (s.semVal ctx num) set v
  (s.modCtx ctx fun c => { c with sems := Sparse.set 0 c.sems num x }).wake ctx num x

/-- A signal instruction: releases at its scope, then signals (R361). -/
def sigOp (i : Instr) (cu : Cue) (a b : BitVec 5) (sc : BitVec 3) (set : Bool) (s : State) :
    Host.Outcome State Fault Refusal :=
  ({ i := i, cu := cu, op := 0x7C, uses := [a, b],
     body := fun s =>
       match s.semCheck (s.rs a) true sc with
       | some t => .fault s t
       | none => .pend (s.modLive fun l =>
           let l1 := l.addRelease s.cur sc.toNat
           l1.addAcc (access l1.seq s.cur (.semSig (s.rs a) set (s.rs b)) false)) } : Issue).run s

/-- SEM_SIG: adds to a semaphore (R361). -/
def execSemSig (cu : Cue) (a b : BitVec 5) (sc : BitVec 3) (s : State) : Host.Outcome State Fault Refusal :=
  sigOp (.semSig cu a b sc) cu a b sc false s

/-- SEM_SIG_SET: sets a semaphore (R361). -/
def execSemSigSet (cu : Cue) (a b : BitVec 5) (sc : BitVec 3) (s : State) : Host.Outcome State Fault Refusal :=
  sigOp (.semSigSet cu a b sc) cu a b sc true s

/-- An access is wholly done: it leaves the list and its instruction completes. -/
def State.settleAcc (s : State) (a : Access) : State := s.modAll fun l => (l.dropAcc a.seq).retireDone a.eng a.seq

/-- The writes and copies of A still to come that an access knows complete at issue (R273). -/
def State.pendingKnown (s : State) (a : Access) : List Nat :=
  (((s.core.live.acc.filter fun x => decide (x.eng = .a)).map (·.seq)) ++ s.core.chans.toList.flatMap fun c => c.queue.map (·.seq)).filter
    fun n => decide (n < s.core.live.told.floor) || a.known.contains n

/-- A signal orders what its engine knows complete before the waits that its semaphore completes (R273, log 32). -/
def State.tellSem (s : State) (ctx num : Nat) (a : Access) : State :=
  match s.pendingKnown a with
  | [] => s
  | ns => s.modCtx ctx fun c =>
    { c with semTold := assocSet c.semTold num (((assoc c.semTold num).getD []) ++ ns.map fun n => (s.core.num, n)) }

/-- An engine learns what the signals of a semaphore have ordered before its wait (R273, log 32). -/
def State.hearSem (s : State) (e : Engine) (num : Nat) : State :=
  match s.ctxAt s.ctxId with
  | some c => match ((assoc c.semTold num).getD []).filter fun x => x.1 == s.core.num with
    | [] => s
    | ns => s.modAll fun l => l.learn e (ns.map (·.2))
  | none => s

/-- SEM_SIGNAL_PERFORM: the first access of engine e is a signal that has left the core; it reaches the store of its semaphore
(R251, R361, R364). -/
def execSemSignalPerform (e : Engine) (s : State) : Host.Outcome State Fault Refusal :=
  .next (match s.core.live.firstAcc e with
    | some a =>
      match a.kind with
      | .semSig sel set v =>
        if !a.left || a.sent then s
        else if s.semLocal sel then ((s.signal s.ctxId (semNum sel) set v).tellSem s.ctxId (semNum sel) a).settleAcc a
        else if (match s.ctxAt s.ctxId with | some c => c.lost.contains (semPeer sel) | none => true) then (s.lerr 4).settleAcc a
        else (s.request (semPeer sel) 0 (.signal (semNum sel) set v)).putAcc { a with sent := true }
      | _ => s
    | none => s)

/-! ### Waits and reads (R36, R362, R363) -/

/-- The wait value of a `sem.wait` (R360). -/
def State.waitValue (s : State) (b : BitVec 5) (imm : BitVec 26) (i : Bool) : Word := if i then imm.setWidth 32 else s.rs b

/-- SEM_WAIT: waits until a semaphore has reached a value: a held operation that the store completes (R362, R364). A value of 0
completes at issue. -/
def execSemWait (cu : Cue) (a b : BitVec 5) (sc : BitVec 3) (imm : BitVec 26) (i : Bool) (s : State) :
    Host.Outcome State Fault Refusal :=
  ({ i := .semWait cu a b sc imm i, cu := cu, op := 0x7D, flush := true, uses := if i then [a] else [a, b],
     body := fun s =>
       if s.eng.phase = 2 then .done s
       else if s.eng.phase = 1 then .wait .external
       else match s.semCheck (s.rs a) false sc with
         | some t => .fault s t
         | none =>
           let w := s.waitValue b imm i
           if w = 0 then .done s
           else .hold (s.modLive fun l =>
             let l1 := l.addAcc (access l.seq s.cur (.hub (.semWait (semNum (s.rs a)) w)) false)
             { l1.modEng s.cur fun x => { x with phase := 1, phaseSeq := l.seq } with seq := l.seq + 1 }) .external } : Issue).run s

/-- The register waits for a result of a held operation of engine e (R201); s0 waits for none. -/
def Live.await (l : Live) (e : Engine) (d : BitVec 5) : Live := if d = 0 then l else { l with pendReg := l.pendReg ++ [(e, d)] }

/-- An instruction whose result a held operation of the hub returns (R201). -/
def Live.hubOp (l : Live) (e : Engine) (op : HubOp) (d : BitVec 5) : Live :=
  (l.addAcc (access l.seq e (.hub op) false)).await e d

/-- SEM_RD: reads a semaphore, as an acquire (R363). -/
def execSemRd (cu : Cue) (d a : BitVec 5) (sc : BitVec 3) (s : State) : Host.Outcome State Fault Refusal :=
  ({ i := .semRd cu d a sc, cu := cu, op := 0x7E, uses := [d, a],
     body := fun s =>
       match s.semCheck (s.rs a) false sc with
       | some t => .fault s t
       | none => .pend (s.modLive fun l => l.hubOp s.cur (.semRd (semNum (s.rs a)) d) d) } : Issue).run s

/-- The semaphore and value for which engine e waits in a `sem.wait`, while the store has not reached it. -/
def State.semWaitOf (s : State) (e : Engine) : Option (Nat × Word) :=
  match s.core.live.semAcc e with
  | some (n, w) => if w ≤ s.semVal s.ctxId n then none else some (n, w)
  | none => none

/-- The `sem.wait` of an access has been completed by the store; it stays completed (R362, R364). -/
def State.endWait (s : State) (a : Access) : State :=
  s.modAll fun l => (l.dropAcc a.seq).modEng a.eng fun x =>
    if x.started && decide (x.phase = 1) && decide (x.phaseSeq = a.seq) then { x with phase := 2 } else x

/-- The pool of the core's die holds a ready act of at least the resident one's priority that is eligible here (R36). -/
def State.rival (s : State) : Bool :=
  match s.core.act with
  | some a => (vget s.pools (dieOf s.core.num) []).any fun x => decide (a.record.prio ≤ x.1) && s.wouldRun s.core.num x.2
  | none => false

/-- SEM_WAIT_YIELD_TEST: an engine that waits in a `sem.wait` yields the core if another act of at least its priority is ready
(R36). The act has its slot in the act store from then on (R330). -/
def execSemWaitYieldTest (e : Engine) (s : State) : Host.Outcome State Fault Refusal :=
  .next (if s.running then
    match s.semWaitOf e with
    | some w => if s.rival && s.slotFree then s.reserveSlot.beginImage (some w) else s
    | none => s
  else s)

/-! ### cwait (R366) -/

/-- CWAIT: waits until a channel has written up to a value, or is idle with an empty queue (R366). -/
def execCwait (cu : Cue) (a : BitVec 5) (ch : BitVec 3) (s : State) : Host.Outcome State Fault Refusal :=
  ({ i := .cwait cu a ch, cu := cu, op := 0x7F, uses := [a],
     body := fun s =>
       if (((vget s.core.chans ch.toNat ⟨0, []⟩).cwp - s.rs a).toNat < 2 ^ 31) || s.chanLoad ch.toNat == 0 then .done s
       else .wait .external } : Issue).run s

/-! ### ctr.rd (R389, R390) -/

/-- Counters of class P, which read 0 at determinism levels 1 and 2 (R390). -/
def ctrClassP (fn : Nat) : Bool := fn == 1 || fn == 2 || fn == 4 || fn == 6 || fn == 7 || fn == 8 || fn == 0x10

/-- The value of a counter (R389): events that this model does not count, and cycles, are free values (log 3). -/
def State.counter (s : State) (fn idx : Nat) : DWord :=
  let ctx := s.ctxAt s.ctxId
  let of := fun (f : Ctx → DWord) => match ctx with
    | some c => f c
    | none => 0
  match fn with
  | 0x00 => Config.freeCount s.free
  | 0x01 => (s.core.live.eng (engineOf idx)).issued
  | 0x02 => (vget s.core.chans idx ⟨0, []⟩).cwp.setWidth 64
  | 0x03 => of fun c => match assoc c.groups idx with
    | some g => g.cr.setWidth 64
    | none => 0
  | 0x04 => of fun c => match assoc c.prot idx with
    | some p => p.undop.setWidth 64
    | none => 0
  | 0x05 => of fun c => match assoc c.reps idx with
    | some r => r.lgen.setWidth 64
    | none => 0
  | 0x06 => vget s.core.gens (idx - 1) 0
  | 0x07 => BitVec.ofNat 64 s.core.ups
  | 0x08 => BitVec.ofNat 64 s.core.cor
  | 0x09 => BitVec.ofNat 64 (vget s.edie idx 0)
  | 0x0A => of fun c => BitVec.ofNat 64 (vget c.ectx idx 0)
  | 0x0B => of fun c => BitVec.ofInt 64 (vget c.credit idx 0)
  | _ => if 6 ≤ idx && idx < 10 then Config.freeCount s.free else vget s.core.pmc idx 0

/-- The word that `ctr.rd` delivers (R389, R390). -/
def State.ctrWord (s : State) (fn idx : Nat) (hi : Bool) : Word :=
  if ctrClassP fn && s.core.detlvl != 0 then 0
  else if hi then (s.counter fn idx >>> 32).setWidth 32 else (s.counter fn idx).setWidth 32

/-- CTR_RD: reads one counter, or its high half (R389, R390). -/
def execCtrRd (cu : Cue) (d idx : BitVec 5) (hi : Bool) (fn : BitVec 6) (s : State) : Host.Outcome State Fault Refusal :=
  plain (.ctrRd cu d idx hi fn) cu 0x17 [d] (fun s =>
    { s.ws d (s.ctrWord fn.toNat idx.toNat hi) with free := s.free + 1 }) s

end Sys2Proof.Machine
end

