-- ==== Sys2Proof/Machine/Launches.lean ====
section
/-! DEFINITION. Launch rings and the launch fetcher: doorbells, slots, the checks of a record, admission, LEVEL, FENCE and
CANCEL records, start barriers and completion entries (R25 to R33, R38, R41, R310 to R318, R354). -/

namespace Sys2Proof.Machine

open Sys2Proof

/-! ### Rings and slots (R310, R313, R314) -/

/-- The ring under a queue number. -/
def State.ring (s : State) (q : Nat) : Option Ring := assoc s.rings q

/-- Change a ring. -/
def State.modRing (s : State) (q : Nat) (f : Ring → Ring) : State := { s with rings := assocMod s.rings q f }

/-- A ring has unread records. -/
def Ring.unread (r : Ring) : Bool := r.head != r.tail && !r.halted

/-- A ring holds a slot. -/
def State.mapped (s : State) (q : Nat) : Bool := s.slots.any fun t => t.q == q

/-- A ring just registered (R310). -/
def newRing (ctx cls size base : Nat) : Ring :=
  { ctx := ctx, cls := cls, size := size, base := base, head := 0, tail := 0, halted := false, pendAt := 0, served := 0,
    urgent := false }

/-- RING_REGISTRATION: the stage manager registers a ring with its context and class (R310). -/
def execRingRegistration (q ctx cls size base : Nat) (s : State) : Host.Outcome State Fault Refusal :=
  .next (s.command (decide (q < 4096) && (s.ring q).isNone && (s.ctxAt ctx).isSome && decide (cls < 4) && decide (4 ≤ size) &&
      decide (size ≤ 16)) fun s =>
    { s with rings := assocSet s.rings q (newRing ctx cls size base) })

/-- A doorbell write to a registered ring (R310). -/
def State.ringBell (s : State) (q : Nat) (r : Ring) (tail : Word) : State :=
  if tail = r.tail then s
  else if 2 ^ r.size < (tail - r.head).toNat then
    (s.modRing q fun x => { x with tail := tail, halted := true }).tell (.ringHalted q)
  else
    { (s.modRing q fun x => { x with tail := tail, pendAt := if r.unread then r.pendAt else s.order }) with order := s.order + 1 }

/-- DOORBELL: a host write of TAIL publishes records or halts the ring, and releases the host's writes (R268, R310). -/
def execDoorbell (q : Nat) (tail : Word) (s : State) : Host.Outcome State Fault Refusal :=
  .next (if s.host.serves && decide (q < 4096) then
    let s1 := State.hostRelease { s with bells := Sparse.set 0 s.bells q tail }
    match s1.ring q with
    | some r => s1.ringBell q r tail
    | none => s1
  else s)

/-- Slots that a class holds. -/
def State.held (s : State) (cls : Nat) : Nat :=
  (s.slots.filter fun t => match s.ring t.q with | some r => r.cls == cls | none => false).length

/-- The first pending ring of a class. -/
def State.pendingOf (s : State) (cls : Nat) : Option Nat :=
  (s.rings.filter fun r => r.2.cls == cls && r.2.unread && !s.mapped r.1).foldl
    (fun b r => match b with
      | none => some r.1
      | some q => match s.ring q with
        | some x => if r.2.pendAt < x.pendAt then some r.1 else some q
        | none => some r.1) none

/-- The classes in the order of service. -/
def classes : List Nat := [3, 2, 1, 0]

/-- The class holds fewer slots than its minimum. -/
def State.below (s : State) (cls : Nat) : Bool := decide (s.held cls < vget s.classMin cls 0)

/-- A free slot is left. -/
def State.freeSlot (s : State) : Bool := decide (s.slots.length < 256)

/-- The borrowed slot that was mapped longest ago (R313). -/
def State.borrowed (s : State) : Option Slot :=
  (s.slots.filter fun t => match s.ring t.q with
      | some r => decide (vget s.classMin r.cls 0 < s.held r.cls)
      | none => true).foldl
    (fun b t => match b with
      | none => some t
      | some x => if t.mappedAt < x.mappedAt then some t else some x) none

/-- The ring that is mapped next: one of a class below its minimum first (R313). -/
def State.nextMapped (s : State) : Option Nat :=
  match classes.findSome? fun k => if s.below k then s.pendingOf k else none with
  | some q => if s.freeSlot || s.borrowed.isSome then some q else none
  | none => if s.freeSlot then classes.findSome? s.pendingOf else none

/-- Free the slot of a ring; it is pending again when records are left (R313). -/
def State.unmap (s : State) (q : Nat) : State :=
  { (s.modRing q fun r => { r with pendAt := s.order, urgent := false }) with
    slots := s.slots.filter fun t => t.q != q, order := s.order + 1 }

/-- SLOT_MAPPING: a pending ring takes a free slot, or a borrowed one by forced unmapping (R313). -/
def execSlotMapping (q : Nat) (s : State) : Host.Outcome State Fault Refusal :=
  .next (if s.nextMapped = some q then
    let s1 := if s.freeSlot then s else match s.borrowed with
      | some t => s.unmap t.q
      | none => s
    { s1 with slots := s1.slots ++ [⟨q, s1.order⟩], order := s1.order + 1 }
  else s)

/-- SLOT_IDLE_EXPIRY: a ring without unread records frees its slot (R313). -/
def execSlotIdleExpiry (q : Nat) (s : State) : Host.Outcome State Fault Refusal :=
  .next (match s.ring q with
    | some r => if s.mapped q && r.head == r.tail then { s with slots := s.slots.filter fun t => t.q != q } else s
    | none => s)

/-- SLOT_WAIT_EXPIRY: a slot that has waited long with an unread record is served next (R314). -/
def execSlotWaitExpiry (q : Nat) (s : State) : Host.Outcome State Fault Refusal :=
  .next (match s.ring q with
    | some r => if s.mapped q && r.unread then s.modRing q fun r => { r with urgent := true } else s
    | none => s)

/-- PRIORITY_CLASS_WRITE: the stage manager sets the minimum of a class; the four may not sum above 256 (R354). -/
def execPriorityClassWrite (cls min : Nat) (s : State) : Host.Outcome State Fault Refusal :=
  .next (s.command (decide (cls < 4) && decide (min ≤ 256) && decide ((vset s.classMin cls min).toList.foldl (· + ·) 0 ≤ 256)) fun s =>
    { s with classMin := vset s.classMin cls min })

/-! ### The launch fetcher (R314) -/

/-- The module may read launch records: the host is not lost (R394). -/
def State.fetches (s : State) : Bool := !s.host.lost

/-- The record that a source offers. -/
def State.recordAt (s : State) (src : LaunchSrc) : Option LaunchRec :=
  match src with
  | .ring q => match s.ring q with
    | some r => if r.unread && s.mapped q && s.host.serves then
        some ⟨Sparse.read 0 s.host.mem (r.base + 128 * (r.head.toNat % 2 ^ r.size)) 128⟩ else none
    | none => none
  | .device c => match s.ctxAt c with
    | some x => if x.devHalted then none else x.devQ.head?.map fun bs => ⟨bs⟩
    | none => none

/-- An earlier launch of the source has not written DONE. -/
def State.unfinished (s : State) (src : LaunchSrc) : Bool := s.launches.any fun l => l.src == src

/-- A source may be served: it has a record that neither a CANCEL nor an unmet FENCE holds back (R316). -/
def State.servable (s : State) (src : LaunchSrc) : Bool :=
  !(s.holding.any fun h => h.1 == src) && (match s.recordAt src with
    | some r => !(r.kind == 2 && s.unfinished src)
    | none => false)

/-- Class and last service of a source; a device queue counts as class 3 (R329). -/
def State.rankOf (s : State) (src : LaunchSrc) : Nat × Nat :=
  match src with
  | .ring q => match s.ring q with
    | some r => (if r.urgent then 4 else r.cls, r.served)
    | none => (0, 0)
  | .device c => match s.ctxAt c with
    | some x => (3, x.devServed)
    | none => (0, 0)

/-- Every source of records. -/
def State.sources (s : State) : List LaunchSrc := s.rings.map (fun r => .ring r.1) ++ s.ctxs.map fun c => .device c.1

/-- The source that is served next (R314). -/
def State.nextSource (s : State) : Option LaunchSrc :=
  if s.fetches then
    (s.sources.filter s.servable).foldl
      (fun b x => match b with
        | none => some x
        | some y =>
          let u := s.rankOf y
          let v := s.rankOf x
          if u.1 < v.1 ∨ (u.1 = v.1 ∧ v.2 < u.2) then some x else some y) none
  else none

/-- The context of a source. -/
def State.srcCtx (s : State) (src : LaunchSrc) : Nat :=
  match src with
  | .ring q => match s.ring q with
    | some r => r.ctx
    | none => 0
  | .device c => c

/-- The sequence number of the record that a source offers. -/
def State.srcSeq (s : State) (src : LaunchSrc) : Word :=
  match src with
  | .ring q => match s.ring q with
    | some r => r.head
    | none => 0
  | .device c => match s.ctxAt c with
    | some x => BitVec.ofNat 32 x.devHead
    | none => 0

/-- The record of a source has been taken (R310). -/
def State.takeRecord (s : State) (src : LaunchSrc) : State :=
  match src with
  | .ring q => { (s.modRing q fun r => { r with head := r.head + 1, served := s.order, urgent := false }) with order := s.order + 1 }
  | .device c =>
    { (s.modCtx c fun x => { x with devQ := x.devQ.drop 1, devHead := x.devHead + 1, devServed := s.order }) with order := s.order + 1 }

/-- A source halts at its record (R312). -/
def State.haltSource (s : State) (src : LaunchSrc) : State :=
  match src with
  | .ring q => (s.modRing q fun r => { r with halted := true }).tell (.ringHalted q)
  | .device c => (s.modCtx c fun x => { x with devHalted := true }).tell (.ringHalted (4096 + c))

/-- The number of a source of records, for what it waits for. -/
def srcNum (src : LaunchSrc) : Nat :=
  match src with
  | .ring q => q
  | .device c => 4096 + c

/-- The checks of a DONE address for a waiter of the hub (R312, R340). -/
def State.doneCheck (s : State) (ctx who : Nat) (r : LaunchRec) : Checked :=
  s.checkRange hubCore ctx { write := true, noAlias := true, who := who } r.done 32 32

/-- Take the next record, if its source and kind are these: its DONE address is checked first (R312, R314). -/
def State.serve (s : State) (src : LaunchSrc) (kind : Nat → Bool) (f : LaunchRec → Nat → Word → State → State) : State :=
  if s.nextSource = some src then
    match s.recordAt src with
    | some r =>
      if kind r.kind then
        let ctx := s.srcCtx src
        match s.doneCheck ctx (hubWho 2 (srcNum src)) r with
        | .trap _ _ => (s.forgetAsks ctx (hubWaiter 2 (srcNum src))).haltSource src
        | .cow p _ => s.askCow ctx p (hubWaiter 2 (srcNum src))
        | .ok _ _ => f r ctx (s.srcSeq src) (s.takeRecord src)
      else s
    | none => s
  else s

/-! ### The checks of a LAUNCH record (R315) -/

/-- All of n bytes are zero. -/
def zeroAt (bs : List Byte) (off n : Nat) : Bool := field bs off n == 0

/-- The level words of a record are in range (R311). -/
def LaunchRec.levelsOk (r : LaunchRec) : Bool :=
  (List.range 8).all fun i =>
    if i < r.levels then decide (r.domain i < 5) && decide (r.scope i < 5) && decide (field r.bytes (34 + 4 * i) 2 < 64)
    else zeroAt r.bytes (32 + 4 * i) 4

/-- The record keeps the limits of R25 and R311. -/
def LaunchRec.formed (r : LaunchRec) : Bool :=
  r.kind == 0 && decide (r.rsc < 5) && decide (r.prio < 128) && (if r.rpl then decide (r.arg < 16) else r.arg == 0) &&
    zeroAt r.bytes 10 2 && decide (1 ≤ r.span) && (r.rpl || r.gen == 0) && zeroAt r.bytes 28 4 && r.levelsOk &&
    zeroAt r.bytes 72 8 && decide (r.acts * r.span < 2 ^ 32)

/-- A record of kind 1 to 3 has no other byte than those it is read for (R311). -/
def LaunchRec.bare (r : LaunchRec) : Bool :=
  zeroAt r.bytes 1 2 && (if r.kind = 1 then decide (r.arg < 3) else r.arg == 0) && (r.kind == 3 || zeroAt r.bytes 4 4) &&
    zeroAt r.bytes 8 56 && zeroAt r.bytes 72 56

/-- The hierarchy is well formed for a context (R27, R315 order 5). -/
def LaunchRec.hierOk (r : LaunchRec) (c : Ctx) : Bool :=
  ((List.range r.levels).all fun i =>
    decide (r.domain i ≤ r.scope i) && (i == 0 || decide (r.domain i ≤ r.domain (i - 1))) && (i == 0 || r.domain i != 4)) &&
    ((r.domain 0 == 4) == r.rpl) &&
    (!r.rpl || (match assoc c.reps r.arg with
      | some x => x.cfg.k == r.count 0
      | none => false))

/-- Cores reserved for other co-resident launches that have not ended (R31). -/
def State.reserved (s : State) : List Nat :=
  (s.launches.filter fun l => l.record.cor && decide (0 < l.open_)).flatMap fun l => (l.binds.filter fun b => b.1 == 8).map (·.2.2)

/-- The core that act j of a co-resident launch will have, of those not taken: the one that its number gives it at level 2, else the
first of its innermost place; none where there is none (R31, R321). -/
def State.coreFor (s : State) (taken : List Nat) (l : Launch) (j : Nat) : Option Nat :=
  (if l.det = 2 then [s.keyedCore l j] else (s.innermost l j).cores).find? fun n => s.available n && !taken.contains n

/-- Bind the instances of the acts of a co-resident launch, and reserve a core for each act that finds one (R31, R318). -/
def State.reserve (s : State) (taken : List Nat) : List Nat → Launch → Launch
  | [], l => l
  | j :: js, l =>
    let l1 := { l with binds := l.binds ++ s.bindsFor l j }
    s.reserve taken js (match s.coreFor (taken ++ (l.binds.filter fun b => b.1 == 8).map fun b => b.2.2) l1 j with
      | some n => { l1 with binds := l1.binds ++ [(8, j, n)] }
      | none => l1)

/-- In every instance of domain d₀, the acts of a co-resident launch that are bound there are no more than its logical cores that no
other such launch holds (R31). -/
def State.coresFit (s : State) (taken : List Nat) (l : Launch) (acts : Nat) : Bool :=
  let room := fun (p : Place) => (p.cores.filter fun n => s.available n && !taken.contains n).length
  let d := l.record.domain 0
  if 3 ≤ d then decide (acts ≤ room .chip)
  else
    let homes := (l.binds.filter fun b => b.1 == 0).map fun b => b.2.2
    homes.all fun k => decide ((homes.filter (· == k)).length * l.record.inner 0 ≤ room ⟨d, k⟩)

/-- The acts of a launch that this module runs: under a group-bound level 0, those of its replica index (R318). -/
def Ctx.ownActs (c : Ctx) (r : LaunchRec) : Nat × Nat :=
  if r.rpl then
    match assoc c.reps r.arg with
    | some x => (x.cfg.self * r.inner 0, (x.cfg.self + 1) * r.inner 0)
    | none => (0, 0)
  else (0, r.acts)

/-- A launch as read from its source, with nothing done yet. -/
def newLaunch (id : Nat) (src : LaunchSrc) (seq : Word) (ctx : Nat) (r : LaunchRec) (det : BitVec 2) : Launch :=
  { id := id, src := src, seq := seq, ctx := ctx, record := r, det := det, status := 0, toYield := [], open_ := 0, ended := 0,
    faulted := 0, bad := 0, dropped := 0, barrier := false, cancelled := false, started := false, binds := [],
    doneWritten := false, away := none }

/-- Codes of R33 and R315. -/
def stFeature : Nat := 0x01
def stPromise : Nat := 0x02
def stCores : Nat := 0x03
def stHier : Nat := 0x04
def stRepl : Nat := 0x05
def stGen : Nat := 0x06
def stRecord : Nat := 0x07
def stNoScene : Nat := 0x08
def stCancelled : Nat := 0x09

/-- The first failing check of orders 1 to 5 of R315; 0 when none fails. -/
def Ctx.launchStatus (c : Ctx) (r : LaunchRec) : Nat :=
  if !r.formed then stRecord
  else match c.sceneOf r.scene with
    | none => stNoScene
    | some k =>
      if k.retiring || decide (k.cues.length ≤ r.cueix) then stNoScene
      else if k.feat &&& ~~~Config.caps ≠ 0 then stFeature
      else if !k.promise && c.level ≠ 0 then stPromise
      else if !r.hierOk c then stHier
      else 0

/-- The peers that a replicated launch meets at its start barrier (R32). -/
def Ctx.barrierPeers (c : Ctx) (r : LaunchRec) : List Nat :=
  if r.rpl then
    match assoc c.reps r.arg with
    | some x => x.cfg.mem.filter (· != c.self)
    | none => []
  else []

/-- The module tells the members of the set that it has reached the start barrier of a launch: traffic to those peers (R32, R396). -/
def State.meetBarrier (s : State) (ctx : Nat) (r : LaunchRec) : State :=
  s.modCtx ctx fun c => { c with traffic := (c.barrierPeers r).foldl (fun t i => insertSorted i t) c.traffic }

/-- A launch enters the module's list. -/
def State.addLaunch (s : State) (l : Launch) : State := { s with launches := s.launches ++ [l], nextLaunch := s.nextLaunch + 1 }

/-- Admit a launch or refuse it (R31, R33, R315): a refused one creates no acts, and its completion entry is due. -/
def State.admitLaunch (s : State) (src : LaunchSrc) (r : LaunchRec) (ctx : Nat) (seq : Word) : State :=
  match s.ctxAt ctx with
  | none => s
  | some c =>
    let l := newLaunch s.nextLaunch src seq ctx r c.level
    match c.launchStatus r with
    | 0 =>
      let own := c.ownActs r
      let l1 := { l with toYield := if own.1 < own.2 then [own] else [], open_ := own.2 - own.1, barrier := r.rpl }
      let l2 := if r.cor then
          (if Config.cores < own.2 - own.1 then none
          else
            let x := s.reserve s.reserved ((List.range (own.2 - own.1)).map (own.1 + ·)) l1
            if s.coresFit s.reserved x (own.2 - own.1) then some x else none)
        else some l1
      match l2 with
      | some x => ((s.addLaunch x).readyGen l.id r.prio).meetBarrier ctx r
      | none => s.addLaunch { l with status := stCores }
    | code => s.addLaunch { l with status := code }

/-- LAUNCH: the next record is a LAUNCH, or of no known kind: it is admitted or refused (R315). -/
def execLaunch (src : LaunchSrc) (s : State) : Host.Outcome State Fault Refusal :=
  .next (s.serve src (fun k => k == 0 || decide (4 ≤ k)) fun r ctx seq s => s.admitLaunch src r ctx seq)

/-- A record that completes at once with a status: its completion entry is due. -/
def State.complete (s : State) (src : LaunchSrc) (r : LaunchRec) (ctx : Nat) (seq : Word) (status : Nat) : State :=
  s.addLaunch { newLaunch s.nextLaunch src seq ctx r 0 with status := status }

/-- LEVEL: sets the determinism level for the launches of the context read after it (R41, R316). -/
def execLevel (src : LaunchSrc) (s : State) : Host.Outcome State Fault Refusal :=
  .next (s.serve src (· == 1) fun r ctx seq s =>
    if r.bare then
      (s.modCtx ctx fun c => { c with level := BitVec.ofNat 2 r.arg }).complete src r ctx seq 0
    else s.complete src r ctx seq stRecord)

/-- FENCE: completes once every earlier launch of its ring has written DONE (R316). -/
def execFence (src : LaunchSrc) (s : State) : Host.Outcome State Fault Refusal :=
  .next (s.serve src (· == 2) fun r ctx seq s => s.complete src r ctx seq (if r.bare then 0 else stRecord))

/-! ### CANCEL (R198, R316) -/

/-- Acts of ascending ranges. -/
def countNums (rs : List (Nat × Nat)) : Nat := (rs.map fun r => r.2 - r.1).foldl (· + ·) 0

/-- Acts of a launch that are ready or waiting, anywhere. -/
def State.idleActs (s : State) (id : Nat) : Nat :=
  (s.pooled id).length + (s.waiters.filter fun w => w.1.launch == id).length +
    (s.allCores.map fun c => (c.wings.filter fun a => a.launch == id).length).foldl (· + ·) 0

/-- The ready and waiting acts of a launch are dropped (R316). -/
def State.dropActs (s : State) (l : Launch) : State :=
  let n := s.idleActs l.id + countNums l.toYield
  let s1 : State := { s with
    pools := vmap (fun (p : List (Nat × PoolItem)) => p.filter fun y => match y.2 with
      | .gen id => id != l.id
      | .act a => a.launch != l.id) s.pools,
    waiters := s.waiters.filter fun w => w.1.launch != l.id }
  (s1.modCores fun c => { c with wings := c.wings.filter fun a => a.launch != l.id }).modLaunch l.id fun x =>
    { x with cancelled := true, toYield := [], dropped := x.dropped + n, open_ := x.open_ - n }

/-- The focused core's act is stopped by a CANCEL; at a halt it ends with the cause BRK (R198, R316). -/
def State.stopAct (s : State) : State :=
  match s.core.halt, s.core.live.brkAt with
  | true, some (e, _, code) =>
    ({ s with core := { s.core with halt := false, cancelled := true } }).beginEnd (.fault 6 e (code.setWidth 32) 0)
  | _, _ => ({ s with core := { s.core with cancelled := true } }).beginEnd .cancel

/-- Cancel a launch: nothing more of it is placed, and its resident acts stop (R316). -/
def State.cancelLaunch (s : State) (l : Launch) : State :=
  (s.residents l.id).foldl (fun s n => s.onCore n State.stopAct) (s.dropActs l)

/-- CANCEL: cancels an earlier launch of the ring, and holds the ring until its stopped acts have left (R316). -/
def execCancel (src : LaunchSrc) (s : State) : Host.Outcome State Fault Refusal :=
  .next (s.serve src (· == 3) fun r ctx seq s =>
    match s.launches.find? fun l => l.src == src && l.seq == r.scene && l.status == 0 && decide (0 < l.open_) with
    | some l =>
      if r.bare then
        let s1 := s.cancelLaunch l
        { s1 with holding := s1.holding ++ [(src, l.id, newLaunch s1.nextLaunch src seq ctx r 0)],
                  nextLaunch := s1.nextLaunch + 1 }
      else s.complete src r ctx seq stRecord
    | none => s.complete src r ctx seq stRecord)

/-- CANCEL_COMPLETE: every stopped act has left its core (R316). -/
def execCancelComplete (src : LaunchSrc) (s : State) : Host.Outcome State Fault Refusal :=
  .next (match s.holding.find? fun h => h.1 == src with
    | some h =>
      if (s.residents h.2.1).isEmpty then
        { s with holding := s.holding.filter fun x => x.1 != src, launches := s.launches ++ [h.2.2] }
      else s
    | none => s)

/-! ### Start barriers and completion (R32, R38, R312, R387) -/

/-- Refuse a launch that has not started: none of its acts has run (R32). -/
def State.refuse (s : State) (id : Nat) (code : Nat) : State :=
  (s.dropGen id).modLaunch id fun l => { l with status := code, toYield := [], open_ := 0, dropped := 0, barrier := false, binds := [] }

/-- START_BARRIER: the modules of a replicated launch have reached its barrier with these generations, over links that carry flits, or one
was lost (R32, R387, R395). -/
def execStartBarrier (id : Nat) (gens : List Word) (lost : Bool) (s : State) : Host.Outcome State Fault Refusal :=
  .next (match s.launchAt id with
    | some l =>
      if !l.barrier then s
      else if lost then s.refuse id stRepl
      else if gens.length + 1 < l.record.count 0 ∨
          (match s.ctxAt l.ctx with
            | some c => s.hears l.ctx (c.barrierPeers l.record)
            | none => true) = false then s
      else if gens.any (· != l.record.gen) then s.refuse id stGen
      else
        (s.modLaunch id fun l => { l with barrier := false }).modCtx l.ctx fun c =>
          { c with reps := assocMod c.reps l.record.arg fun x => { x with lgen := l.record.gen } }
    | none => s)

/-- A launch may complete: none of its acts is left, every write of theirs has been performed, and its entry is not on its way already
(R38). -/
def Launch.over? (l : Launch) : Bool := l.open_ == 0 && !l.barrier && !l.doneWritten && l.away.isNone

/-- The 32 bytes of a completion entry; a cancelled launch reports CANCELLED in place of 0 (R312, R315). -/
def Launch.entry (l : Launch) : List Byte :=
  [BitVec.ofNat 8 (if l.cancelled && decide (l.status = 0) then stCancelled else l.status), 0, 0, 0] ++ bytesOfNat 4 l.seq.toNat ++ bytesOfNat 4 l.ended ++
    bytesOfNat 4 l.faulted ++ bytesOfNat 4 l.bad ++ bytesOfNat 4 l.dropped ++ [0, 0, 0, 0] ++ bytesOfNat 4 1

/-- Write a completion entry through its translation, without a hold and with no agent's identity (R312): none while it must wait. It is
sent to the peer that owns it, if one does, who answers when it has performed it, or refuses it. -/
def State.writeEntry (s : State) (ctx : Nat) (p : Piece) (bs : List Byte) : Option State :=
  match s.route ctx p.pa with
  | .here =>
    let sec := paOff p.pa / 64
    if (s.closedAt sec).isSome then none
    else (sectorMasks (paOff p.pa) bs).head?.map fun m =>
      s.performWrite hostAgent m.1 p.key m.2 (if p.sm = 0 then none else some 0x7F7F)
  | .host =>
    if !s.host.linked then none
    else if (s.hostPoisonIn (paHost p.pa) bs.length).isSome then some s
    else some { s with host := { s.host with mem := Sparse.write 0 s.host.mem (paHost p.pa) bs } }
  | .peer n =>
    some (({ s with outbox := s.outbox ++ [Msg.request ctx n 255 [] p.key (.entry (rangeOff p.pa) bs)] }).modCtx ctx fun c =>
      { c with traffic := insertSorted n c.traffic })
  | .lost => some s

/-- The launch has reported: it leaves the list, and nothing waits for its entry any more (R340). -/
def State.retireLaunch (s : State) (id : Nat) : State :=
  let s1 := match s.launchAt id with
    | some l => s.forgetAsks l.ctx (hubWaiter 1 id)
    | none => s
  { s1 with launches := s1.launches.filter fun l => l.id != id }

/-- The completion entry of a launch has been written, or sent to the peer that owns it (R312). -/
def State.entrySent (s : State) (l : Launch) (p : Piece) : State :=
  match s.route l.ctx p.pa with
  | .peer n => s.modLaunch l.id fun x => { x with away := some n }
  | _ => s.retireLaunch l.id

/-- The completion entry of a launch cannot be written: the stage manager is notified (R312). -/
def State.entryFailed (s : State) (id : Nat) : State := (s.tell (.doneUnwritten id)).retireLaunch id

/-- The peer that owns the completion entry of a launch has performed or refused it (R312). -/
def State.entryAnswered (s : State) (id : Nat) (ans : RemoteAns) : State :=
  match ans with
  | .done _ => s.retireLaunch id
  | _ => s.entryFailed id

/-- LAUNCH_COMPLETION: writes the completion entry of a launch none of whose acts is left, DONE last (R38, R312). -/
def execLaunchCompletion (id : Nat) (s : State) : Host.Outcome State Fault Refusal :=
  .next (match s.launchAt id with
    | some l =>
      if l.over? then
        match s.doneCheck l.ctx (hubWho 1 id) l.record with
        | .ok (p :: _) _ => match s.writeEntry l.ctx p l.entry with
          | some s1 => s1.entrySent l p
          | none => s
        | .cow p _ => s.askCow l.ctx p (hubWaiter 1 id)
        | _ => s.entryFailed id
      else s
    | none => s)

end Sys2Proof.Machine
end

