-- ==== Sys2Proof/Machine/Curtain.lean ====
section
/-! DEFINITION. The curtain: protected regions, the round state of a coding group, phase one, staging, the survivor exchange,
commit, roll-back, rebuild and reopen (R252 to R257, R349 to R353, R367 to R379, R429, R437, R438). -/

namespace Sys2Proof.Machine

open Sys2Proof

/-! ### Groups -/

/-- A coding group of a context. -/
def State.group (s : State) (ctx grp : Nat) : Option Group := (s.ctxAt ctx).bind fun c => assoc c.groups grp

/-- Change a coding group. -/
def State.modGroup (s : State) (ctx grp : Nat) (f : Group → Group) : State :=
  s.modCtx ctx fun c => { c with groups := assocMod c.groups grp f }

/-- One bit of a member set. -/
def memberBit (i : Nat) : BitVec 32 := BitVec.ofNat 32 (2 ^ i)

/-- Every member of a group of n. -/
def allMembers (n : Nat) : BitVec 32 := BitVec.ofNat 32 (2 ^ n - 1)

/-- L: the members in a set (R372). -/
def countMembers (b : BitVec 32) : Nat := ((List.range 32).filter fun i => b.getLsbD i).length

/-- The members that are neither this one nor lost. -/
def Group.others (g : Group) : List Nat := (List.range g.cfg.n).filter fun i => i != g.cfg.self && !g.lost.getLsbD i

/-- The round that the group works on: CR + 1, or the round it has applied before an exchange (R369, R429). -/
def Group.round (g : Group) : Word := if g.applied then g.cr else g.cr + 1

/-- A member may be heard: it is another member and not lost (R371). -/
def Group.hears (g : Group) (i : Nat) : Bool := decide (i < g.cfg.n) && i != g.cfg.self && !g.lost.getLsbD i

/-- A message of a member arrives: the member may be heard, its fabric entry is not marked lost, and a link to it carries flits (R371,
R395, R396, R397). -/
def State.hearsFrom (s : State) (ctx : Nat) (g : Group) (i : Nat) : Bool :=
  let peer := g.cfg.mem.getD i 0
  g.hears i && s.linked ctx peer && (match s.ctxAt ctx with
    | some c => !c.lost.contains peer
    | none => false)

/-- Send messages to members of a group: they are traffic to those peers (R396). -/
def State.post (s : State) (ctx : Nat) (g : Group) (tos : List Nat) (ms : List Msg) : State :=
  ({ s with outbox := s.outbox ++ ms }).modCtx ctx fun c =>
    { c with traffic := tos.foldl (fun t i => insertSorted (g.cfg.mem.getD i 0) t) c.traffic }

/-- A group as a configuration leaves it (R369). -/
def newGroup (cfg : GroupCfg) : Group :=
  { cfg := cfg, st := .open_, cr := 0, notices := 0, eod := 0, ackd := false, lost := 0, epoch := 0, dec := false, dpend := 0,
    dpend2 := 0, dbad := false, dbad2 := false, lastab := false, unacked := 0, deltas := [], exch := [], concluded := none,
    concEpoch := 0, applied := false, minority := [], restart := [], rebuilding := none }

/-- The number of a curtain state in the state word (R378). -/
def CState.num (c : CState) : Nat :=
  match c with
  | .open_ => 0
  | .prep => 1
  | .staged => 2
  | .commit => 3
  | .exchange => 4
  | .rollback => 5
  | .halted => 6
  | .beyond => 7

/-! ### Protected sectors (R253, R368) -/

/-- Q: region sectors of one member (R368). -/
def Prot.sectors (p : Prot) : Nat := if p.paired then 32 * p.rgn.length else 64 * p.rgn.length

/-- Region sector k of a half; an UNDO region has one half. -/
def Prot.sectorAt (p : Prot) (half : Bool) (k : Nat) : Nat := areaSector p.rgn (if p.paired && half then p.sectors + k else k)

/-- The place of a physical sector in an area. -/
def placeIn (pages : List Nat) (sec : Nat) : Nat := 64 * pages.idxOf (sec / 64) + sec % 64

/-- The key of a page of an entry. -/
def Prot.key (p : Prot) (page : Nat) : Byte := (assoc p.keys page).getD 0

/-- The 66 symbols of a sector as stacked memory holds it (R367). -/
def State.rawSyms (s : State) (sec : Nat) : List Byte :=
  symsOf (bytesOfNat 64 (s.sectorRaw sec).toNat) (Sparse.get 0x7F7F s.secScale sec)

/-- Write the symbols of a sector of an entry in base (R252). -/
def State.writeSyms (s : State) (p : Prot) (sec : Nat) (ss : List Byte) : State :=
  (s.storeSector sec (p.key (sec / 64)) ((symsData ss).map some) (some (symsScales ss))).inBase sec

/-- The entries of a context that a group codes. -/
def State.entriesOf (s : State) (ctx grp : Nat) : List (Nat × Prot) :=
  match s.ctxAt ctx with
  | some c => c.prot.filter fun p => p.2.cg == grp
  | none => []

/-- Change every entry that a group codes. -/
def State.modEntries (s : State) (ctx grp : Nat) (f : Prot → Prot) : State :=
  s.modCtx ctx fun c => { c with prot := c.prot.map fun p => if p.2.cg = grp then (p.1, f p.2) else p }

/-! ### prot.set and prot.clr (R253 to R255) -/

/-- The page and key of an area's virtual page, which must be writable and in SPACE 0, OPC 0 (R254 reason 3). -/
def areaPage (t : Trans) (va : Nat) : Option (Nat × Byte) :=
  let pa := BitVec.ofNat 52 (t.pa + (va - t.va))
  if t.w && paSpace pa == 0 && paOpc pa == 0 && paFormed pa then some (paOff pa / 4096, t.key) else none

/-- The pages and keys of n pages of 4 KiB from an address on; none when one does not fit (R254 reason 3). -/
def State.pagesFrom (s : State) (va : Nat) : Nat → Option (List (Nat × Byte))
  | 0 => some []
  | n + 1 =>
    if 2 ^ 56 ≤ va then none
    else match s.translate s.core.num s.ctxId va with
      | some t => (areaPage t va).bind fun x => (s.pagesFrom (va + 4096) n).map fun ps => x :: ps
      | none => none

/-- The focused core has translated n pages from an address on, as far as they fit: what it found fills the TLBs (R341). -/
def State.walkPages (s : State) (va : Nat) : Nat → State
  | 0 => s
  | n + 1 =>
    if 2 ^ 56 ≤ va then s
    else match s.translate s.core.num s.ctxId va with
      | some t =>
        let s1 := s.fillTlb s.core.num t
        if (areaPage t va).isSome then s1.walkPages (va + 4096) n else s1
      | none => s.missed s.core.num (vaTrap 0x10 0)

/-- Units of 64 KiB of the parity area: S·m/(n − m), rounded up (R253). -/
def parityUnits (g : Group) (units : Nat) : Nat := (units * g.cfg.m + (g.cfg.n - g.cfg.m - 1)) / (g.cfg.n - g.cfg.m)

/-- The PROT fault of an entry with a reason (R254). -/
def protTrap (d : BitVec 5) (reason : Nat) : Trap := ⟨0x18, BitVec.ofNat 32 d.toNat, BitVec.ofNat 32 reason⟩

/-- Two lists of pages share one. -/
def meets (a b : List Nat) : Bool := a.any fun p => b.contains p

/-- The operands of `prot.set`. -/
structure ProtArgs where
  d : BitVec 5
  rgn : DWord
  und : DWord
  par : DWord
  units : Nat
  undUnits : Nat
  grp : Nat
  paired : Bool
  stall : Bool

/-- Reason 2 of R254. -/
def ProtArgs.misformed (a : ProtArgs) : Bool :=
  a.rgn.toNat % 65536 != 0 || (!a.paired && a.und.toNat % 65536 != 0) || a.par.toNat % 65536 != 0 || a.units == 0 ||
    (a.paired && a.units % 2 != 0) || (!a.paired && a.undUnits == 0)

/-- Pages of 4 KiB of the region, the undo area and the parity area (R253). -/
def ProtArgs.pages (a : ProtArgs) (g : Group) : Nat × Nat × Nat :=
  (16 * a.units, if a.paired then 0 else 16 * a.undUnits, 16 * parityUnits g a.units)

/-- The areas of `prot.set` as they translate: region, undo area, parity area (R254 reason 3). -/
def State.areas (s : State) (a : ProtArgs) (g : Group) : Option (List (Nat × Byte) × List (Nat × Byte) × List (Nat × Byte)) :=
  match s.pagesFrom a.rgn.toNat (a.pages g).1, s.pagesFrom a.und.toNat (a.pages g).2.1, s.pagesFrom a.par.toNat (a.pages g).2.2 with
  | some r, some u, some p => some (r, u, p)
  | _, _, _ => none

/-- The walks of `prot.set` over its areas (R341). -/
def State.walkAreas (s : State) (a : ProtArgs) (g : Group) : State :=
  let n := a.pages g
  ((s.walkPages a.rgn.toNat n.1).walkPages a.und.toNat n.2.1).walkPages a.par.toNat n.2.2

/-- The pages of a list with keys. -/
def pagesOf (ps : List (Nat × Byte)) : List Nat := ps.map (·.1)

/-- Reason 4 of R254. -/
def State.overlapping (s : State) (r u p : List Nat) : Bool :=
  meets r u || meets r p || meets u p || meets (r ++ u ++ p) s.guarded

/-- Every page of a list is zero-filled in base (R252, R254). -/
def State.zeroPages (s : State) (ps : List Nat) : State := ps.foldl (fun s p => s.blank (4096 * p) 4096) s

/-- The entry that `prot.set` records (R254, R352). -/
def ProtArgs.entry (a : ProtArgs) (r u p : List (Nat × Byte)) : Prot :=
  { paired := a.paired, stall := a.stall, cg := a.grp, rgnVa := a.rgn, undVa := a.und, parVa := a.par, rgn := pagesOf r,
    und := pagesOf u, par := pagesOf p, cur := false, ucnt := 0, unab := false, undop := 0, undoLogged := false, undo := [], bare := [],
    deferred := [], keys := r ++ u ++ p }

/-- Lines of pages in host bias whose snoop the focused core still needs (R357). -/
def State.pageSnoops (s : State) (ps : List Nat) : List Nat := ps.flatMap fun p => s.needSnoop (snoopCore s.core.num) (4096 * p) 4096

/-- The focused core zero-fills pages in base, with the snoops it has had for their lines (R252, R254, R357). -/
def State.fillPages (s : State) (ps : List Nat) : State := ps.foldl (fun s p => s.snoopsUsed (4096 * p) 4096) (s.zeroPages ps)

/-- `prot.set` checks its operands in the order of R254, waits for the lines that the host may hold, and records the entry. -/
def State.protSet (s : State) (a : ProtArgs) : Res :=
  match s.ctxAt s.ctxId with
  | none => .fault s (protTrap a.d 5)
  | some c =>
    if (assoc c.prot a.d.toNat).isSome then .fault s (protTrap a.d 1)
    else if a.misformed then .fault s (protTrap a.d 2)
    else match assoc c.groups a.grp with
      | none => .fault s (protTrap a.d 5)
      | some g =>
        match s.areas a g with
        | none => .fault (s.walkAreas a g) (protTrap a.d 3)
        | some (r, u, p) =>
          let need := s.pageSnoops (pagesOf r ++ pagesOf p)
          if s.overlapping (pagesOf r) (pagesOf u) (pagesOf p) then .fault (s.walkAreas a g) (protTrap a.d 4)
          else if g.st ≠ .open_ then .fault (s.walkAreas a g) (protTrap a.d 6)
          else if !need.isEmpty then .hold (s.sendSnoops (snoopCore s.core.num) need) .external
          else .done (((s.walkAreas a g).fillPages (pagesOf r ++ pagesOf p)).modCtx s.ctxId fun c =>
            { c with prot := assocSet c.prot a.d.toNat (a.entry r u p) })

/-- PROT_SET: creates a protected region (R254). -/
def execProtSet (cu : Cue) (d a b : BitVec 5) (grp pb : BitVec 4) (sr ur : BitVec 5) (paired stall : Bool) (s : State) :
    Host.Outcome State Fault Refusal :=
  ({ i := .protSet cu d a b grp pb sr ur paired stall, cu := cu, op := 0x6C, uses := [sr, ur],
     body := fun s => s.protSet
       { d := d, rgn := s.ra a, und := if paired then 0 else s.ra b, par := vget s.core.live.a pb.toNat 0,
         units := (s.rs sr).toNat, undUnits := (s.rs ur).toNat, grp := grp.toNat, paired := paired, stall := stall } } : Issue).run s

/-- The pages of a list become ordinary memory with unspecified contents (R255). -/
def State.unspecify (s : State) (ps : List Nat) : State :=
  ps.foldl (fun s p => (linesOf p).foldl (fun s k => s.spoil k) (s.blank (4096 * p) 4096)) s

/-- What is held for the sectors of an entry takes its place in memory: every reader has seen it (R255, R257). -/
def State.keepDeferred (s : State) (p : Prot) : State := p.deferred.foldl (fun s r => s.putRecord r) s

/-- `prot.clr` frees an entry, and the region's bytes keep their values (R255). -/
def State.protClr (s : State) (d : BitVec 5) : Res :=
  match (s.ctxAt s.ctxId).bind fun c => assoc c.prot d.toNat with
  | none => .fault s (protTrap d 1)
  | some p =>
    if s.groupOpen s.ctxId p.cg then
      .done (((s.keepDeferred p).unspecify (p.und ++ p.par)).modCtx s.ctxId fun c => { c with prot := assocDel c.prot d.toNat })
    else .fault s (protTrap d 6)

/-- PROT_CLR: frees a protected-region entry (R255). -/
def execProtClr (cu : Cue) (d : BitVec 5) (s : State) : Host.Outcome State Fault Refusal :=
  ({ i := .protClr cu d, cu := cu, op := 0x6D, body := fun s => s.protClr d } : Issue).run s

/-! ### Aborts and roll-back begin (R372, R375, R376, R382) -/

/-- The group is beyond code (R376). -/
def State.toBeyond (s : State) (ctx grp : Nat) (g : Group) (lost : BitVec 32) : State :=
  (s.modGroup ctx grp fun g => { g with st := .beyond, lost := lost }).logAsync ctx 0x46 0 false false (g.cr + 1)
    (BitVec.ofNat 32 (countMembers lost))

/-- An entry of the group is unabortable (R257). -/
def State.unabortable (s : State) (ctx grp : Nat) : Bool := (s.entriesOf ctx grp).any fun p => p.2.unab

/-- A member goes into roll-back, or is beyond code when it cannot roll back (R372). It has then concluded 0, which it answers to the
members that are in an exchange (R374 step 4; log 23). -/
def State.toRollback (s : State) (ctx grp : Nat) : State :=
  match s.group ctx grp with
  | some g =>
    if s.unabortable ctx grp then s.toBeyond ctx grp g g.lost
    else s.modGroup ctx grp fun g => { g with st := .rollback, concluded := some false, concEpoch := g.epoch }
  | none => s

/-- A digest has gone wrong in the open round: in OPEN and PREP it is aborted (R372). -/
def State.abortIfBad (s : State) (ctx grp : Nat) : State :=
  match s.group ctx grp with
  | some g =>
    if g.dbad && (g.st == .open_ || g.st == .prep) then
      (s.post ctx g g.others [.abort ctx grp g.round]).toRollback ctx grp
    else s
  | none => s

/-- ABORT: the round is aborted by another member, whose message has come over a link that carries flits (R372, R395). -/
def execAbort (ctx grp : Nat) (m : AbortMsg) (s : State) : Host.Outcome State Fault Refusal :=
  .next (match s.group ctx grp with
    | some g =>
      if s.hearsFrom ctx g m.member = true ∧ g.round = m.round ∧ (g.st = .open_ ∨ g.st = .prep ∨ g.st = .staged) then
        s.toRollback ctx grp
      else s
    | none => s)

/-! ### Phase one (R370, R371) -/

/-- The dirty sectors of an entry: place in the region, with the difference of the new and the old symbols (R371 steps 1 and
2). -/
def State.dirtyOf (s : State) (p : Prot) : List (Nat × List Byte) :=
  if p.paired then
    (List.range p.sectors).map fun k => (k, symAdd (s.rawSyms (p.sectorAt (!p.cur) k)) (s.rawSyms (p.sectorAt p.cur k)))
  else
    p.undo.map fun r => (placeIn p.rgn r.sector, symAdd (s.rawSyms r.sector) (symsOf (bytesOfNat 64 r.data.toNat) r.scales))

/-- Some symbol is not zero. -/
def symsSome (ss : List Byte) : Bool := ss.any (· != 0)

/-- The deltas of an entry: one for each dirty sector and share, sent to the share's holder; all-zero ones are left out (R371
step 2). -/
def State.deltasOf (s : State) (ctx grp : Nat) (g : Group) (e : Nat) (p : Prot) : List Msg :=
  let n := g.cfg.n
  let m := g.cfg.m
  (s.dirtyOf p).flatMap fun x =>
    if symsSome x.2 then
      let st := stripeOf n (n - m) x.1 g.cfg.self
      (List.range m).map fun j =>
        let h := shareOf n m st.1 j
        .delta ctx grp h.1 e h.2 (symScale (coef j st.2) x.2)
    else []

/-- The steps 5 and 6 of R371: STAGED is told once everything is staged, and all notices decide commit. -/
def State.advanceRound (s : State) (ctx grp : Nat) : State :=
  let s1 := match s.group ctx grp with
    | some g =>
      if g.st = CState.prep ∧ g.ackd = true ∧ g.eod = allMembers g.cfg.n then
        (s.post ctx g g.others [.staged ctx grp g.round]).modGroup ctx grp fun g =>
          { g with st := .staged, notices := g.notices ||| memberBit g.cfg.self }
      else s
    | none => s
  match s1.group ctx grp with
  | some g =>
    if (g.st = CState.prep ∨ g.st = CState.staged) ∧ g.notices = allMembers g.cfg.n then
      s1.modGroup ctx grp fun g => { g with st := .commit, dec := true }
    else s1
  | none => s1

/-- Phase one of the open round starts (R371 steps 1 to 3). -/
def State.phaseOne (s : State) (ctx grp : Nat) (g : Group) : State :=
  let ds := (s.entriesOf ctx grp).flatMap fun p => s.deltasOf ctx grp g p.1 p.2
  let ends := g.others.map fun i => Msg.endOfDeltas ctx grp i
  ((s.post ctx g g.others (ds ++ ends)).modGroup ctx grp fun g =>
    { g with st := .prep, unacked := ds.length, ackd := ds.isEmpty, eod := g.eod ||| memberBit g.cfg.self }).advanceRound ctx grp

/-- What `curt.prep` does at the hub, and its status (R370). -/
def State.curtPrep (s : State) (ctx grp : Nat) : State × Word :=
  match s.group ctx grp with
  | none => (s, 4)
  | some g =>
    if g.st = .halted ∨ g.st = .beyond then (s, 3)
    else if g.st ≠ .open_ then (s, 2)
    else if 0 < g.dpend then (s, 1)
    else if g.dbad then (s, 17)
    else (s.phaseOne ctx grp g, 0)

/-- CURT_PREP: releases at `.chip`, then starts phase one at the hub (R370). -/
def execCurtPrep (cu : Cue) (d : BitVec 5) (g : BitVec 4) (s : State) : Host.Outcome State Fault Refusal :=
  ({ i := .curtPrep cu d g, cu := cu, op := 0x5D, uses := [d],
     body := fun s => .pend (s.modLive fun l => (l.addRelease s.cur 3).hubOp s.cur (.curtPrep g.toNat d) d) } : Issue).run s

/-- DELTA: a holder stages a delta and acknowledges it (R371 step 4); one of a later round, or from a member that has ended its
deltas, comes later. -/
def execDelta (ctx grp member entry sector : Nat) (syms : List Byte) (s : State) : Host.Outcome State Fault Refusal :=
  .next (match s.group ctx grp with
    | some g =>
      if s.hearsFrom ctx g member && !g.eod.getLsbD member && (g.st == .open_ || g.st == .prep || g.st == .exchange) then
        (s.modGroup ctx grp fun g => { g with deltas := g.deltas ++ [⟨entry, sector, syms⟩] }).post ctx g [member]
          [.deltaAck ctx grp member]
      else s
    | none => s)

/-- DELTA_ACK: a delta is acknowledged (R371). -/
def execDeltaAck (ctx grp member : Nat) (s : State) : Host.Outcome State Fault Refusal :=
  .next (match s.group ctx grp with
    | some g =>
      if s.hearsFrom ctx g member && g.st == .prep && decide (0 < g.unacked) then
        (s.modGroup ctx grp fun g => { g with unacked := g.unacked - 1, ackd := g.unacked == 1 }).advanceRound ctx grp
      else s
    | none => s)

/-- END_OF_DELTAS: a member has sent its last delta of the round (R371 step 3). -/
def execEndOfDeltas (ctx grp member : Nat) (s : State) : Host.Outcome State Fault Refusal :=
  .next (match s.group ctx grp with
    | some g =>
      if s.hearsFrom ctx g member && !g.eod.getLsbD member && (g.st == .open_ || g.st == .prep) then
        (s.modGroup ctx grp fun g => { g with eod := g.eod ||| memberBit member }).advanceRound ctx grp
      else s
    | none => s)

/-- STAGED: a member has staged everything; all n notices decide commit (R371, R372). -/
def execStaged (ctx grp member : Nat) (round : Word) (s : State) : Host.Outcome State Fault Refusal :=
  .next (match s.group ctx grp with
    | some g =>
      if s.hearsFrom ctx g member && g.round == round && (g.st == .prep || g.st == .staged) then
        (s.modGroup ctx grp fun g => { g with notices := g.notices ||| memberBit member }).advanceRound ctx grp
      else s
    | none => s)

/-! ### Losses and the survivor exchange (R372, R374, R376, R429) -/

/-- The exchange concludes once every member that is not lost has been heard in the current epoch (R374 step 2). -/
def State.conclude (s : State) (ctx grp : Nat) : State :=
  match s.group ctx grp with
  | some g =>
    if g.st = .exchange ∧ (g.others.all fun i => g.exch.any fun x => x.1 == i) = true then
      let s1 := s.modGroup ctx grp fun g => { g with concluded := some g.dec, concEpoch := g.epoch }
      if g.dec then s1.modGroup ctx grp fun g => { g with st := .commit } else s1.toRollback ctx grp
    else s
  | none => s

/-- Send EXCH messages to members (R374). -/
def State.sendExch (s : State) (ctx grp : Nat) (g : Group) (tos : List Nat) (epoch : BitVec 16) (dec : Bool) : State :=
  s.post ctx g tos (tos.map fun i => .exch ctx grp i g.round epoch dec)

/-- An epoch of the exchange begins (R374 step 1). -/
def State.startExchange (s : State) (ctx grp : Nat) : State :=
  match s.group ctx grp with
  | some g =>
    ((s.sendExch ctx grp g g.others (g.epoch + 1) g.dec).modGroup ctx grp fun g =>
      { g with st := .exchange, epoch := g.epoch + 1, exch := [], concluded := none }).conclude ctx grp
  | none => s

/-- A member of a group is lost (R372). A rebuild under way begins anew, as the shares that survive are others (R377). -/
def State.loseMember (s : State) (ctx grp i : Nat) : State :=
  match s.group ctx grp with
  | some g =>
    if g.lost.getLsbD i || i == g.cfg.self || decide (g.cfg.n ≤ i) then s
    else
      let l := g.lost ||| memberBit i
      if g.st = .beyond then s.modGroup ctx grp fun g => { g with lost := l }
      else if g.cfg.m < countMembers l then s.toBeyond ctx grp g l
      else
        let s1 := s.modGroup ctx grp fun g => { g with lost := l }
        match g.st with
        | .commit => s1.modGroup ctx grp fun g => { g with concluded := none }
        | .rollback => s1
        | .halted => s1.modGroup ctx grp fun g => { g with rebuilding := none }
        | _ => s1.startExchange ctx grp
  | none => s

/-- A member that has concluded answers an EXCH of an epoch later than its own conclusion's with that conclusion (R374 step 4). -/
def State.answerExch (s : State) (ctx grp member : Nat) (g : Group) (epoch : BitVec 16) (c : Bool) : State :=
  if g.concEpoch < epoch then
    (s.sendExch ctx grp g [member] epoch c).modGroup ctx grp fun g => { g with epoch := if g.epoch < epoch then epoch else g.epoch }
  else s

/-- EXCH: an exchange message of the current epoch is held, and one of this or an earlier epoch spreads DEC; a member that has
concluded answers every one of a later epoch; a message that comes too early comes later, and so does one that comes in COMMIT, after
whose apply the member either answers it or is in that epoch itself (R374; log 23). -/
def execExch (ctx grp member : Nat) (round : Word) (epoch : BitVec 16) (dec : Bool) (s : State) :
    Host.Outcome State Fault Refusal :=
  .next (match s.group ctx grp with
    | some g =>
      if !s.hearsFrom ctx g member then s
      else match g.st, g.concluded with
        | .exchange, _ =>
          let d := (dec && round == g.round) || round == g.round + 1
          if epoch = g.epoch then
            (s.modGroup ctx grp fun g => { g with dec := g.dec || d, exch := g.exch ++ [(member, dec)] }).conclude ctx grp
          else if epoch < g.epoch then s.modGroup ctx grp fun g => { g with dec := g.dec || d }
          else s
        | .rollback, some c => s.answerExch ctx grp member g epoch c
        | .halted, some c => s.answerExch ctx grp member g epoch c
        | _, _ => s
    | none => s)

/-! ### Commit and roll-back (R373, R375, R257) -/

/-- Apply the staged deltas to their parity sectors in base (R373). -/
def State.applyDeltas (s : State) (ctx grp : Nat) : List StagedDelta → State
  | [] => s
  | x :: xs =>
    match (s.entriesOf ctx grp).find? fun p => p.1 == x.entry with
    | some (_, p) =>
      let sec := areaSector p.par x.sector
      (s.writeSyms p sec (symAdd (s.rawSyms sec) x.syms)).applyDeltas ctx grp xs
    | none => s.applyDeltas ctx grp xs

/-- The digest counters of the next round become those of the open one (R373, R382). -/
def Ctx.nextRound (c : Ctx) (grp : Nat) : Ctx :=
  { c with colStat := c.colStat.map fun x =>
      match assoc c.reps x.set with
      | some r => if r.cfg.cg = grp ∧ x.round = some false then { x with round := some true } else x
      | none => x }

/-- The round commits on this member: parity, undo records, halves, CR and the round state (R373). -/
def State.applyRound (s : State) (ctx grp : Nat) (g : Group) : State :=
  (((s.applyDeltas ctx grp g.deltas).modEntries ctx grp fun p =>
      { p with undo := [], bare := [], ucnt := 0, unab := false, undoLogged := false, cur := if p.paired then !p.cur else p.cur }).modGroup
    ctx grp fun g =>
      { g with cr := g.cr + 1, notices := 0, eod := 0, ackd := false, dec := false, lastab := false, deltas := [], unacked := 0,
               dpend := g.dpend2, dbad := g.dbad2, dpend2 := 0, dbad2 := false }).modCtx ctx fun c =>
    { c.nextRound grp with minorities := assocDel c.minorities grp }

/-- Perform deferred writes in base as the first writes of the open round (R252, R257). -/
def State.performDeferred (s : State) (ctx d : Nat) (p : Prot) : State :=
  p.deferred.foldl (fun s r => (s.change hostAgent r.sector (fun s => s.putRecord r) fun _ => r).inBase r.sector)
    (s.modProt ctx d fun p => { p with deferred := [] })

/-- The deferred writes of every entry of a group are performed. -/
def State.performAllDeferred (s : State) (ctx grp : Nat) : State :=
  (s.entriesOf ctx grp).foldl (fun s p => s.performDeferred ctx p.1 p.2) s

/-- No hold stays on the regions of a group (R271). -/
def State.clearHolds (s : State) (ctx grp : Nat) : State :=
  let pages := (s.entriesOf ctx grp).flatMap fun p => p.2.rgn
  { s with holds := s.holds.filter fun h => !pages.contains (h.1 / 256) }

/-- The group is open again: deferred writes, then waiting ones, are performed, or both are discarded with the holds they placed
(R271, R373, R378). -/
def State.settleOpen (s : State) (ctx grp : Nat) (discard : Bool) : State :=
  if discard then ((s.modEntries ctx grp fun p => { p with deferred := [] }).settleGroup ctx grp true).clearHolds ctx grp
  else (s.performAllDeferred ctx grp).settleGroup ctx grp false

/-- APPLY_DONE: the apply of a commit is done; without losses the next round opens, and with one the survivors exchange or
halt (R372, R373, R429). -/
def execApplyDone (ctx grp : Nat) (s : State) : Host.Outcome State Fault Refusal :=
  .next (match s.group ctx grp with
    | some g =>
      if g.st ≠ .commit then s
      else
        let s1 := if g.applied then s else s.applyRound ctx grp g
        if g.lost = 0 then
          ((s1.modGroup ctx grp fun g => { g with st := .open_, applied := false, concluded := none }).settleOpen ctx grp
            false).abortIfBad ctx grp
        else if g.concluded = some true then
          s1.modGroup ctx grp fun g => { g with st := .halted, applied := true, dec := false }
        else (s1.modGroup ctx grp fun g => { g with applied := true, dec := true }).startExchange ctx grp
    | none => s)

/-- Write the undo records of an entry back in base (R375). -/
def State.undoEntry (s : State) (p : Prot) : State := p.undo.foldl (fun s r => (s.putRecord r).inBase r.sector) s

/-- ROLLBACK_DONE: the round is undone, and the member halts (R375). -/
def execRollbackDone (ctx grp : Nat) (s : State) : Host.Outcome State Fault Refusal :=
  .next (match s.group ctx grp with
    | some g =>
      if g.st ≠ .rollback then s
      else
        (((((s.entriesOf ctx grp).foldl (fun s p => s.undoEntry p.2) s).modEntries ctx grp fun p =>
            { p with undo := [], bare := [], ucnt := 0, unab := false, undoLogged := false }).settleOpen ctx grp true).modGroup ctx grp fun g =>
          { g with st := .halted, notices := 0, eod := 0, ackd := false, dec := false, lastab := true, deltas := [], unacked := 0,
                   dpend := 0, dpend2 := 0, dbad := false, dbad2 := false, applied := false })
    | none => s)

/-! ### Reopen and rebuild (R377, R378, R437) -/

/-- Copy the current half of a PAIRED entry into the other half in base (R378). -/
def State.copyHalf (s : State) (p : Prot) : State :=
  if p.paired then
    (List.range p.sectors).foldl (fun s k => s.writeSyms p (p.sectorAt (!p.cur) k) (s.rawSyms (p.sectorAt p.cur k))) s
  else s

/-- REOPEN: a halted group without lost members opens again (R378). -/
def execReopen (ctx grp : Nat) (s : State) : Host.Outcome State Fault Refusal :=
  .next (match s.group ctx grp with
    | some g =>
      s.command (g.st == .halted && g.lost == 0) fun s =>
        (((((s.entriesOf ctx grp).foldl (fun s p => s.copyHalf p.2) s).modCtx ctx fun c =>
            { c with reps := c.reps.map fun r => if g.restart.contains r.1 then (r.1, { r.2 with count := 0 }) else r }).modGroup
          ctx grp fun g => { g with st := .open_, concluded := none, applied := false, exch := [], restart := [],
                                    rebuilding := none }).settleOpen ctx grp g.lastab).abortIfBad ctx grp
    | none => s.status stRefused)

/-- The lowest member of a set. -/
def lowestMember (b : BitVec 32) : Option Nat := (List.range 32).find? fun i => b.getLsbD i

/-- The lost data positions of a stripe (R368). -/
def lostData (g : Group) (q stripe : Nat) : List Nat :=
  (List.range (g.cfg.n - g.cfg.m)).filter fun u => match dataOf g.cfg.n (g.cfg.n - g.cfg.m) q stripe u with
    | some (i, _) => g.lost.getLsbD i
    | none => false

/-- The lowest-numbered shares of a stripe whose holders survive. -/
def heldShares (g : Group) (stripe : Nat) : List Nat :=
  (List.range g.cfg.m).filter fun j => !g.lost.getLsbD (shareOf g.cfg.n g.cfg.m stripe j).1

/-- Row u of the inverse of the submatrix of the shares js and the data positions us: the coefficient of each share in the
solution for that position (R377 steps 2 and 3). -/
def inverseRow (js us : List Nat) (row : Nat) : List Nat :=
  let k := us.length
  let rows := js.zipIdx.map fun j => us.map (coef j.1) ++ (List.range k).map fun i => if i = j.2 then 1 else 0
  ((solveRows rows).getD row []).drop k

/-- The XOR of a list of field elements. -/
def gfSum (xs : List Nat) : Nat := xs.foldl Nat.xor 0

/-- The coefficients by which a lost data position is solved: of share j, and of data position v (R377). -/
def solveData (js us : List Nat) (row : Nat) : (Nat → Nat) × (Nat → Nat) :=
  let inv := inverseRow js us row
  (fun j => match js.idxOf? j with
      | some i => inv.getD i 0
      | none => 0,
   fun v => gfSum (js.zipIdx.map fun j => gf8Mul (inv.getD j.2 0) (coef j.1 v)))

/-- The coefficient of a surviving share j and of a surviving data position v in the target of a stripe: a data position, or
the parity share t (R377 steps 1 to 3). -/
def targetCoef (js us : List Nat) (parity : Bool) (t : Nat) : (Nat → Nat) × (Nat → Nat) :=
  if parity then
    let each := us.zipIdx.map fun u => (u.1, solveData js us u.2)
    (fun j => gfSum (each.map fun x => gf8Mul (coef t x.1) (x.2.1 j)),
     fun v => Nat.xor (coef t v) (gfSum (each.map fun x => gf8Mul (coef t x.1) (x.2.2 v))))
  else solveData js us (us.idxOf t)

/-- The targets of a rebuild of a lost member in one entry: parity or data, sector, stripe, and share or data position. -/
def rebuildTargets (g : Group) (q lost : Nat) : List (Bool × Nat × Nat × Nat) :=
  let n := g.cfg.n
  let m := g.cfg.m
  ((List.range q).map fun k => let x := stripeOf n (n - m) k lost; (false, k, x.1, x.2)) ++
    (List.range (stripes n (n - m) q)).flatMap fun st => (List.range m).filterMap fun j =>
      let h := shareOf n m st j
      if h.1 = lost then some (true, h.2, st, j) else none

/-- The sector that this member holds in a stripe, with its coefficient function chosen: share or data position (R368). -/
def State.ownSyms (s : State) (g : Group) (p : Prot) (stripe : Nat) (co : (Nat → Nat) × (Nat → Nat)) : List Byte :=
  let n := g.cfg.n
  let m := g.cfg.m
  match (List.range m).find? fun j => (shareOf n m stripe j).1 == g.cfg.self with
  | some j => symScale (co.1 j) (s.rawSyms (areaSector p.par (shareOf n m stripe j).2))
  | none =>
    match (List.range (n - m)).findSome? fun u => match dataOf n (n - m) p.sectors stripe u with
        | some (i, k) => if i = g.cfg.self then some (u, k) else none
        | none => none with
    | some (u, k) => symScale (co.2 u) (s.rawSyms (p.sectorAt p.cur k))
    | none => symZero

/-- This member's contributions to the rebuild of a lost member in one entry; all-zero ones are left out. -/
def State.contributions (s : State) (ctx grp us : Nat) (g : Group) (lost e : Nat) (p : Prot) : List Msg :=
  (rebuildTargets g p.sectors lost).filterMap fun t =>
    let missing := lostData g p.sectors t.2.2.1
    let js := (heldShares g t.2.2.1).take missing.length
    let ss := s.ownSyms g p t.2.2.1 (targetCoef js missing t.1 t.2.2.2)
    if symsSome ss then some (.rebuild ctx grp us e t.1 t.2.1 ss) else none

/-- This survivor sends its contributions for the lowest lost member (R377). -/
def State.sendRebuild (s : State) (ctx grp : Nat) : State :=
  match s.group ctx grp with
  | some g =>
    match lowestMember g.lost, g.cfg.us with
    | some i, some us =>
      if g.st = .halted ∧ g.rebuilding ≠ some i then
        (s.modGroup ctx grp fun g => { g with rebuilding := some i }).post ctx g []
          ((s.entriesOf ctx grp).flatMap fun p => s.contributions ctx grp us.1 g i p.1 p.2)
      else s
    | _, _ => s
  | none => s

/-- The understudy writes an entry of the lost member, with its pages as its own tables translate them: zero sectors to which
the contributions are added (R377). -/
def State.rebuildEntry (s : State) (ctx grp d : Nat) (a : ProtArgs) (cur : Bool) : State :=
  match s.group ctx grp with
  | some g =>
    let pages := fun (va : DWord) (n : Nat) => (List.range n).filterMap fun i =>
      (s.walk ctx (va.toNat + 4096 * i)).map fun t => (paOff (BitVec.ofNat 52 (t.pa + (va.toNat + 4096 * i - t.va))) / 4096, t.key)
    let r := pages a.rgn (16 * a.units)
    let u := pages a.und (if a.paired then 0 else 16 * a.undUnits)
    let p := pages a.par (16 * parityUnits g a.units)
    (s.zeroPages (pagesOf r ++ pagesOf p)).modCtx ctx fun c => { c with prot := assocSet c.prot d { a.entry r u p with cur := cur } }
  | none => s

/-- The understudy may hear a survivor of the group (R395). -/
def State.hearsMember (s : State) (ctx grp member : Nat) : Bool :=
  match s.group ctx grp with
  | some g => s.hearsFrom ctx g member
  | none => false

/-- The understudy adds a contribution to a sector of an entry; both halves of a PAIRED entry receive it (R377 step 4). -/
def State.rebuildShare (s : State) (ctx grp d : Nat) (parity : Bool) (sector : Nat) (syms : List Byte) : State :=
  match (s.entriesOf ctx grp).find? fun p => p.1 == d with
  | some (_, p) =>
    let add := fun (s : State) (sec : Nat) => s.writeSyms p sec (symAdd (s.rawSyms sec) syms)
    if parity then add s (areaSector p.par sector)
    else if p.paired then add (add s (p.sectorAt false sector)) (p.sectorAt true sector)
    else add s (p.sectorAt false sector)
  | none => s

/-- REBUILD: a part of the rebuild of a lost member, on a survivor or on the understudy, which hears the survivors over links that carry
flits (R377, R395). -/
def execRebuild (ctx grp : Nat) (part : RebuildPart) (s : State) : Host.Outcome State Fault Refusal :=
  .next (match part with
    | .send => s.sendRebuild ctx grp
    | .entry d paired stall rgn und par units undUnits cur =>
      s.rebuildEntry ctx grp d ⟨BitVec.ofNat 5 d, rgn, und, par, units, undUnits, grp, paired, stall⟩ cur
    | .share member d parity sector syms =>
      if s.hearsMember ctx grp member then s.rebuildShare ctx grp d parity sector syms else s)

/-- A list with position i replaced. -/
def replaceAt {α : Type} (xs : List α) (i : Nat) (x : α) : List α := xs.zipIdx.map fun y => if y.2 = i then x else y.1

/-- The replica entries of a group that name a repointed peer: their descriptor counts restart when the group reopens (R437). -/
def Ctx.restarts (c : Ctx) (grp peer : Nat) : List Nat :=
  (c.reps.filter fun r => r.2.cfg.mem.contains peer && r.2.cfg.cg == grp).map (·.1)

/-- A lost member has been rebuilt: its fabric entry names the understudy, and the links that route to it, from now on, for every table
that names the index; a peer to which all of them are down is noticed (R344, R377, R396, R437). -/
def State.repoint (s : State) (ctx grp i : Nat) (g : Group) (us : Nat × Nat) (links : List Nat) : State :=
  let peer := g.cfg.mem.getD i 0
  ((s.modCtx ctx fun c =>
    { c with fabric := replaceAt c.fabric peer us.1, routes := replaceAt c.routes peer links, lost := c.lost.filter (· != peer),
             groups := c.groups.map fun x => (x.1, { x.2 with restart := x.2.restart ++ c.restarts x.1 peer }) }).modGroup ctx grp fun g =>
      { g with cfg := { g.cfg with us := none, dom := replaceAt g.cfg.dom i us.2 }, lost := g.lost &&& ~~~(memberBit i),
               rebuilding := none }).noticeRoutes

/-- The configuration of an understudy that has joined: no understudy is named, and its own domain is the one that was (R350, R377). -/
def GroupCfg.joined (cfg : GroupCfg) : GroupCfg :=
  match cfg.us with
  | some us => { cfg with us := none, dom := replaceAt cfg.dom cfg.self us.2 }
  | none => cfg

/-- REBUILD_COMPLETE: on a survivor the lost member's entry is repointed to the understudy; the understudy joins in HALTED with
CR, EPOCH and LASTAB as the survivors hold them (R377). Without a rebuild under way the command is answered with BUSY, and without the
group with REFUSED (R400; log 28). -/
def execRebuildComplete (ctx grp : Nat) (take : Rebuilt) (s : State) : Host.Outcome State Fault Refusal :=
  .next (match s.group ctx grp with
    | some g =>
      match take with
      | .understudy cr epoch lastab =>
        (s.modGroup ctx grp fun g =>
          { newGroup (GroupCfg.joined g.cfg) with st := .halted, cr := cr, epoch := epoch, lastab := lastab }).status stOk
      | .survivor links =>
        match lowestMember g.lost, g.cfg.us with
        | some i, some us =>
          if g.st = .halted ∧ g.rebuilding = some i then (s.repoint ctx grp i g us links).status stOk else s.status stBusy
        | _, _ => s.status stBusy
    | none => s.status stRefused)

/-! ### Configuration (R349 to R351, R438) -/

/-- No domain holds more than m of a list (R350). -/
def domainsOk (doms : List Nat) (m : Nat) : Bool := doms.all fun d => decide (doms.count d ≤ m)

/-- A domain has 16 bits (R349). -/
def domainFits (d : Nat) : Bool := decide (d < 65536)

/-- The domains of the members and of the understudy (R350). -/
def domainsWith (doms : List Nat) (us : Option (Nat × Nat)) : List Nat :=
  match us with
  | some u => doms ++ [u.2]
  | none => doms

/-- The members named are distinct and in the fabric group, and SELF names this module. -/
def Ctx.membersOk (c : Ctx) (mem : List Nat) (self : Nat) : Bool :=
  decide mem.Nodup && mem.all (fun i => decide (i < c.fabric.length)) && mem[self]? == some c.self

/-- A coding-group configuration is within the limits of R350. -/
def Ctx.groupOk (c : Ctx) (grp : Nat) (cfg : GroupCfg) : Bool :=
  decide (grp < 16) && decide (4 ≤ cfg.n) && decide (cfg.n ≤ 32) && decide (1 ≤ cfg.m) && decide (cfg.m ≤ 4) &&
    decide (cfg.m + 2 ≤ cfg.n) && cfg.mem.length == cfg.n && cfg.dom.length == cfg.n && c.membersOk cfg.mem cfg.self &&
    domainsOk cfg.dom cfg.m && domainsOk (domainsWith cfg.dom cfg.us) cfg.m && (domainsWith cfg.dom cfg.us).all domainFits && c.prot.all fun p => p.2.cg != grp

/-- CODING_GROUP_CONFIG: the stage manager writes an entry or is refused (R350); after a MINORITY it clears the entry of this
module (R438). -/
def execCodingGroupConfig (ctx grp : Nat) (cfg : Option GroupCfg) (s : State) : Host.Outcome State Fault Refusal :=
  .next (match s.ctxAt ctx, cfg with
    | some c, some cfg =>
      s.command (c.groupOk grp cfg) fun s => s.modCtx ctx fun c => { c with groups := assocSet c.groups grp (newGroup cfg) }
    | some c, none =>
      s.command (match assoc c.groups grp with
          | some g => (!g.minority.isEmpty && g.st == .halted) || c.prot.all fun p => p.2.cg != grp
          | none => true) fun s =>
        s.modCtx ctx fun c => { c with groups := assocDel c.groups grp }
    | none, _ => s.status stRefused)

/-- UNDERSTUDY_NAMING: the stage manager names an understudy, checked against the domain rule alone (R350). -/
def execUnderstudyNaming (ctx grp : Nat) (us : Option (Nat × Nat)) (s : State) : Host.Outcome State Fault Refusal :=
  .next (match s.group ctx grp with
    | some g =>
      s.command (match us with
          | some u => decide ((g.cfg.dom ++ [u.2]).count u.2 ≤ g.cfg.m) && domainFits u.2
          | none => true) fun s =>
        s.modGroup ctx grp fun g => { g with cfg := { g.cfg with us := us } }
    | none => s.status stRefused)

/-- A replica-table entry is within the limits of R351. -/
def Ctx.replicaOk (c : Ctx) (set : Nat) (cfg : ReplicaCfg) : Bool :=
  decide (set < 16) && decide (2 ≤ cfg.k) && decide (cfg.k ≤ 64) && cfg.mem.length == cfg.k && c.membersOk cfg.mem cfg.self &&
    (assoc c.groups cfg.cg).isSome

/-- No collective of a set is queued (R351). -/
def Ctx.noneQueued (c : Ctx) (set : Nat) : Bool := c.colQ.all fun d => d.set != set

/-- REPLICA_CONFIG: the stage manager writes a replica-table entry, or clears it, while no collective of the set is queued
(R351, R438). -/
def execReplicaConfig (ctx set : Nat) (cfg : Option ReplicaCfg) (s : State) : Host.Outcome State Fault Refusal :=
  .next (match s.ctxAt ctx, cfg with
    | some c, some cfg =>
      s.command (c.replicaOk set cfg && c.noneQueued set) fun s =>
        s.modCtx ctx fun c => { c with reps := assocSet c.reps set ⟨cfg, 0, 0⟩ }
    | some c, none =>
      s.command (c.noneQueued set) fun s => s.modCtx ctx fun c => { c with reps := assocDel c.reps set }
    | none, _ => s.status stRefused)

/-! ### curt.wait (R378) -/

/-- The round state word (R378). -/
def State.stateWord (s : State) (ctx grp : Nat) (g : Group) : Word :=
  BitVec.ofNat 32 (g.st.num + 16 * b2n (decide (0 < g.dpend)) + 32 * b2n g.dbad + 64 * b2n (s.unabortable ctx grp) +
    128 * b2n g.lastab + 256 * countMembers g.lost)

/-- What `curt.wait` writes. -/
def State.waitWord (s : State) (ctx grp : Nat) (st : Bool) : Word :=
  match s.group ctx grp with
  | some g => if st then s.stateWord ctx grp g else g.cr
  | none => if st then 15 else 0

/-- `curt.wait` need not wait: the state is OPEN, HALTED or BEYOND, or the group is not configured (R378). -/
def State.roundOver (s : State) (ctx grp : Nat) : Bool :=
  match s.group ctx grp with
  | some g => g.st == .open_ || g.st == .halted || g.st == .beyond
  | none => true

/-- CURT_WAIT: waits for the end of the round, and reads CR or the state word (R378). -/
def execCurtWait (cu : Cue) (d : BitVec 5) (st tst : Bool) (g : BitVec 4) (s : State) : Host.Outcome State Fault Refusal :=
  ({ i := .curtWait cu d st tst g, cu := cu, op := 0x5E, uses := [d],
     body := fun s =>
       if tst || s.roundOver s.ctxId g.toNat then .done (s.ws d (s.waitWord s.ctxId g.toNat st)) else .wait .external } :
    Issue).run s

end Sys2Proof.Machine
end

