-- ==== Sys2Proof/Machine/Collect.lean ====
section
/-! DEFINITION. Collectives and their digests: `col.start`, `col.wait`, the collective engine, the comparison of digests and
`dig.rd` (R284, R302 to R305, R380 to R384, R436, R439). -/

namespace Sys2Proof.Machine

open Sys2Proof

/-! ### Hub results (R201) -/

/-- A held operation of the hub returns v to its register, unless a slow result has since been delivered to it, and completes, in the core
and its undo ring (R110, R127). -/
def State.hubReturn (s : State) (a : Access) (d : BitVec 5) (v : Word) : State :=
  (s.modAll fun l =>
    let l1 := (l.dropAcc a.seq).modEng a.eng fun x => if l.pendReg.contains (a.eng, d) then x.setS d v else x
    ({ l1 with pendReg := l1.pendReg.erase (a.eng, d) }).retireDone a.eng a.seq)

/-! ### col.start and col.wait (R302, R305) -/

/-- Descriptors of the context's collective queue, those on their way to the hub included (R286, R302). -/
def State.colLoad (s : State) : Nat :=
  (match s.ctxAt s.ctxId with | some c => c.colQ.length | none => 0) +
    (s.core.live.acc.filter fun a => match a.kind with
      | .hub (.colStart _ _ _ _ _ _ _ _ _ _) => true
      | _ => false).length

/-- COL_START: checks its bases, waits for a descriptor slot, releases at `.chip`, and queues a descriptor at the hub
(R302). -/
def execColStart (cu : Cue) (d a b n : BitVec 5) (kind : BitVec 2) (op : BitVec 3) (set : BitVec 4) (dg : Bool)
    (root : BitVec 6) (o : Bool) (s : State) : Host.Outcome State Fault Refusal :=
  ({ i := .colStart cu d a b n kind op set dg root o, cu := cu, op := 0x73, uses := [d, n],
     body := fun s =>
       match copyTrap [s.ra a, s.ra b] with
       | some t => .fault s t
       | none =>
         if 16 ≤ s.colLoad then .wait .external
         else .pend (s.modLive fun l => (l.addRelease s.cur 3).hubOp s.cur
           (.colStart (s.ra a) (s.ra b) (s.rs n).toNat kind op set.toNat dg root.toNat o d) d) } : Issue).run s

/-- The status of a collective by its id, which is kept for the 256 most recent (R305). -/
def Ctx.colOf (c : Ctx) (id : Word) : Option ColStat := (c.colStat.take 256).find? fun x => x.id == id

/-- The status of a collective of the resident act's context. -/
def State.colOf (s : State) (id : Word) : Option ColStat := (s.ctxAt s.ctxId).bind fun c => c.colOf id

/-- The status word of R305. -/
def colWord (x : Option ColStat) : Word :=
  match x with
  | some c => BitVec.ofNat 32 (c.st + 256 * (if c.st = 2 then c.reason else 0))
  | none => 3

/-- COL_WAIT: waits for a collective's status, or tests it (R305). -/
def execColWait (cu : Cue) (d a : BitVec 5) (tst : Bool) (s : State) : Host.Outcome State Fault Refusal :=
  ({ i := .colWait cu d a tst, cu := cu, op := 0x74, uses := [d, a],
     body := fun s =>
       let w := colWord (s.colOf (s.rs a))
       if tst || w.toNat % 4 != 0 then .done (s.ws d w) else .wait .external } : Issue).run s

/-- A digest collective that enters a comparison: not a reduce-scatter (R380, R382). -/
def comparedKind (dg : Bool) (kind : BitVec 2) : Bool := dg && kind != 2

/-- Raise DPEND or DPEND2 of a group (R382). -/
def Group.raise (g : Group) (this : Bool) : Group :=
  if this then { g with dpend := g.dpend + 1 } else { g with dpend2 := g.dpend2 + 1 }

/-- The coding group that rebuilds the members of a set (R351). -/
def Ctx.cgOf (c : Ctx) (set : Nat) : Option Nat := (assoc c.reps set).map fun r => r.cfg.cg

/-- A new status of a collective (R305, R384). -/
def newStat (id : Word) (dg : Bool) (set pos : Nat) (round : Option Bool) (out : Nat) : ColStat :=
  { id := id, st := 0, reason := 0, dg := dg, set := set, pos := pos, digest := 0, digests := [], out := out, cls := 0, kp := 0,
    fmin := 0, round := round }

/-- The 256 most recent collectives of a context, and older ones that have still to resolve for their round (R305, R382). -/
def recentStats (xs : List ColStat) : List ColStat :=
  xs.take 256 ++ (xs.drop 256).filter fun x => x.st == 0 || x.out == 0

/-- `col.start` is performed at the hub: the next id, the descriptor with its position in its set, and the count of pending
digests (R302, R303, R382). -/
def State.colBegin (s : State) (ctx : Nat) (inp out : DWord) (count : Nat) (kind : BitVec 2) (op : BitVec 3) (set : Nat) (dg : Bool)
    (root : Nat) (ordered : Bool) : State × Word :=
  match s.ctxAt ctx with
  | none => (s, 0)
  | some c =>
    let id := c.colNext
    let rep := assoc c.reps set
    let pos := match rep with
      | some r => r.count
      | none => 0
    let grp := if comparedKind dg kind then c.cgOf set else none
    let this := match grp with
      | some g => s.groupOpen ctx g
      | none => true
    let s1 := s.modCtx ctx fun c =>
      { c with
        colNext := nextSeq id,
        colQ := c.colQ ++ [{ id := id, inp := inp, out := out, count := count, kind := kind, op := op, set := set, dg := dg,
                             root := root, ordered := ordered, pos := pos, away := none }],
        colStat := recentStats (newStat id dg set pos (grp.map fun _ => this) (if comparedKind dg kind then 0 else 5) :: c.colStat),
        traffic := (match rep with
          | some r => r.cfg.mem.filter (· != c.self)
          | none => []).foldl (fun t i => insertSorted i t) c.traffic,
        reps := assocMod c.reps set fun r => { r with count := r.count + 1 } }
    (match grp with
      | some g => s1.modGroup ctx g fun x => x.raise this
      | none => s1, id)

/-! ### Outcomes (R381 to R383) -/

/-- Change the status of a collective. -/
def State.modStat (s : State) (ctx : Nat) (id : Word) (f : ColStat → ColStat) : State :=
  s.modCtx ctx fun c => { c with colStat := c.colStat.map fun x => if x.id = id then f x else x }

/-- A digest collective resolves for its round: DPEND falls, not below 0, and a bad outcome sets DBAD (R382, log 23). -/
def Group.resolve (g : Group) (this bad : Bool) : Group :=
  if this then { g with dpend := if g.dpend = 0 then 0 else g.dpend - 1, dbad := g.dbad || bad }
  else { g with dpend2 := if g.dpend2 = 0 then 0 else g.dpend2 - 1, dbad2 := g.dbad2 || bad }

/-- The effect of an outcome on the round of the set's coding group (R372, R382). -/
def State.settleDigest (s : State) (ctx : Nat) (x : ColStat) (bad : Bool) : State :=
  match (s.ctxAt ctx).bind fun c => c.cgOf x.set, x.round with
  | some grp, some this => (s.modGroup ctx grp fun g => g.resolve this bad).abortIfBad ctx grp
  | _, _ => s

/-- The size of the largest class of equal digests (R381). -/
def largestClass (ds : List (BitVec 128)) : Nat := ds.foldl (fun n d => max n (ds.count d)) 0

/-- OUT, A, KP and FMIN for the digests held, by member, at member `self` (R381, R384). -/
def outcomeOf (ds : List (Nat × BitVec 128)) (self : Nat) : Nat × Nat × Nat × Nat :=
  let vs := ds.map (·.2)
  let k := vs.length
  let a := largestClass vs
  match ds.find? fun d => decide (k < 2 * vs.count d.2) with
  | none => (4, a, k, 0)
  | some maj =>
    let out := ds.filter fun d => d.2 != maj.2
    match out with
    | [] => (1, a, k, 0)
    | o :: os => (if (assoc ds self) = some maj.2 then 2 else 3, a, k, os.foldl (fun m d => min m d.1) o.1)

/-- A MINORITY outcome of this module: a second one with no commit of its group between makes it lasting divergent (R383). Where the
coding group is not configured any more there is no round to name, and TVAL0 is free (log 23). -/
def State.minority (s : State) (ctx set self : Nat) : State :=
  match (s.ctxAt ctx).bind fun c => (c.cgOf set).map fun g => (c, g) with
  | none => s
  | some (c, grp) =>
    let n := (assoc c.minorities grp).getD 0
    let r := match s.group ctx grp with
      | some g => (g.cr + 1, s)
      | none => let d := s.draw; (BitVec.ofNat 32 d.1, d.2)
    let s1 := (((r.2.logAsync ctx 0x45 0 false false r.1 (BitVec.ofNat 32 self)).tell (.minority ctx set)).modGroup ctx grp fun g =>
      { g with minority := g.minority ++ [set] }).modCtx ctx fun c => { c with minorities := assocSet c.minorities grp (n + 1) }
    if 0 < n then s1.tell (.lastingDivergent ctx grp) else s1

/-- Resolve a comparison when the digest of every member that is not lost is held (R381). -/
def State.resolve (s : State) (ctx : Nat) (x : ColStat) : State :=
  match s.ctxAt ctx with
  | none => s
  | some c =>
    match assoc c.reps x.set with
    | none => s
    | some r =>
      let live := (List.range r.cfg.k).filter fun i => !c.lost.contains (r.cfg.mem.getD i 0)
      let held := x.digests.filter fun d => live.contains d.1
      if x.out ≠ 0 ∨ x.st ≠ 1 ∨ (live.all fun i => held.any fun d => d.1 == i) = false then s
      else
        let o := outcomeOf ((List.range r.cfg.k).filterMap fun i => (assoc held i).map fun d => (i, d)) r.cfg.self
        let s1 := s.modStat ctx x.id fun y => { y with out := o.1, cls := o.2.1, kp := o.2.2.1, fmin := o.2.2.2 }
        let s2 := if o.1 = 3 then s1.minority ctx x.set r.cfg.self else if o.1 = 4 then s1.tell (.disagree ctx x.set) else s1
        s2.settleDigest ctx x (o.1 != 1)

/-- Resolve the comparison of a collective by its id. -/
def State.resolveId (s : State) (ctx : Nat) (id : Word) : State :=
  match (s.ctxAt ctx).bind fun c => c.colStat.find? fun x => x.id == id with
  | some x => s.resolve ctx x
  | none => s

/-- DIGEST_MESSAGE: the digest of another member arrives over a link that carries flits, for the collective at a position of a set; one
for which this module has started no collective yet comes later (R381, R395). -/
def execDigestMessage (ctx set pos member : Nat) (digest : BitVec 128) (s : State) : Host.Outcome State Fault Refusal :=
  .next (match s.ctxAt ctx with
    | some c =>
      match c.colStat.find? fun x => x.set == set && x.pos == pos && x.out == 0, assoc c.reps set with
      | some x, some r =>
        if r.cfg.k ≤ member ∨ member = r.cfg.self ∨ c.lost.contains (r.cfg.mem.getD member 0) = true ∨
            s.linked ctx (r.cfg.mem.getD member 0) = false then s
        else (s.modStat ctx x.id fun y => { y with digests := assocSet y.digests member digest }).resolveId ctx x.id
      | _, _ => s
    | none => s)

/-! ### The collective engine (R303, R304) -/

/-- The agent of this module's collective engine (R262). -/
def colAgent : Agent := .collective 0

/-- The runs of n bytes at va on each page: address, length, position. -/
def spans (va : DWord) (n off : Nat) : Nat → List (DWord × Nat × Nat)
  | 0 => []
  | f + 1 =>
    if n = 0 then []
    else
      let k := min n (4096 - va.toNat % 4096)
      (va, k, off) :: spans (va + BitVec.ofNat 64 k) (n - k) (off + k) f

/-- What a collective's accesses are checked for (R304 reason 3): no alias, and its own wait for a copy-on-write page (R340). -/
def colWant (id : Word) (write : Bool) : Want := { write := write, noAlias := true, who := hubWho 0 id.toNat }

/-- The waiter of a collective's output (R340). -/
def colWaiter (id : Word) : Nat := hubWaiter 0 id.toNat

/-- The checks 3 to 5 of R241 for a range of a collective (R304 reason 3). -/
def State.colCheck (s : State) (ctx : Nat) (id : Word) (write : Bool) (va : DWord) (n : Nat) : Checked :=
  s.checkRuns hubCore ctx (colWant id write) (spans va n 0 (n / 4096 + 2))

/-- Words of output for a kind, of N words and k members (R303). -/
def outWords (kind : BitVec 2) (n k : Nat) : Nat := if kind = 1 then k * n else if kind = 2 then n / max 1 k else n

/-- The bytes of the pieces, those of peers taken from what their owners brought. -/
def State.colRead (s : State) (ctx : Nat) (far : List Byte) : List Piece → List Byte
  | [] => []
  | p :: ps =>
    match s.route ctx p.pa with
    | .here => s.homeBytes p.key (paOff p.pa) p.len ++ s.colRead ctx far ps
    | .host => Sparse.read 0 s.host.mem (paHost p.pa) p.len ++ s.colRead ctx far ps
    | .peer _ => (far.take p.len ++ List.replicate (p.len - far.length) 0) ++ s.colRead ctx (far.drop p.len) ps
    | .lost => onesBytes p.len ++ s.colRead ctx far ps

/-- A piece is in memory that another agent holds against the engine (R269). -/
def State.colHeld (s : State) (ctx : Nat) (p : Piece) : Bool :=
  match s.route ctx p.pa with
  | .here => (s.conflictIn s.holds colAgent (paOff p.pa) p.len).isSome
  | .host => (s.conflictIn s.host.holds colAgent (paHost p.pa) p.len).isSome
  | _ => false

/-- A piece of input is poisoned. -/
def State.colPoisoned (s : State) (ctx : Nat) (p : Piece) : Bool :=
  match s.route ctx p.pa with
  | .here => (s.poisonIn (paOff p.pa) p.len).isSome
  | .host => (s.hostPoisonIn (paHost p.pa) p.len).isSome
  | _ => false

/-- A piece lies with a peer that is marked lost (R304 reason 3). -/
def State.colLost (s : State) (ctx : Nat) (p : Piece) : Bool := paSpace p.pa != 2 && s.route ctx p.pa == .lost

/-- The engine must wait for a piece: behind a waiting write, for a closed group, or for the host link. -/
def State.colWaits (s : State) (ctx : Nat) (write : Bool) (p : Piece) : Bool :=
  match s.route ctx p.pa with
  | .here =>
    if write then (sectorsOf (paOff p.pa) p.len).any fun k => (s.closedAt k).isSome else s.waitingOn (paOff p.pa) p.len
  | .host => !s.host.linked
  | _ => false

/-- Lines in host bias that the engine's pieces need. -/
def State.colSnoops (s : State) (ctx : Nat) (ps : List Piece) : List Nat :=
  ps.flatMap fun p => if s.route ctx p.pa == .here then s.needSnoop (snoopCol ctx) (paOff p.pa) p.len else []

/-- The peers that own pieces. -/
def State.ownersOf (s : State) (ctx : Nat) (ps : List Piece) : List Nat :=
  ps.filterMap fun p => match s.route ctx p.pa with
    | .peer n => some n
    | _ => none

/-- Write one piece of an output with the engine's identity and holds (R266, R303). -/
def State.colWritePiece (s : State) (ctx : Nat) (p : Piece) (bs : List Byte) : State :=
  match s.route ctx p.pa with
  | .here =>
    ((sectorMasks (paOff p.pa) bs).foldl (fun s m =>
      (s.arriveWrite colAgent ctx true m.1 p.key m.2 (if p.sm = 0 then none else some 0x7F7F) .collective).1) s).useSnoops
        (snoopCol ctx) (paOff p.pa) p.len
  | .host => (s.hostWriteAs colAgent ctx (paHost p.pa) true false bs).1
  | .peer n =>
    ({ s with outbox := s.outbox ++ [Msg.request ctx n 255 (s.gensOf colAgent) p.key
        (.write (rangeOff p.pa) bs (scaleBytes (plainScales p)) true none)] }).modCtx ctx fun c =>
      { c with traffic := insertSorted n c.traffic }
  | .lost => s

/-- Write an output. -/
def State.colWrite (s : State) (ctx : Nat) (ps : List Piece) (bs : List Byte) : State :=
  ps.foldl (fun s p => s.colWritePiece ctx p ((bs.drop p.off).take p.len)) s

/-- The masks of free bytes of a piece that a collective may write: no granule that another agent holds, which stays as it is (R270): DEDUCED,
log 18. -/
def State.freeMasks (s : State) (p : Piece) (bs : List Byte) : List (Nat × List (Option Byte)) :=
  (sectorMasks (paOff p.pa) bs).filterMap fun m =>
    let bad := (maskGranules m.1 m.2).filter fun k => match assoc s.holds k with
      | some h => s.conflicts colAgent h
      | none => false
    let mask := maskWithout m.1 m.2 bad
    if mask.any Option.isSome then some (m.1, mask) else none

/-- The runs of the output of a collective of k members. -/
def ColDesc.outSpans (d : ColDesc) (k : Nat) : List (DWord × Nat × Nat) :=
  let n := 4 * outWords d.kind d.count k
  spans d.out n 0 (n / 4096 + 2)

/-- What a run of the output of a faulting collective still waits for: a copy-on-write resolution, snoops, or the host link; none when it
may be written, or fails its checks (R340, R357, R394). -/
def State.runWait (s : State) (ctx : Nat) (id : Word) (r : DWord × Nat × Nat) : Option State :=
  match s.checkPage hubCore ctx (colWant id true) r.1 r.2.1 r.2.2 with
  | .cow p _ => some (s.askCow ctx p (colWaiter id))
  | .ok p _ =>
    let need := s.colSnoops ctx [p]
    if !need.isEmpty then some (s.sendSnoops (snoopCol ctx) need)
    else if s.route ctx p.pa == .host && !s.host.linked then some s
    else none
  | .trap _ _ => none

/-- What the output of a faulting collective waits for, before unspecified bytes can be put there (R304). -/
def State.outputWait (s : State) (ctx : Nat) (d : ColDesc) (k : Nat) : Option State := (d.outSpans k).findSome? (s.runWait ctx d.id)

/-- Free bytes take the place of one run of the output of a faulted collective; those for a group that is not OPEN wait at their sequencer
(R256, R304). -/
def State.scrambleRun (s : State) (ctx : Nat) (id : Word) (epoch : Nat) (r : DWord × Nat × Nat) : State :=
  match s.checkPage hubCore ctx (colWant id true) r.1 r.2.1 r.2.2 with
  | .ok p _ =>
    let bs := (List.range p.len).map fun i => Config.freeByte epoch (p.off + i)
    match s.route ctx p.pa with
    | .here => (s.freeMasks p bs).foldl (fun s m =>
        (s.arriveWrite colAgent ctx true m.1 p.key m.2 (if p.sm = 0 then none else some 0x7F7F) .collective).1) s
    | _ => s.colWritePiece ctx p bs
  | _ => s

/-- The output range of a faulted collective holds unspecified bytes, not released: every byte that passes its checks is free
(R304). -/
def State.scramble (s : State) (ctx : Nat) (d : ColDesc) (k : Nat) : State :=
  let r := s.draw
  (d.outSpans k).foldl (fun s x => s.scrambleRun ctx d.id r.1 x) r.2

/-- Change a queued descriptor. -/
def State.modDesc (s : State) (ctx : Nat) (id : Word) (f : ColDesc → ColDesc) : State :=
  s.modCtx ctx fun c => { c with colQ := c.colQ.map fun x => if x.id = id then f x else x }

/-- A descriptor leaves the queue. -/
def State.dropDesc (s : State) (ctx : Nat) (id : Word) : State :=
  s.modCtx ctx fun c => { c with colQ := c.colQ.filter fun x => x.id != id }

/-- The collective's accesses are over: nothing is asked for it any more, and no flip waits for it (R340, R358). -/
def State.colLeave (s : State) (ctx : Nat) (d : ColDesc) : State :=
  ((s.forgetAsks ctx (colWaiter d.id)).unpledge (· == snoopCol ctx)).dropDesc ctx d.id

/-- A collective faults on this member: COLL is logged, then its status shows it; a digest collective resolves as FAULTED
(R304, R382). -/
def State.colFaulted (s : State) (ctx : Nat) (d : ColDesc) (k reason : Nat) : State :=
  let s1 := (((s.scramble ctx d k).colLeave ctx d).logAsync ctx 0x43 0 false false d.id (BitVec.ofNat 32 reason)).modStat ctx
    d.id fun x => { x with st := 2, reason := reason, digest := 0, out := if x.dg then 7 else x.out }
  match (s1.ctxAt ctx).bind fun c => c.colStat.find? fun x => x.id == d.id with
  | some x => s1.settleDigest ctx x true
  | none => s1

/-- A collective faults once its output can be written (R304). -/
def State.colFault (s : State) (ctx : Nat) (d : ColDesc) (k reason : Nat) : State :=
  (s.outputWait ctx d k).getD (s.colFaulted ctx d k reason)

/-- Combine two operands chosen freely until one is left: some full binary tree of fadd (R9, R303). -/
def memTree (op free : Nat) : Nat → List Word → Word × Nat
  | 0, xs => (xs.getD 0 0, free)
  | n + 1, xs =>
    if xs.length ≤ 1 then (xs.getD 0 0, free)
    else
      let i := Config.freeNat free % xs.length
      let ys := xs.eraseIdx i
      let j := Config.freeNat (free + 1) % ys.length
      memTree op (free + 2) n (memOp op (xs.getD i 0) (ys.getD j 0) :: ys.eraseIdx j)

/-- The reduction of the members' words at one place: ascending replica index in the ordered form (R303). -/
def colReduce (op : Nat) (ordered : Bool) (free : Nat) (xs : List Word) : Word × Nat :=
  if ordered || op != 1 then
    (match xs with
      | [] => 0
      | y :: ys => ys.foldl (memOp op) y, free)
  else memTree op free xs.length xs

/-- The reductions of n words from place i on. -/
def colReduceAll (op : Nat) (ordered : Bool) (ins : List (List Word)) (free i : Nat) : Nat → List Word × Nat
  | 0 => ([], free)
  | n + 1 =>
    let r := colReduce op ordered free (ins.map fun xs => xs.getD i 0)
    let rest := colReduceAll op ordered ins r.2 (i + 1) n
    (r.1 :: rest.1, rest.2)

/-- The output words on member `self` of k, from the input words of every member (R303). -/
def colResult (d : ColDesc) (k self free : Nat) (ins : List (List Word)) : List Word × Nat :=
  match d.kind with
  | 0 => colReduceAll d.op.toNat d.ordered ins free 0 d.count
  | 1 => (ins.flatMap fun xs => (List.range d.count).map fun e => xs.getD e 0, free)
  | 2 => colReduceAll d.op.toNat d.ordered ins free (d.count * self / k) (d.count / k)
  | _ => ((List.range d.count).map fun e => (ins.getD d.root []).getD e 0, free)

/-- The descriptors of the members differ (R304 reason 1). -/
def ColDesc.differs (d : ColDesc) (p : ColPeer) : Bool :=
  p.kind != d.kind || p.op != d.op || p.count != d.count || p.dg != d.dg || p.ordered != d.ordered || p.root != d.root

/-- The count or the root is out of range (R304 reason 6). -/
def ColDesc.illFormed (d : ColDesc) (k : Nat) : Bool :=
  decide (2 ^ 26 < d.count) || (d.kind == 2 && d.count % k != 0) || (d.kind == 3 && decide (k ≤ d.root))

/-- The digest of an output, 0 without DG (R380). -/
def ColDesc.digestOf (d : ColDesc) (key : BitVec 128) (ws : List Word) : BitVec 128 :=
  let bs := ws.flatMap fun w => bytesOfNat 4 w.toNat
  if d.dg then digestBytes key 0 bs ((bs.length + 63) / 64) else 0

/-- The engine releases at `.chip`, and tells it the homes of peers if it has written there (R267, R284). -/
def State.colRelease (s : State) (ctx : Nat) (told : Bool) : State :=
  let s1 := { s with colGens := advanceGens s.colGens 3 }
  if told then { s1 with outbox := s1.outbox ++ [Msg.release ctx colAgent (s1.gensOf colAgent)] } else s1

/-- A collective is complete on this member: its digest and its status, and the comparison of the digest (R305, R380, R381). -/
def State.colComplete (s : State) (ctx : Nat) (d : ColDesc) (r : Replica) (ws : List Word) : State :=
  let dig := d.digestOf r.cfg.dkey ws
  let s1 := (s.colLeave ctx d).modStat ctx d.id fun x =>
    { x with st := 1, digest := dig, digests := if d.dg then assocSet x.digests r.cfg.self dig else x.digests }
  if comparedKind d.dg d.kind then
    State.resolveId { s1 with outbox := s1.outbox ++ [Msg.digest ctx d.set d.pos dig] } ctx d.id
  else s1

/-- The collective has been carried out on this member: its outputs, the release, then its status. One with outputs in the memory of peers
has sent them, and goes on when they have answered (R284, R303). -/
def State.colFinish (s : State) (ctx : Nat) (d : ColDesc) (r : Replica) (outs : List Piece) (ws : List Word) : State :=
  let s1 := s.colWrite ctx outs (ws.flatMap fun w => bytesOfNat 4 w.toNat)
  let owners := (s.ownersOf ctx outs).eraseDups
  if owners.isEmpty then (s1.colRelease ctx false).colComplete ctx d r ws
  else s1.modDesc ctx d.id fun x => { x with away := some ⟨ws, owners, false⟩ }

/-- The peers of a collective whose output is on its way have answered: the engine releases, and when their homes have applied that the
collective is complete. One of them that refuses, or is lost before, faults it (R267, R284, R304). -/
def State.colAnswered (s : State) (ctx : Nat) (d : ColDesc) (r : Replica) (lost : List Nat) (w : ColAway) (refused : Option Nat) : State :=
  let live := w.peers.filter fun i => !lost.contains i
  if !w.told && decide (live.length < w.peers.length) then s.colFault ctx d r.cfg.k 3
  else if !s.hears ctx live then s
  else if w.told then s.colComplete ctx d r w.words
  else match refused with
    | some x => s.colFault ctx d r.cfg.k x
    | none => (s.colRelease ctx true).modDesc ctx d.id fun x => { x with away := some { w with told := true } }

/-- A soft error in the engine's output path flips a bit of a word (R439). -/
def flipWord (ws : List Word) (f : Nat × Nat) : List Word := ws.set f.1 (ws.getD f.1 0 ^^^ BitVec.ofNat 32 (2 ^ (f.2 % 32)))

/-- The engine has traffic with the owners of pieces (R396). -/
def State.meetPeers (s : State) (ctx : Nat) (ps : List Piece) : State :=
  s.modCtx ctx fun c => { c with traffic := (s.ownersOf ctx ps).foldl (fun t i => insertSorted i t) c.traffic }

/-- The pieces of its input that lie in this module are read at their homes by the engine (R237, R357). -/
def State.colReads (s : State) (ctx : Nat) (ins : List Piece) : State :=
  ins.foldl (fun s p =>
    if s.route ctx p.pa == .here then (s.homeReads colAgent (paOff p.pa) p.len).useSnoops (snoopCol ctx) (paOff p.pa) p.len else s) s

/-- The engine carries out a matched collective whose members agree (R303, R304). A member of a broadcast that is not its root reads and
checks no input, as its result holds none of it: DEDUCED, log 18. -/
def State.colMatched (s : State) (ctx : Nat) (d : ColDesc) (r : Replica) (peers : List ColPeer) (far : ColFar) : State :=
  let k := r.cfg.k
  let n := if d.kind = 3 ∧ d.root ≠ r.cfg.self then 0 else 4 * d.count
  match s.colCheck ctx d.id false d.inp n, s.colCheck ctx d.id true d.out (4 * outWords d.kind d.count k) with
  | .ok ins _, .ok outs _ =>
    let all := ins ++ outs
    let need := s.colSnoops ctx all
    if all.any fun p => s.colLost ctx p then s.colFault ctx d k 3
    else if !s.hears ctx (s.ownersOf ctx all) then s
    else match far.refused with
      | some x => s.colFault ctx d k x
      | none =>
        if ins.any (s.colWaits ctx false) || outs.any (s.colWaits ctx true) then s
        else if !need.isEmpty then s.sendSnoops (snoopCol ctx) need
        else if all.any (s.colHeld ctx) then s.colFault ctx d k 4
        else if ins.any (s.colPoisoned ctx) then s.colFault ctx d k 7
        else
          let mine := wordsOf (s.colRead ctx far.bytes ins)
          let each := (peers.map (·.words)).insertIdx r.cfg.self mine
          let res := colResult d k r.cfg.self s.free each
          (State.meetPeers { s.colReads ctx ins with free := res.2 } ctx all).colFinish ctx d r outs (far.flips.foldl flipWord res.1)
  | _, .cow p _ => s.askCow ctx p (colWaiter d.id)
  | _, _ => s.colFault ctx d k 3

/-- COLLECTIVE_PERFORM: the oldest descriptor of a set is carried out, with what the other members bring in replica order over links that
carry flits, or faults; one whose output is on its way goes on (R284, R303, R304, R395). -/
def execCollectivePerform (ctx set : Nat) (peers : List ColPeer) (far : ColFar) (s : State) : Host.Outcome State Fault Refusal :=
  .next (match s.ctxAt ctx with
    | some c =>
      match c.colQ.find? fun x => x.set == set with
      | some d =>
        match assoc c.reps set with
        | none => s.colFault ctx d 1 5
        | some r =>
          if r.cfg.mem.any fun i => c.lost.contains i then s.colFault ctx d r.cfg.k 2
          else if !s.hears ctx (r.cfg.mem.filter (· != c.self)) then s
          else match d.away with
          | some w => s.colAnswered ctx d r c.lost w far.refused
          | none =>
          if peers.length + 1 ≠ r.cfg.k then s
          else if peers.any (·.fault) then s.colFault ctx d r.cfg.k 2
          else if peers.any d.differs then s.colFault ctx d r.cfg.k 1
          else if d.illFormed r.cfg.k then s.colFault ctx d r.cfg.k 6
          else s.colMatched ctx d r peers far
      | none => s
    | none => s)

/-! ### dig.rd (R384) -/

/-- The outcome word of R384. -/
def outcomeWord (x : Option ColStat) : Word :=
  match x with
  | none => 6
  | some c => if c.dg then BitVec.ofNat 32 (c.out + 256 * c.cls + 65536 * c.kp + 16777216 * c.fmin) else 5

/-- Word w of a collective's digest (R384); before the output is written the spec states no value: it is free. -/
def State.digestWord (s : State) (x : Option ColStat) (w : BitVec 2) : Word :=
  match x with
  | none => 0
  | some c =>
    if !c.dg then 0
    else if c.st = 0 then BitVec.ofNat 32 (Config.freeNat s.free)
    else (c.digest >>> (32 * w.toNat)).setWidth 32

/-- DIG_RD: reads a digest word or the outcome word, waiting for the outcome if asked (R384). -/
def execDigRd (cu : Cue) (d a : BitVec 5) (wt out : Bool) (w : BitVec 2) (s : State) : Host.Outcome State Fault Refusal :=
  ({ i := .digRd cu d a wt out w, cu := cu, op := 0x5F, uses := [d, a],
     body := fun s =>
       let x := s.colOf (s.rs a)
       if out then
         let v := outcomeWord x
         if wt && v.toNat % 8 == 0 then .wait .external else .done (s.ws d v)
       else .done ({ s.ws d (s.digestWord x w) with free := s.free + 1 }) } : Issue).run s

end Sys2Proof.Machine
end

