-- ==== Sys2Proof/Machine/Cap.lean ====
section
/-! DEFINITION. The capabilities of the stage manager and the checks of its accesses (R398, R399). Log 40. -/

namespace Sys2Proof.Machine

open Sys2Proof

/-- Fields of a capability (R398). -/
def CapCell.base (c : CapCell) : Nat := c.value.toNat % 2 ^ 64
def CapCell.len (c : CapCell) : Nat := c.value.toNat / 2 ^ 64 % 2 ^ 32
def CapCell.reads (c : CapCell) : Bool := c.value.getLsbD 96
def CapCell.writes (c : CapCell) : Bool := c.value.getLsbD 97
def CapCell.spc (c : CapCell) : Nat := c.value.toNat / 2 ^ 98 % 4
def CapCell.kind (c : CapCell) : Nat := c.value.toNat / 2 ^ 100 % 16

/-- The value keeps the layout of a capability: LEN at least 1, SPC and KIND not reserved, the bits above zero (R398). -/
def CapCell.formed (c : CapCell) : Bool :=
  decide (1 ≤ c.len) && c.spc != 3 && decide (c.kind < 5) && decide (c.value.toNat < 2 ^ 104)

/-- Status codes (R400): BOUNDS and TAG. -/
def stBounds : Nat := 0x01
def stTag : Nat := 0x02

/-- What an access through a capability meets: n bytes at `off` from BASE, in a space, to read or to write; none where it may be made
(R399). -/
def CapCell.fault (c : CapCell) (write : Bool) (spc off n : Nat) : Option Nat :=
  if !c.tag then some stTag
  else if c.formed && c.spc == spc && (if write then c.writes else c.reads) && decide (off + n ≤ c.len) then none
  else some stBounds

/-- The capability in a slot of the stage manager; an unwritten slot holds an untagged zero. -/
def Manager.cap (m : Manager) (slot : Nat) : CapCell := (assoc m.caps slot).getD ⟨0, false⟩

/-- Write half of the 128-bit value in a slot: a capability instruction sets the tag, an ordinary write clears it (R398). -/
def Manager.write (m : Manager) (slot : Nat) (high tagged : Bool) (v : DWord) : Manager :=
  let x := (m.cap slot).value
  let y : BitVec 128 := if high then v ++ x.extractLsb' 0 64 else x.extractLsb' 64 64 ++ v
  { m with caps := assocSet m.caps slot ⟨y, tagged⟩ }

/-- A capability fault is counted, and the command being parsed is refused with its status (R399). -/
def Manager.fault (m : Manager) (code : Nat) : Manager :=
  { m with faults := m.faults + 1, refused := m.refused.orElse fun _ => some code }

end Sys2Proof.Machine
end

