-- ==== Sys2Proof/Machine/Csr.lean ====
section
/-! DEFINITION. Control registers and the CSR instructions (R114, R144, R145, R181, R185 to R193). -/

namespace Sys2Proof.Machine

open Sys2Proof

/-- CORE_ID of core n (R11, R191). -/
def coreIdWord (n : Nat) : Word := BitVec.ofNat 32 (n + 256 * (n / 40) + 1024 * (n % 40 / 8) + 8192 * (n % 8))

/-- LCn_BND as read (R144). -/
def LoopLevel.bnd (v : LoopLevel) : Word :=
  let st := if v.pend then v.lstart else if v.act then v.start else 0
  let en := if v.pend then v.lend else if v.act then v.stop else 0
  BitVec.ofNat 32 (st.toNat + 65536 * en.toNat + (if v.pend then 2 ^ 30 else 0) + (if v.act then 2 ^ 31 else 0))

/-- WIN as read (R190). -/
def Live.winWord (l : Live) : Word :=
  BitVec.ofNat 32 (l.winCur.toNat + (if l.winCv then 8 else 0) + 16 * min l.winCnt 256 + (if l.winOvf then 8192 else 0))

/-- A control register as its map reads it in engine e; none where the number is undefined there (R185). -/
def State.csr (s : State) (e : Engine) (num : Nat) : Option Word :=
  let l := s.core.live
  let x := l.eng e
  let lvl := BitVec.ofNat 2 ((num - 0x10) / 4)
  if num = 0 then some x.cause
  else if num = 1 then some x.epc
  else if num = 2 then some x.tval0
  else if num = 3 then some x.tval1
  else if num = 4 then some x.tvec
  else if 8 ≤ num && num < 12 then some ((x.target (BitVec.ofNat 2 (num - 8))).setWidth 32)
  else if 0x10 ≤ num && num < 0x20 then
    match (num - 0x10) % 4 with
    | 0 => some (x.level lvl).cnt
    | 1 => some (x.level lvl).iter
    | 2 => some (x.level lvl).bnd
    | _ => none
  else if num = 0x20 then (if e = .a then none else some x.ridx)
  else if num = 0x21 then (if e = .a then none else some (x.almlvl.setWidth 32))
  else if num = 0x22 then (if e = .x then some (l.fpflags.setWidth 32) else none)
  else if num = 0x23 then (if e = .a then some (l.lerr.setWidth 32) else none)
  else if num = 0x24 then (if e = .m then some l.accst else none)
  else if num = 0x25 then (if e = .m then some l.winWord else none)
  else if num = 0x100 then some (coreIdWord s.core.num)
  else if num = 0x101 then some (s.core.detlvl.setWidth 32)
  else if num = 0x102 then some s.core.actCur
  else if num = 0x103 then some s.core.actCeil
  else if num = 0x104 then some (BitVec.ofNat 32 ((if s.core.hen then 1 else 0) + (if s.core.halt then 2 else 0)))
  else if 0x108 ≤ num && num < 0x110 then some ((vget s.core.lvl (num - 0x108) 0).setWidth 32)
  else if 0x110 ≤ num && num < 0x114 then some ((Config.caps >>> (32 * (num - 0x110))).setWidth 32)
  else none

/-- A register holds a field that a program may write (R185, R193). -/
def csrWritable (num : Nat) : Bool :=
  num == 4 || (8 ≤ num && num < 12) || (0x10 ≤ num && num < 0x20 && ((num - 0x10) % 4 == 0 || (num - 0x10) % 4 == 2)) ||
    num == 0x20 || num == 0x21 || num == 0x22 || num == 0x23 || num == 0x24

/-- A register holds a W1C field (R181, R189). -/
def csrClears (num : Nat) : Bool := num == 0x23 || num == 0x24

/-- Write a control register with the effect of each field's access code (R7, R193). -/
def State.setCsr (s : State) (num : Nat) (v : Word) : State :=
  let lvl := BitVec.ofNat 2 ((num - 0x10) / 4)
  if num = 4 then s.modEng fun x => { x with tvec := v &&& 0x80001FFF }
  else if 8 ≤ num && num < 12 then s.modEng fun x => x.setTarget (BitVec.ofNat 2 (num - 8)) (v.setWidth 13)
  else if 0x10 ≤ num && num < 0x20 then
    match (num - 0x10) % 4 with
    | 0 => s.modEng fun x => x.setLevel lvl { x.level lvl with cnt := v }
    | 2 => s.modEng fun x => x.setLevel lvl
        { x.level lvl with lstart := v.setWidth 13, lend := v.extractLsb' 16 13, pend := v.getLsbD 30 }
    | _ => s
  else if num = 0x20 then s.modEng fun x => { x with ridx := v }
  else if num = 0x21 then s.modEng fun x => { x with almlvl := v.setWidth 2 }
  else if num = 0x22 then s.modLive fun l => { l with fpflags := v.setWidth 5 }
  else if num = 0x23 then s.modLive fun l => { l with lerr := l.lerr &&& ~~~(v.setWidth 5) }
  else if num = 0x24 then s.modLive fun l => { l with accst := l.accst &&& ~~~v }
  else s

/-- The check of a CSR access: undefined numbers and forbidden accesses raise ILLOP (R67, R69, R193). -/
def csrCheck (i : Instr) (num : BitVec 11) (writes clears : Bool) (s : State) : Option Trap :=
  match s.csr s.cur num.toNat with
  | none => some (illopOf i)
  | some _ =>
    if writes && !csrWritable num.toNat then some (illopOf i)
    else if clears && csrClears num.toNat then some (illopOf i)
    else none

/-- A CSR instruction: it reads the register, writes the new value and returns the old one (R193). ACCST waits for every
earlier pass (R182), and while one lacks vectors that wait is hopeless (R213). -/
def csrOp (i : Instr) (cu : Cue) (op : BitVec 7) (uses : List (BitVec 5)) (d : BitVec 5) (num : BitVec 11)
    (writes clears : Bool) (v : State → Word → Word) (s : State) : Host.Outcome State Fault Refusal :=
  ({ i := i, cu := cu, op := op, uses := d :: uses, chk := csrCheck i num writes clears,
     body := fun s =>
       if num = 0x24 && s.hopeless then .fault s deadlockM
       else
         let old := (s.csr s.cur num.toNat).getD 0
         .done ((if writes then s.setCsr num.toNat (v s old) else s).ws d old) } : Issue).run s

/-- CSRR: reads a control register (R193). -/
def execCsrr (cu : Cue) (d : BitVec 5) (num : BitVec 11) (s : State) : Host.Outcome State Fault Refusal :=
  csrOp (.csrr cu d num) cu 0x0C [] d num false false (fun _ old => old) s

/-- CSRW: writes s[a] and returns the old value (R193). -/
def execCsrw (cu : Cue) (d a : BitVec 5) (num : BitVec 11) (s : State) : Host.Outcome State Fault Refusal :=
  csrOp (.csrw cu d a num) cu 0x0D [a] d num true false (fun s _ => s.rs a) s

/-- CSRS: sets the bits of s[a] and returns the old value (R193). -/
def execCsrs (cu : Cue) (d a : BitVec 5) (num : BitVec 11) (s : State) : Host.Outcome State Fault Refusal :=
  csrOp (.csrs cu d a num) cu 0x0E [a] d num true true (fun s old => old ||| s.rs a) s

/-- CSRC: clears the bits of s[a] and returns the old value (R193). -/
def execCsrc (cu : Cue) (d a : BitVec 5) (num : BitVec 11) (s : State) : Host.Outcome State Fault Refusal :=
  csrOp (.csrc cu d a num) cu 0x0F [a] d num true true (fun s old => old &&& ~~~s.rs a) s

end Sys2Proof.Machine
end

