-- ==== Sys2Proof/Machine/Hub.lean ====
section
/-! DEFINITION. The hub as the place where held operations are performed: the fault log, `lnch`, the reads of `act.spawn` and
`lnch`, the answers of peers, and the accesses of peers to this module (R201, R235, R248, R256, R307 to R309, R327, R329, R345,
R346). -/

namespace Sys2Proof.Machine

open Sys2Proof

/-! ### The fault log (R307 to R309) -/

/-- Word w of a fault-log entry (R307). -/
def FLog.word (e : FLog) (w : BitVec 3) : Word :=
  match w.toNat with
  | 0 => e.hdr
  | 1 => e.tval0
  | 2 => e.tval1
  | 3 => e.seq
  | 4 => e.core
  | 5 => e.scene
  | 6 => e.pcax
  | _ => e.pcmb

/-- The fault log of the resident act's context. -/
def State.flog (s : State) : List FLog :=
  match s.ctxAt s.ctxId with
  | some c => c.flog
  | none => []

/-- The entries held and LOST in one word (R309). -/
def State.flogWord (s : State) : Word :=
  match s.ctxAt s.ctxId with
  | some c => BitVec.ofNat 32 (c.flog.length + 65536 * c.flogLost)
  | none => 0

/-- Word w of an entry, or 0 where there is none. -/
def entryWord (e : Option FLog) (w : BitVec 3) : Word :=
  match e with
  | some x => x.word w
  | none => 0

/-- FLOG_OLD: a word of the oldest entry (R309). -/
def execFlogOld (cu : Cue) (d : BitVec 5) (w : BitVec 3) (s : State) : Host.Outcome State Fault Refusal :=
  plain (.flogOld cu d w) cu 0x75 [d] (fun s => s.ws d (entryWord s.flog.head? w)) s

/-- FLOG_SEQ: a word of the entry with a sequence number (R309). -/
def execFlogSeq (cu : Cue) (d a : BitVec 5) (w : BitVec 3) (s : State) : Host.Outcome State Fault Refusal :=
  plain (.flogSeq cu d a w) cu 0x75 [d, a] (fun s => s.ws d (entryWord (s.flog.find? fun e => e.seq == s.rs a) w)) s

/-- FLOG_STAT: the fill and LOST; clearing LOST is a change that the hub makes (R309). -/
def execFlogStat (cu : Cue) (d : BitVec 5) (clr : Bool) (s : State) : Host.Outcome State Fault Refusal :=
  ({ i := .flogStat cu d clr, cu := cu, op := 0x75, uses := [d],
     body := fun s =>
       if clr then .pend (s.modLive fun l => l.hubOp s.cur (.flogStatClr d) d) else .done (s.ws d s.flogWord) } : Issue).run s

/-- FLOG_POP: removes the entry with a sequence number at the hub (R309). -/
def execFlogPop (cu : Cue) (d a : BitVec 5) (s : State) : Host.Outcome State Fault Refusal :=
  ({ i := .flogPop cu d a, cu := cu, op := 0x75, uses := [d, a],
     body := fun s => .pend (s.modLive fun l => l.hubOp s.cur (.flogPop (s.rs a) d) d) } : Issue).run s

/-- Remove the entry with a sequence number: whether there was one (R309). -/
def State.flogRemove (s : State) (seq : Word) : State × Word :=
  if s.flog.any fun e => e.seq == seq then
    (s.modCtx s.ctxId fun c => { c with flog := c.flog.filter fun e => e.seq != seq }, 1)
  else (s, 0)

/-! ### lnch (R329) -/

/-- Records in the context's device launch queue, those on their way included. -/
def State.devLoad (s : State) : Nat :=
  (match s.ctxAt s.ctxId with | some c => c.devQ.length | none => 0) +
    (s.core.live.acc.filter fun a => match a.kind with
      | .hub (.lnch _ _) => true
      | _ => false).length

/-- The issue of LNCH: a release, the read of the record, then its entry at the hub once the queue has room. -/
def lnchIssue (cu : Cue) (d a : BitVec 5) : Issue :=
  { i := .lnch cu d a, cu := cu, op := 0x7A, uses := [d],
    body := fun s =>
      if s.eng.phase = 1 then .wait .external
      else if s.eng.phase = 2 then
        if s.devLoad < 64 then .pend (s.modLive fun l => l.hubOp .a (.lnch l.record d) d) else .wait .external
      else readPhase (fun s => s.ra a) 128 (fun _ => 3) (fun p => .hub (.lnchRead p)) true s }

/-- LNCH: launches from a record in device memory (R329). -/
def execLnch (cu : Cue) (d a : BitVec 5) (s : State) : Host.Outcome State Fault Refusal := (lnchIssue cu d a).run s

/-- Enter a record into the device launch queue; none while it is full (R329). -/
def State.enterRecord (s : State) (bs : List Byte) : Option (State × Word) :=
  match s.ctxAt s.ctxId with
  | some c =>
    if c.devQ.length < 64 then
      some (s.modCtx s.ctxId fun c => { c with devQ := c.devQ ++ [bs], devTail := c.devTail + 1 }, BitVec.ofNat 32 c.devTail)
    else none
  | none => none

/-! ### The reads of act.spawn and lnch (R327, R329) -/

/-- The `act.spawn` of A with number seq completes, in the core and its undo ring. -/
def State.endSpawn (s : State) (seq : Nat) : State :=
  let fin := fun (l : Live) =>
    if l.ea.started && decide (l.ea.phase = 1) && decide (l.ea.phaseSeq = seq) then
      match l.ea.fetched with
      | .actSpawn cu a => ((spawnIssue cu a).finish ({ s with cur := .a }.setLive (l.dropAcc seq))).core.live
      | _ => l.dropAcc seq
    else l.dropAcc seq
  s.modAll fin

/-- The `lnch` of A with number seq holds its record. -/
def State.holdRecord (s : State) (seq : Nat) (bs : List Byte) : State :=
  (s.modAll fun l =>
    let l1 := l.dropAcc seq
    if l1.ea.started && decide (l1.ea.phase = 1) && decide (l1.ea.phaseSeq = seq) then
      { l1.modEng .a fun x => { x with phase := 2 } with record := bs }
    else l1)

/-- The bytes that a read of `act.spawn` or `lnch` waits for have come. -/
def State.readDone (s : State) (a : Access) (op : HubOp) (bs : List Byte) : State :=
  match op with
  | .spawn p => (s.spawn p.va bs).endSpawn a.seq
  | .lnchRead _ => s.holdRecord a.seq bs
  | _ => s

/-- Perform the read of `act.spawn` or `lnch` (R241, R251, R260, R270, R327). -/
def State.recordRead (s : State) (a : Access) (op : HubOp) (p : Piece) : State :=
  match s.gate p true (.read (rangeOff p.pa) p.len) with
  | some (s', sent) => s'.putAcc { a with sent := sent }
  | none =>
    match s.route s.ctxId p.pa with
    | .here =>
      let x := paOff p.pa
      match s.poisonIn x p.len, s.conflictIn s.holds s.me x p.len with
      | some k, _ => (s.snoopsUsed x p.len).failAtomic a.seq 0x15 (unitVa p x (64 * k))
      | none, some g => (s.snoopsUsed x p.len).failAtomic a.seq 0x14 (unitVa p x (16 * g))
      | none, none => ((s.snoopsUsed x p.len).homeReads s.me x p.len).readDone a op (s.homeBytes p.key x p.len)
    | .host =>
      match s.hostPoisonIn (paHost p.pa) p.len, s.conflictIn s.host.holds s.me (paHost p.pa) p.len with
      | some k, _ => s.failAtomic a.seq 0x15 (unitVa p (paHost p.pa) (64 * k))
      | none, some g => s.failAtomic a.seq 0x14 (unitVa p (paHost p.pa) (16 * g))
      | none, none => s.readDone a op (Sparse.read 0 s.host.mem (paHost p.pa) p.len)
    | _ => s.readDone a op (onesBytes p.len)

/-! ### Held operations at the hub (R201) -/

/-- The context's collective queue has a free descriptor slot (R286, R302). -/
def State.colRoom (s : State) : Bool :=
  match s.ctxAt s.ctxId with
  | some c => decide (c.colQ.length < 16)
  | none => true

/-- Perform a held operation at the hub; `col.start` waits for a descriptor slot, which another core may have taken (R302). -/
def State.hubPerform (s : State) (a : Access) (op : HubOp) : State :=
  match op with
  | .curtPrep g d => let r := s.curtPrep s.ctxId g; r.1.hubReturn a d r.2
  | .colStart i o n k p st dg rt od d =>
    if s.colRoom then let r := s.colBegin s.ctxId i o n k p st dg rt od; r.1.hubReturn a d r.2 else s
  | .lnch bs d => match s.enterRecord bs with
    | some r => r.1.hubReturn a d r.2
    | none => s
  | .lnchRead p => s.recordRead a op p
  | .spawn p => s.recordRead a op p
  | .flogPop q d => let r := s.flogRemove q; r.1.hubReturn a d r.2
  | .flogStatClr d => (s.modCtx s.ctxId fun c => { c with flogLost := 0 }).hubReturn a d s.flogWord
  | .semWait n w => if w ≤ s.semVal s.ctxId n then (s.hearSem a.eng n).endWait a else s
  | .semRd n d => (s.hearSem a.eng n).hubReturn a d (if s.core.detlvl = 0 then s.semVal s.ctxId n else 0)

/-- The `sem.wait` of engine e that the store may complete: no semaphore operation, release or other operation of the hub of the
engine is before it (R364). -/
def Live.firstWait (l : Live) (e : Engine) : Option Access :=
  (l.acc.find? fun a => decide (a.eng = e) && (match a.kind with
    | .semSig _ _ _ => true
    | .hub _ => true
    | .release _ _ => true
    | _ => false)).filter fun a => match a.kind with
      | .hub (.semWait _ _) => true
      | _ => false

/-- HUB_OPERATION_PERFORM: a `sem.wait` of engine e, or its first access if that is a held operation of the hub, has left the core;
the hub performs it and returns its result (R201, R309, R329, R362, R363, R370). -/
def execHubOperationPerform (e : Engine) (s : State) : Host.Outcome State Fault Refusal :=
  .next (match (s.core.live.firstWait e).orElse fun _ => s.core.live.firstAcc e with
    | some a =>
      match a.kind with
      | .hub op => if a.left && !a.sent then s.hubPerform a op else s
      | _ => s
    | none => s)

/-! ### Answers of peers (R251, R256, R260, R270, R346) -/

/-- A peer's answer to a read of `act.spawn` or `lnch`. -/
def State.answerRead (s : State) (a : Access) (op : HubOp) (p : Piece) (ans : RemoteAns) : State :=
  match ans with
  | .done bs => s.readDone a op (bs.take p.len)
  | .poisoned o => s.failAtomic a.seq 0x15 (unitVa p (rangeOff p.pa) (64 * ((rangeOff p.pa + o) / 64)))
  | .held o => s.failAtomic a.seq 0x14 (unitVa p (rangeOff p.pa) (16 * ((rangeOff p.pa + o) / 16)))
  | .keyRefused o => s.failAtomic a.seq 0x10 (unitVa p (rangeOff p.pa) (64 * ((rangeOff p.pa + o) / 64)))
  | .protRefused _ => s

/-- The piece of an access for which a request is outstanding. -/
def Access.sentPiece (a : Access) : Option Piece :=
  match a.kind with
  | .load _ (p :: _) _ _ _ => some p
  | .write (j :: _) => some j.piece
  | .reduce (j :: _) => some j.piece
  | .atomic p _ _ _ _ => some p
  | .hub (.spawn p) => some p
  | .hub (.lnchRead p) => some p
  | _ => none

/-- The peer that has still to answer an access. -/
def State.sentPeer (s : State) (a : Access) : Option Nat :=
  match a.kind with
  | .release _ (some (p :: _)) => some p
  | .semSig sel _ _ => some (semPeer sel)
  | _ => a.sentPiece.bind fun p => match s.route s.ctxId p.pa with
    | .peer n => some n
    | _ => none

/-- A peer of the context may be heard: some link that routes to it carries flits (R395). -/
def State.mayHear (s : State) (peer : Option Nat) : Bool :=
  match peer with
  | some p => s.linked s.ctxId p
  | none => true

/-- A peer's answer to an access of the focused core. -/
def State.answerAccess (s : State) (a : Access) (ans : RemoteAns) : State :=
  match a.kind with
  | .load q ps scaled hint whole => s.answerLoad a q ps scaled hint whole ans
  | .write js => s.answerJob a js ans
  | .reduce js => s.answerJob a js ans
  | .atomic p _ _ _ _ => s.answerAtomic a p ans
  | .semSig _ _ _ => s.settleAcc a
  | .release k (some ps) => s.awaitPeers a k (ps.drop 1)
  | .hub (.spawn p) => s.answerRead a (.spawn p) p ans
  | .hub (.lnchRead p) => s.answerRead a (.lnchRead p) p ans
  | _ => s

/-- The first launch whose completion entry is on its way to a peer that may be heard. -/
def State.entryAway (s : State) : Option Launch :=
  s.launches.find? fun l => match l.away with
    | some n => s.linked l.ctx n
    | none => false

/-- REMOTE_RESPONSE: a peer answers the outstanding request of the focused core: one of its accesses, of a copy channel, or the release
with which its act leaves; else one that the hub has made for a completion entry (R267, R312, R346, R395, R396). -/
def execRemoteResponse (ans : RemoteAns) (s : State) : Host.Outcome State Fault Refusal :=
  .next (match s.core.live.acc.find? fun a => a.sent && s.mayHear (s.sentPeer a) with
    | some a => s.answerAccess a ans
    | none =>
      match s.sentCopy with
      | some (ch, c, wr) => s.answerCopy ch c wr ans
      | none =>
        match s.core.releasing.filter fun ps => s.mayHear ps.head? with
        | some (_ :: ps) => { s with core := { s.core with releasing := some ps } }
        | _ => match s.entryAway with
          | some l => s.entryAnswered l.id ans
          | none => s)

/-! ### Accesses of peers (R235, R248, R256, R267, R345) -/

/-- The agent that a peer's core number names; 255 is its collective engine. -/
def State.peerAgent (s : State) (ctx peer core : Nat) : Agent :=
  if core = 255 then .collective (s.peerModule ctx peer) else .core (s.peerModule ctx peer) core

/-- The generations of a peer's agent, as its access brings them, are applied from now on (R267). -/
def State.hearGens (s : State) (ctx peer core : Nat) (gens : List DWord) : State :=
  { s with peerGens := assocSet s.peerGens (peerKey (s.peerModule ctx peer) core) gens }

/-- Answer a peer. -/
def State.answer (s : State) (ctx peer : Nat) (ans : RemoteAns) : State := s.tell (.peerAnswer ctx peer ans)

/-- The protection refuses a write to a sector (R256). -/
def State.refusesAt (s : State) (sec : Nat) : Bool := s.pairRefuses (sec / 64)

/-- The parts of a peer's write that may be written: sectors that the protection does not refuse, each with its mask without conflicting
granules and its two scales (R256, R270). -/
def State.peerParts (s : State) (g : Agent) (a : Nat) (bs : List Byte) (scales : List Byte) :
    List (Nat × List (Option Byte) × Option (BitVec 16)) :=
  (sectorMasks a bs).zipIdx.filterMap fun x =>
    let bad := (maskGranules x.1.1 x.1.2).filter fun k => match assoc s.holds k with
      | some h => s.conflicts g h
      | none => false
    let m := maskWithout x.1.1 x.1.2 bad
    let sc := match scales[2 * x.2]?, scales[2 * x.2 + 1]? with
      | some u, some v => some (BitVec.ofNat 16 (u.toNat + 256 * v.toNat))
      | _, _ => none
    if m.any Option.isSome && !s.refusesAt x.1.1 then some (x.1.1, m, sc) else none

/-- The answer to a write: the first byte that the protection refuses, else the first conflicting granule, or done (R256, R270). -/
def State.writeAns (s : State) (g : Agent) (a n : Nat) : RemoteAns :=
  match (sectorsOf a n).find? s.refusesAt, s.conflictIn s.holds g a n with
  | some k, _ => .protRefused (64 * k - a)
  | none, some k => .held (16 * k - a)
  | none, none => .done []

/-- Parts that arrive one after another, each a function of what is told when it is settled: the last one that waits carries the answer,
and the peer is answered at once when none does (R256, R270). -/
def State.peerArrivals (s : State) (ctx peer : Nat) (ans : RemoteAns) (parts : List (Nat × (State → WaitRet → State))) : State :=
  let waits := fun (x : Nat × (State → WaitRet → State)) => (s.closedAt x.1).isSome
  let s1 := (parts.filter fun x => !waits x).foldl (fun s x => x.2 s (.peer ctx peer none)) s
  let late := parts.filter waits
  let s2 := late.zipIdx.foldl (fun s x => x.1.2 s (.peer ctx peer (if x.2 + 1 = late.length then some ans else none))) s1
  if late.isEmpty then s2.answer ctx peer ans else s2

/-- A peer's plain write (R256, R270). -/
def State.peerWrite (s : State) (ctx peer : Nat) (g : Agent) (key : Byte) (a : Nat) (bs scales : List Byte) (hold : Bool) : State :=
  s.peerArrivals ctx peer (s.writeAns g a bs.length) ((s.peerParts g a bs scales).map fun x =>
    (x.1, fun s ret => (s.arriveWrite g ctx hold x.1 key x.2.1 x.2.2 ret).1))

/-- A peer's write through an alias: ordered reductions, word by word (R248). -/
def State.peerReduceAll (s : State) (ctx peer : Nat) (g : Agent) (key : Byte) (op a : Nat) (bs : List Byte) (scaled : Bool) : State :=
  let ws := (wordsOf bs).zipIdx.filter fun w =>
    (s.conflictIn s.holds g (a + 4 * w.2) 4).isNone && !s.refusesAt ((a + 4 * w.2) / 64)
  s.peerArrivals ctx peer (s.writeAns g a bs.length) (ws.map fun w =>
    ((a + 4 * w.2) / 64, fun s ret =>
      (s.arriveRmw g ctx true (a + 4 * w.2) key op none w.1 (if scaled then some 0x7F7F else none) ret).1))

/-- A peer's copy writes at range offset off: nothing where the protection refuses the sector or a granule is held, poison where its
source is poisoned, reductions at an alias (R248, R250, R256, R260, R270). -/
def State.peerCopy (s : State) (ctx peer : Nat) (g : Agent) (key : Byte) (off : Nat) (bs scales : List Byte) (poison : Bool) : State :=
  let a := off % 2 ^ 40
  match s.writeAns g a bs.length with
  | .done _ =>
    if poison then s.peerArrivals ctx peer (.done []) ((sectorsOf a bs.length).map fun k =>
      (k, fun s ret => (s.arrivePoison g ctx k key ret).1))
    else if off < 2 ^ 40 then s.peerWrite ctx peer g key a bs scales true
    else s.peerReduceAll ctx peer g key (off / 2 ^ 40) a bs (!scales.isEmpty)
  | x => s.answer ctx peer x

/-- The bytes of a read and the two scales of each sector. -/
def State.peerRead (s : State) (key : Byte) (a n : Nat) : List Byte :=
  s.homeBytes key a n ++ scaleBytes ((sectorsOf a n).map s.scalesOf)

/-- One operation on a word for a peer (R246, R247, R249): an atomic is answered with the old word. -/
def State.peerRmw (s : State) (ctx peer : Nat) (g : Agent) (key : Byte) (a op : Nat) (cmp : Option Word) (v : Word)
    (hold returns scaled : Bool) : State :=
  if !returns && (s.conflictIn s.holds g a 4).isSome then s.answer ctx peer (.held 0)
  else
    let r := s.arriveRmw g ctx hold a key op cmp v (if scaled then some 0x7F7F else none)
      (if returns then .peerOld ctx peer else .peer ctx peer (some (.done [])))
    if r.2 = .waits then r.1 else r.1.answer ctx peer (if returns then r.2.answer else .done [])

/-- The bytes of memory that a request concerns: range offset and length. -/
def reqBytes (q : MemReq) : Nat × Nat :=
  match q with
  | .read off n => (off, n)
  | .write off bs _ _ _ => (off, bs.length)
  | .entry off bs => (off, bs.length)
  | .atomic off _ _ _ _ => (off, 4)
  | .reduce off _ _ _ _ => (off, 4)
  | .signal _ _ _ => (0, 0)
  | .release => (0, 0)

/-- A request writes. -/
def reqWrites (q : MemReq) : Bool :=
  match q with
  | .read _ _ => false
  | _ => true

/-- A request that the protection refuses whole: one of a word or an entry; a wider write loses its refused sectors alone (R256). -/
def State.reqRefused (s : State) (q : MemReq) : Bool :=
  match q with
  | .read _ _ => false
  | .write _ _ _ _ _ => false
  | _ => (sectorsOf ((reqBytes q).1 % 2 ^ 40) (reqBytes q).2).any s.refusesAt

/-- A write through an alias that covers a word only in part (R248). -/
def reqPart (q : MemReq) : Bool :=
  match q with
  | .write off bs _ _ _ => decide (2 ^ 40 ≤ off) && (off % 4 != 0 || bs.length % 4 != 0)
  | .entry off _ => decide (2 ^ 40 ≤ off)
  | _ => false

/-- A request for memory is performed at its home, once nothing holds it back. -/
def State.peerPerform (s : State) (ctx peer : Nat) (g : Agent) (key : Byte) (req : MemReq) : State :=
  match req with
  | .read off n =>
    let a := off % 2 ^ 40
    match s.poisonIn a n, s.conflictIn s.holds g a n with
    | some k, _ => s.answer ctx peer (.poisoned (64 * k - a))
    | none, some k => s.answer ctx peer (.held (16 * k - a))
    | none, none => (s.homeReads g a n).answer ctx peer (.done (s.peerRead key a n))
  | .write off bs scales _ (some poison) => s.peerCopy ctx peer g key off bs scales poison
  | .write off bs scales hold none =>
    if off < 2 ^ 40 then s.peerWrite ctx peer g key off bs scales hold
    else s.peerReduceAll ctx peer g key (off / 2 ^ 40) (off % 2 ^ 40) bs (!scales.isEmpty)
  | .atomic off op cmp v scaled => s.peerRmw ctx peer g key (off % 2 ^ 40) op cmp v false true scaled
  | .reduce off op v hold scaled => s.peerRmw ctx peer g key (off % 2 ^ 40) op none v hold false scaled
  | .entry off bs =>
    s.peerArrivals ctx peer (.done []) ((sectorMasks off bs).map fun m =>
      (m.1, fun s ret => (s.arriveWrite hostAgent ctx false m.1 key m.2 none ret).1))
  | .signal n set v => (s.signal ctx n set v).answer ctx peer (.done [])
  | .release => s.answer ctx peer (.done [])

/-- A request for memory arrives at its home: its key, its protection, the reads that wait behind a write, and the snoops of host
bias come first (R256, R345, R357). -/
def State.peerArrive (s : State) (ctx peer : Nat) (g : Agent) (key : Byte) (req : MemReq) : State :=
  let a := (reqBytes req).1 % 2 ^ 40
  let n := (reqBytes req).2
  let need := s.needSnoop (snoopPeer ctx peer) a n
  if !s.keyBound key.toNat ctx then s.answer ctx peer (.keyRefused 0)
  else if (reqPart req) || s.reqRefused req then s.answer ctx peer (.protRefused 0)
  else if !(reqWrites req) && s.waitingOn a n then s
  else if !need.isEmpty then s.sendSnoops (snoopPeer ctx peer) need
  else (s.peerPerform ctx peer g key req).useSnoops (snoopPeer ctx peer) a n

/-- A request that needs no memory. -/
def reqBare (q : MemReq) : Bool :=
  match q with
  | .signal _ _ _ => true
  | .release => true
  | _ => false

/-- The generations that an access brings, unless it carries no agent's identity (R267, R312). -/
def State.hearAccess (s : State) (ctx peer core : Nat) (gens : List DWord) (req : MemReq) : State :=
  match req with
  | .entry _ _ => s
  | _ => s.hearGens ctx peer core gens

/-- PEER_ACCESS: an access of a peer that is not lost, over a link that carries flits, arrives at this module, with the generations of
its agent (R235, R267, R345, R395). -/
def execPeerAccess (ctx peer core : Nat) (gens : List DWord) (key : Byte) (req : MemReq) (s : State) :
    Host.Outcome State Fault Refusal :=
  .next (match s.ctxAt ctx with
    | some c =>
      if c.fabric.length ≤ peer ∨ peer = c.self ∨ c.lost.contains peer = true ∨ s.linked ctx peer = false ∨ 2 ^ 40 < (reqBytes req).1 % 2 ^ 40 + (reqBytes req).2 then s
      else
        let s1 := (s.hearAccess ctx peer core gens req).modCtx ctx fun c => { c with traffic := insertSorted peer c.traffic }
        let g := s.peerAgent ctx peer core
        if (reqBare req) then s1.peerPerform ctx peer g key req else s1.peerArrive ctx peer g key req
    | none => s)

end Sys2Proof.Machine
end

