-- ==== Sys2Proof/Machine/Tables.lean ====
section
/-! DEFINITION. Scenes as images and their load, contexts, the core map, and upsets (R8, R11, R12, R16, R60, R61, R78 to R84, R200
to R202, R271, R337, R343, R344, R347, R348, R355, R385). -/

namespace Sys2Proof.Machine

open Sys2Proof

/-! ### Scene images (R80, R81) -/

/-- The header of a scene image (R80). -/
structure SceneHdr where
  magic : Nat
  ver : Nat
  ncue : Nat
  id : Nat
  region : Nat
  feat : Nat
  /-- Offset and length in words of the streams A, X, M, B. -/
  strm : List (Nat × Nat)
  cuetab : Nat
  livetab : Nat
  rangetab : Nat
  nrange : Nat
  nstat : Nat
  promise : Nat
  stattab : Nat
  almtab : Nat
  data : Nat
  dlen : Nat
  imglen : Nat

/-- Read the header. -/
def headerOf (b : List Byte) : SceneHdr :=
  { magic := field b 0 4, ver := field b 4 2, ncue := field b 6 2, id := field b 8 4, region := field b 12 4,
    feat := field b 16 16, strm := (List.range 4).map fun e => (field b (32 + 8 * e) 4, field b (36 + 8 * e) 4),
    cuetab := field b 64 4, livetab := field b 68 4, rangetab := field b 72 4, nrange := field b 76 2, nstat := field b 78 1,
    promise := field b 79 1, stattab := field b 80 4, almtab := field b 84 4, data := field b 88 4, dlen := field b 92 4,
    imglen := field b 96 4 }

/-- The parts of an image: offset and length (R81). -/
def SceneHdr.parts (h : SceneHdr) : List (Nat × Nat) :=
  [(0, 128), (h.cuetab, 8 * h.ncue), (h.livetab, 24 * h.ncue), (h.rangetab, 12 * h.nrange), (h.stattab, 4 * h.nstat),
    (h.almtab, 64), (h.data, h.dlen)] ++ h.strm.map fun s => (s.1, 4 * s.2)

/-- Two parts share a byte. -/
def partsMeet (a b : Nat × Nat) : Bool := decide (a.1 < b.1 + b.2) && decide (b.1 < a.1 + a.2) && decide (0 < a.2) && decide (0 < b.2)

/-- No two parts of a list share a byte. -/
def apart : List (Nat × Nat) → Bool
  | [] => true
  | p :: ps => !(ps.any (partsMeet p)) && apart ps

/-- Word a of a stream. -/
def SceneHdr.stream (h : SceneHdr) (b : List Byte) (e : Nat) : List Word :=
  let s := h.strm.getD e (0, 0)
  (wordsOf ((b.drop s.1).take (4 * s.2))).take s.2

/-- The cue-point table (R81). -/
def SceneHdr.cues (h : SceneHdr) (b : List Byte) : List (List Nat) :=
  (List.range h.ncue).map fun n => (List.range 4).map fun e => field b (h.cuetab + 8 * n + 2 * e) 2

/-- The live-map table (R81). -/
def SceneHdr.live (h : SceneHdr) (b : List Byte) : List (List (BitVec 16)) :=
  (List.range h.ncue).map fun n => (List.range 12).map fun j => BitVec.ofNat 16 (field b (h.livetab + 24 * n + 2 * j) 2)

/-- The live-range table: cue index, base, length (R81). -/
def SceneHdr.ranges (h : SceneHdr) (b : List Byte) : List (Nat × Nat × Nat) :=
  (List.range h.nrange).map fun i =>
    (field b (h.rangetab + 12 * i) 2, field b (h.rangetab + 12 * i + 4) 4, field b (h.rangetab + 12 * i + 8) 4)

/-- The stationary table: first macro, count, format code, group (R81). -/
def SceneHdr.stats (h : SceneHdr) (b : List Byte) : List (Nat × Nat × Nat × Nat) :=
  (List.range h.nstat).map fun i =>
    (field b (h.stattab + 4 * i) 1, field b (h.stattab + 4 * i + 1) 1, field b (h.stattab + 4 * i + 2) 1,
      field b (h.stattab + 4 * i + 3) 1)

/-- The almanac image (R81). -/
def SceneHdr.almanac (h : SceneHdr) (b : List Byte) : List Word :=
  (List.range 16).map fun i => BitVec.ofNat 32 (field b (h.almtab + 4 * i) 4)

/-! ### The checks of a load (R83) -/

/-- IMAGE: the image is laid out as R80 and R81 state. DESIGN CHOICE, log 27: an image supplied with fewer bytes than its IMGLEN, or with
fewer than 128, is refused with IMAGE too; R83 names no status for it. -/
def SceneHdr.imageOk (h : SceneHdr) (b : List Byte) : Bool :=
  decide (128 ≤ b.length) && h.magic == 0x4A465345 && h.ver == 1 && zeroAt b 100 28 && decide (h.promise < 2) &&
    decide (h.imglen ≤ b.length) && (h.parts.all fun p => p.1 % 4 == 0 && decide (p.1 + p.2 ≤ h.imglen)) && h.data % 64 == 0 &&
    apart h.parts && (List.range h.nrange).all fun i => zeroAt b (h.rangetab + 12 * i + 2) 2

/-- LIMIT: the limits of R16 and R80. -/
def SceneHdr.limitOk (h : SceneHdr) : Bool :=
  decide (1 ≤ h.ncue) && decide (h.ncue ≤ 8192) && h.id != 0 && h.region != 0 && decide (h.nstat ≤ 16) &&
    h.strm.all fun s => decide (1 ≤ s.2) && decide (s.2 ≤ 8192)

/-- The scan ends on the first word of a W instruction (R60). -/
def endsOpen : List Word → Bool
  | [] => false
  | [w] => isWide (opOf w)
  | w :: v :: rest => if isWide (opOf w) then endsOpen rest else endsOpen (v :: rest)

/-- The opcodes with an order bit, `at` and `cas` apart (R58). -/
def orderOps : List Nat := [0x39, 0x3C, 0x3E, 0x58, 0x59, 0x65, 0x6B, 0x73]

/-- A W instruction makes the promise 0 (R61). -/
def breaksPromise (w x : Word) : Bool :=
  let op := (opOf w).toNat
  op == 0x69 || op == 0x6A || (orderOps.contains op && !x.getLsbD 27) || (op == 0x7D && !x.getLsbD 26)

/-- The promise that the scan of a stream computes (R61). -/
def streamPromise : List Word → Bool
  | [] => true
  | [_] => true
  | w :: v :: rest => if isWide (opOf w) then !breaksPromise w v && streamPromise rest else streamPromise (v :: rest)

/-- The addresses of the untagged `cue` words of a stream, with their indices, from address a on (R83 CUETAB). -/
def cueWords (a : Nat) : List Word → List (Nat × Nat)
  | [] => []
  | [w] => if opOf w = 0x02 then [(a, w.toNat % 8192)] else []
  | w :: v :: rest =>
    if isWide (opOf w) then cueWords (a + 2) rest
    else (if opOf w = 0x02 then [(a, w.toNat % 8192)] else []) ++ cueWords (a + 1) (v :: rest)

/-- CUETAB for one stream: the table names exactly its untagged `cue` words. -/
def cuesOk (cues : List (List Nat)) (e : Nat) (ws : List Word) : Bool :=
  let found := cueWords 0 ws
  let want := cues.zipIdx.map fun c => (c.1.getD e 0, c.2)
  (want.all fun x => found.contains x) && found.all fun x => want.any fun y => y.1 == x.1

/-- A live-map entry is formed as R81 states. -/
def liveEntryOk (x : BitVec 16) : Bool :=
  let kind := x.toNat / 2 ^ 14
  let eng := x.toNat / 2 ^ 12 % 4
  let reg := x.toNat % 32
  x == 0 || (x.toNat / 32 % 128 == 0 && kind != 0 && (if kind = 1 then reg != 0 else eng == 0 && decide (reg < 16)))

/-- The used entries of one cue point name different registers (R19). -/
def liveMapOk (xs : List (BitVec 16)) : Bool := xs.all liveEntryOk && decide (xs.filter (· != 0)).Nodup

/-- Live ranges from one on: sorted, and disjoint within one cue point (R78, R81). -/
def rangesSorted : List (Nat × Nat × Nat) → Bool
  | [] => true
  | [_] => true
  | a :: b :: rest =>
    (decide (a.1 < b.1) || (a.1 == b.1 && decide (a.2.1 + a.2.2 ≤ b.2.1))) && rangesSorted (b :: rest)

/-- LIVEMAP: live maps and live ranges (R19, R78, R81). -/
def liveOk (ncue : Nat) (maps : List (List (BitVec 16))) (rs : List (Nat × Nat × Nat)) : Bool :=
  maps.all liveMapOk && rangesSorted rs && (rs.all fun r =>
    decide (r.1 < ncue) && r.2.1 % 64 == 0 && r.2.2 % 64 == 0 && decide (64 ≤ r.2.2) && decide (r.2.1 + r.2.2 ≤ Config.spBytes)) &&
    (List.range ncue).all fun n => decide ((rs.filter fun r => r.1 == n).length ≤ 64)

/-- STAT: stationary groups are distinct, well placed, and share no macros (R78, R81). An entry with count 0 is refused too: DESIGN
CHOICE, log 38. -/
def statsOk : List (Nat × Nat × Nat × Nat) → Bool
  | [] => true
  | d :: ds =>
    decide (d.2.2.2 < 16) && decide (1 ≤ d.2.1) && decide (d.1 + d.2.1 ≤ 64) && (d.2.2.1 == 8 || d.2.2.1 == 9) &&
      (ds.all fun x => x.2.2.2 != d.2.2.2 && (decide (d.1 + d.2.1 ≤ x.1) || decide (x.1 + x.2.1 ≤ d.1))) && statsOk ds

/-- Status of a scene load (R83). -/
def ldImage : Nat := 0x10
def ldLimit : Nat := 0x11
def ldStreamEnd : Nat := 0x12
def ldCuetab : Nat := 0x13
def ldLivemap : Nat := 0x14
def ldStat : Nat := 0x15
def ldPromise : Nat := 0x16
def ldDupId : Nat := 0x17

/-- The status of a load, from the first check that fails (R83); 0 when the image is accepted. -/
def Ctx.loadStatus (c : Ctx) (b : List Byte) : Nat :=
  let h := headerOf b
  if !h.imageOk b then ldImage
  else if !h.limitOk then ldLimit
  else
    let ss := (List.range 4).map (h.stream b)
    if ss.any endsOpen then ldStreamEnd
    else if !(ss.zipIdx.all fun x => cuesOk (h.cues b) x.2 x.1) then ldCuetab
    else if !liveOk h.ncue (h.live b) (h.ranges b) then ldLivemap
    else if !statsOk (h.stats b) then ldStat
    else if h.promise = 1 ∧ (ss.all streamPromise) = false then ldPromise
    else if (c.sceneOf (BitVec.ofNat 32 h.id)).isSome then ldDupId
    else 0

/-- The scene of an accepted image; its promise is the declared one and the computed one together (R84). -/
def sceneFrom (b : List Byte) : Scene :=
  let h := headerOf b
  let ss := (List.range 4).map (h.stream b)
  { id := BitVec.ofNat 32 h.id, retiring := false, streams := ss, cues := h.cues b, live := h.live b, ranges := h.ranges b,
    stats := (h.stats b).map fun d => (d.1, d.2.1, if d.2.2.1 = 8 then .mxi8 else .mxi4, d.2.2.2), almanac := h.almanac b,
    feat := BitVec.ofNat 128 h.feat, region := BitVec.ofNat 32 h.region, promise := h.promise == 1 && ss.all streamPromise }

/-- SCENE_LOAD: the loader checks an image in order and enters it into the scene table, or refuses it (R83, R355). DESIGN CHOICE, log 27: a
load that names a context which does not exist completes with the command status REFUSED and writes no scene status; R83 is silent on it. -/
def execSceneLoad (ctx : Nat) (image : List Byte) (s : State) : Host.Outcome State Fault Refusal :=
  .next (let s0 := s.freeScenes ctx
    match s0.ctxAt ctx with
    | some c =>
      if 256 ≤ c.scenes.length then s0.status stRefused
      else
        let k := c.loadStatus image
        let s1 := s0.tell (.sceneStatus ctx k)
        if k = 0 then s1.modCtx ctx fun c => { c with scenes := c.scenes ++ [sceneFrom image] } else s1
    | none => s0.status stRefused)

/-- SCENE_UNLOAD: a scene becomes RETIRING, and its entry is freed once no act of it is left (R355). -/
def execSceneUnload (ctx : Nat) (id : Word) (s : State) : Host.Outcome State Fault Refusal :=
  .next (match (s.ctxAt ctx).bind fun c => c.sceneOf id with
    | some _ =>
      ((s.modCtx ctx fun c =>
        { c with scenes := c.scenes.map fun x => if x.id = id then { x with retiring := true } else x }).freeScenes ctx).status stOk
    | none => s.status stRefused)

/-! ### Contexts (R8, R271, R337, R344) -/

/-- A new context: every per-context field has its reset value (R8). -/
def newCtx (ttb : BitVec 52) (fabric : List Nat) (routes : List (List Nat)) (self : Nat) (store : StoreArea) : Ctx :=
  { ttb := ttb, level := 0, scenes := [], sems := [], semTold := [], fabric := fabric, routes := routes, self := self, lost := [], traffic := [],
    lossDue := [], groups := [], minorities := [], reps := [], prot := [], waiting := [], flog := [], flogLost := 0, flogSeq := 1, colNext := 1,
    colQ := [], colStat := [], devQ := [], devHead := 0, devTail := 0, devServed := 0, devHalted := false, store := store.slots, area := store.base,
    ectx := Vector.replicate 4 0, credit := Vector.replicate 4 0, cowAsked := [], cowRefused := [] }

/-- A key under which a context's carried microjoules stand (R386). -/
def carryOf (ctx key : Nat) : Bool := decide (4 + 4 * ctx ≤ key) && decide (key < 8 + 4 * ctx)

/-- CONTEXT_CREATION: the stage manager creates a context with its translation root and fabric group; a peer to which every link is down
already is noticed (R8, R337, R344, R396). -/
def execContextCreation (ctx : Nat) (ttb : BitVec 52) (fabric : List Nat) (routes : List (List Nat)) (self : Nat) (store : StoreArea)
    (s : State) : Host.Outcome State Fault Refusal :=
  .next (s.command (decide (ctx < 64) && (s.ctxAt ctx).isNone && ttb.toNat % 4096 == 0 && paSpace ttb == 0 && paOpc ttb == 0 &&
      paFormed ttb && decide (1 ≤ fabric.length) && decide (fabric.length ≤ 64) && decide (self < fabric.length) && store.base % 4096 == 0 &&
      decide (store.base + slotBytes * store.slots ≤ Config.memBytes)) fun s =>
    State.noticeRoutes { s with ctxs := assocSet s.ctxs ctx (newCtx ttb fabric routes self store),
                                carry := s.carry.filter fun x => !carryOf ctx x.1 })

/-- A core that a context leaves: no act of it runs, waits in its wings, or has left its streams there. -/
def Core.without (c : Core) (ctx : Nat) : Core :=
  let c1 := match c.act with
    | some a => if a.ctx = ctx then
        { c with act := none, ring := [], request := none, yieldMark := false, cancelled := false, ending := none, halt := false,
                 chans := Vector.replicate 8 ⟨0, []⟩, claims := [],
                 releasing := none,
                 live := { c.live with acc := [], pendReg := [], bankFifo := Vector.replicate 64 [], bankLeft := [] } }
      else c
    | none => c
  { c1 with wings := c1.wings.filter fun a => a.ctx != ctx, tlb := c1.tlb.filter fun t => t.ctx != ctx,
            scene := match c1.scene with
              | some k => if k.1 = ctx then none else some k
              | none => none }

/-- Cores that run an act of a context. -/
def State.coresOf (s : State) (ctx : Nat) : List Nat :=
  (s.allCores.filter fun c => match c.act with | some a => a.ctx == ctx | none => false).map (·.num)

/-- Who waits for snoops on behalf of a context: the cores of its acts, the collective engine, its peers, and its waiting writes (R357). -/
def State.snoopsFor (s : State) (ctx who : Nat) : Bool :=
  (s.coresOf ctx).any (fun n => snoopsOf n who) || who == snoopCol ctx || (List.range 64).any (fun p => who == snoopPeer ctx p) ||
    (match s.ctxAt ctx with
      | some c => c.waiting.any fun w => who == snoopLate w.stamp
      | none => false)

/-- CONTEXT_END: a context ends with its acts and launches; its holds and translations are removed (R271, R343, R376). -/
def execContextEnd (ctx : Nat) (s : State) : Host.Outcome State Fault Refusal :=
  .next (s.command (s.ctxAt ctx).isSome fun s =>
    let mine := fun (id : Nat) => match s.launchAt id with
      | some l => l.ctx == ctx
      | none => false
    let s1 := (s.unpledge (s.snoopsFor ctx)).modCores fun c => c.without ctx
    { s1 with
      ctxs := assocDel s1.ctxs ctx,
      carry := s1.carry.filter fun x => !carryOf ctx x.1,
      holds := s1.holds.filter fun h => h.2.ctx != ctx,
      host := { s1.host with holds := s1.host.holds.filter fun h => h.2.ctx != ctx },
      clusTlb := s1.clusTlb.filter fun t => t.2.ctx != ctx,
      pools := vmap (fun (p : List (Nat × PoolItem)) => p.filter fun x => match x.2 with
        | .gen id => !mine id
        | .act a => a.ctx != ctx) s1.pools,
      waiters := s1.waiters.filter fun w => w.1.ctx != ctx,
      launches := s1.launches.filter fun l => l.ctx != ctx,
      holding := s1.holding.filter fun h => h.2.2.ctx != ctx,
      slots := s1.slots.filter fun t => match s1.ring t.q with
        | some r => r.ctx != ctx
        | none => true,
      rings := s1.rings.filter fun r => r.2.ctx != ctx })

/-! ### The core map (R12, R347, R348) -/

/-- The map entry of logical core n: PHYS, and AV in bit 6 (R347). -/
def mapEntry (phys : Nat) (av : Bool) : BitVec 8 := BitVec.ofNat 8 (phys % 64 + if av then 64 else 0)

/-- PHYS of logical core n. -/
def State.physOf (s : State) (n : Nat) : Nat := (vget s.coreMap n 0).toNat % 64

/-- Physical core p of a die is free to take over a logical core: it has not left service, and no map entry names it. -/
def State.understudy (s : State) (die p : Nat) : Bool :=
  decide (p < 44) && !s.retired.contains (die, p) && (List.range 40).all fun i => s.physOf (40 * die + i) != p

/-- Logical core n takes no more acts, and its wings are emptied, as its replacement begins (R348). -/
def State.beginReplacing (s : State) (n : Nat) : State :=
  State.emptyWings { s with replacing := insertSorted n s.replacing }

/-- The acts that the replacement of logical core n has suspended wait for it no longer. -/
def State.unpin (s : State) (n : Nat) : State :=
  let f := fun (a : Act) => if a.home = n then { a with pinned := false } else a
  let g := fun (x : Nat × PoolItem) => (x.1, match x.2 with
    | .act a => PoolItem.act (f a)
    | .gen id => .gen id)
  { s with pools := vmap (fun (p : List (Nat × PoolItem)) => p.map g) s.pools, waiters := s.waiters.map fun w => (f w.1, w.2) }

/-- The replacement of logical core n is over: its physical core has left service, its map entry is the new one. Where there is none, the
act that it has suspended resumes wherever its binding admits (R23, R348). -/
def State.endReplacing (s : State) (n phys : Nat) (av : Bool) : State :=
  let s := if av then s else s.unpin n
  { s with coreMap := vset s.coreMap n (mapEntry phys av), replacing := s.replacing.filter (· != n),
           retired := s.retired ++ (if s.retired.contains (dieOf n, s.physOf n) then [] else [(dieOf n, s.physOf n)]) }

/-- The new core behind a logical number: its registers, caches and counting window are fresh, its generations and the state of
its queue engine go on (R348, R388). -/
def Core.renewed (c : Core) : Core :=
  { c with live := Live.reset, ring := [], scene := none, chans := Vector.replicate 8 ⟨0, []⟩, l1 := [], tlb := [], ups := 0,
           cor := 0, lasting := false }

/-- CORE_REPLACEMENT: the focused logical core gets another physical core: first it takes no more acts and its act makes a
full-image suspension; once it is free, the map is rewritten, or AV becomes 0 where no understudy is left (R348). -/
def execCoreReplacement (phys : Option Nat) (s : State) : Host.Outcome State Fault Refusal :=
  .next (let n := s.core.num
    let s1 := s.beginReplacing n
    if s1.core.act.isSome then
      if s1.core.ending.isSome then s1 else (s1.ask true).beginImage none
    else match phys with
      | some p =>
        if s.understudy (dieOf n) p then
          let s2 := s1.endReplacing n p true
          State.status { s2 with core := s2.core.renewed } stOk
        else s.status stRefused
      | none =>
        if (List.range 44).any fun p => s.understudy (dieOf n) p then s.status stRefused
        else ((s1.endReplacing n (s.physOf n) false).tell (.noUnderstudy n)).status stOk)

/-! ### Upsets (R200 to R202, R219, R385) -/

/-- The core is marked lasting, which the stage manager is told (R385). -/
def State.markLasting (s : State) : State :=
  if s.core.lasting then s else ({ s with core := { s.core with lasting := true } }).tell (.lasting s.core.num)

/-- The core returns to a state of its undo ring (R200). -/
def State.rollTo (s : State) (back : Nat) : State :=
  match s.core.ring[min back (s.core.ring.length - 1)]? with
  | some k => { s with core := { s.core with
      live := k.live, halt := k.halt, ending := if s.core.cancelled then s.core.ending else k.ending, yieldMark := k.yieldMark,
      lastCue := k.lastCue, releasing := none, ring := s.core.ring.drop (min back (s.core.ring.length - 1) + 1) } }
  | none => s

/-- UPSET_REPORT: the core returns to the cut, `back` changes before, and replays the command window; without a replay the act
ends (R200, R202, R219, R385). -/
def execUpsetReport (back : Nat) (s : State) : Host.Outcome State Fault Refusal :=
  .next (let l := s.core.live
    let s1 := ({ s with core := { s.core with ups := s.core.ups + 1 } }).bump 12
    let s2 := if 3 ≤ s1.core.ups then s1.markLasting else s1
    let s3 := s2.rollTo back
    if l.replayable then (if s3.core.live.replayable then s3.modLive Live.replay else s3)
    else if s3.core.act.isSome then s3.beginEnd (.upset l.winWord) else s3)

/-- CORRECTED_SRAM_ERROR: a corrected error of the focused core; 1,024 in a window make it lasting (R385). -/
def execCorrectedSramError (s : State) : Host.Outcome State Fault Refusal :=
  .next (let s1 := { s with core := { s.core with cor := s.core.cor + 1 } }
    if 1024 ≤ s1.core.cor then s1.markLasting else s1)

/-- COUNTING_WINDOW_END: the counts of the focused core, or of a stack, return to zero (R385). -/
def execCountingWindowEnd (stack : Option Nat) (s : State) : Host.Outcome State Fault Refusal :=
  .next (match stack with
    | none => { s with core := { s.core with ups := 0, cor := 0 } }
    | some k => { s with stackCor := s.stackCor.filter fun x => x.1 / 512 != k })

end Sys2Proof.Machine
end

