-- ==== Sys2Proof/Machine/Shake.lean ====
section
/-! DEFINITION. The functions SHAKE128 and SHAKE256 of FIPS 202, which firmware measurements and XMSS use (R402, R403); the spec names
them and does not repeat them (PRESUMED: log 15). Bytes are natural numbers below 256, lanes natural numbers below 2^64. -/

namespace Sys2Proof.Machine

open Sys2Proof

/-! ### The permutation: 25 lanes, lane (x, y) at x + 5 y -/

/-- A lane rotated left by k. -/
def rotLane (a k : Nat) : Nat := a * 2 ^ k % 2 ^ 64 + a / 2 ^ (64 - k)

/-- The complement of a lane. -/
def notLane (a : Nat) : Nat := 2 ^ 64 - 1 - a

/-- Lane i of a state. -/
def laneOf (a : List Nat) (i : Nat) : Nat := a.getD i 0

/-- The distances by which lanes turn. -/
def laneTurns : List Nat :=
  [0, 1, 62, 28, 27, 36, 44, 6, 55, 20, 3, 10, 43, 25, 39, 41, 45, 15, 21, 8, 18, 2, 61, 56, 14]

/-- The constants of the 24 rounds. -/
def roundWords : List Nat :=
  [0x0000000000000001, 0x0000000000008082, 0x800000000000808A, 0x8000000080008000, 0x000000000000808B, 0x0000000080000001,
   0x8000000080008081, 0x8000000000008009, 0x000000000000008A, 0x0000000000000088, 0x0000000080008009, 0x000000008000000A] ++
  [0x000000008000808B, 0x800000000000008B, 0x8000000000008089, 0x8000000000008003, 0x8000000000008002, 0x8000000000000080,
   0x000000000000800A, 0x800000008000000A, 0x8000000080008081, 0x8000000000008080, 0x0000000080000001, 0x8000000080008008]

/-- Every lane takes the parities of two columns beside it. -/
def mixColumns (a : List Nat) : List Nat :=
  let c := (List.range 5).map fun x => xorAll ((List.range 5).map fun y => laneOf a (x + 5 * y))
  let d := (List.range 5).map fun x => Nat.xor (laneOf c ((x + 4) % 5)) (rotLane (laneOf c ((x + 1) % 5)) 1)
  (List.range 25).map fun i => Nat.xor (laneOf a i) (laneOf d (i % 5))

/-- Every lane turns and moves to its new place. -/
def turnLanes (a : List Nat) : List Nat :=
  (List.range 25).map fun i =>
    let x := i % 5
    let y := i / 5
    let k := (x + 3 * y) % 5 + 5 * x
    rotLane (laneOf a k) (laneOf laneTurns k)

/-- The lane k places after lane i in its row. -/
def nextInRow (a : List Nat) (i k : Nat) : Nat := laneOf a ((i % 5 + k) % 5 + 5 * (i / 5))

/-- Every row is combined without linearity, and the first lane takes the round's constant. -/
def rowsAndConstant (rc : Nat) (a : List Nat) : List Nat :=
  (List.range 25).map fun i =>
    Nat.xor (Nat.xor (laneOf a i) (Nat.land (notLane (nextInRow a i 1)) (nextInRow a i 2))) (if i = 0 then rc else 0)

/-- The permutation. -/
def permuteLanes (a : List Nat) : List Nat := roundWords.foldl (fun a rc => rowsAndConstant rc (turnLanes (mixColumns a))) a

/-! ### The sponge -/

/-- The lanes of a block of bytes, least significant byte first. -/
def lanesOfBytes (n : Nat) (bs : List Nat) : List Nat :=
  (List.range n).map fun i => ((bs.drop (8 * i)).take 8).foldr (fun b v => b + 256 * v) 0

/-- The bytes of a lane. -/
def bytesOfLane (a : Nat) : List Nat := (List.range 8).map fun i => a / 256 ^ i % 256

/-- A message padded to whole blocks of `rate` bytes. -/
def padShake (rate : Nat) (m : List Nat) : List Nat :=
  let z := rate - 1 - m.length % rate
  if z = 0 then m ++ [0x9F] else m ++ [0x1F] ++ List.replicate (z - 1) 0 ++ [0x80]

/-- Take in n blocks. -/
def absorb (rate : Nat) : Nat → List Nat → List Nat → List Nat
  | 0, a, _ => a
  | n + 1, a, m => absorb rate n (permuteLanes (xorBytes a (lanesOfBytes 25 (m.take rate)))) (m.drop rate)

/-- The first 32 bytes of the function with blocks of `rate` bytes. -/
def shake32 (rate : Nat) (m : List Nat) : List Nat :=
  let p := padShake rate m
  ((absorb rate (p.length / rate) (List.replicate 25 0) p).take 4).flatMap bytesOfLane

/-- SHAKE128 with 32 bytes of output. -/
def shake128 (m : List Byte) : List Byte := (shake32 168 (m.map (·.toNat))).map (BitVec.ofNat 8)

/-- SHAKE256 with 32 bytes of output. -/
def shake256 (m : List Byte) : List Byte := (shake32 136 (m.map (·.toNat))).map (BitVec.ofNat 8)

end Sys2Proof.Machine
end

