-- ==== Sys2Proof/Machine/Xmss.lean ====
section
/-! DEFINITION. The signatures of XMSS-SHAKE_20_256 of RFC 8391: how the public root follows from a signature, and how a tree signs
(R402, R403). The spec names the scheme and does not repeat it (PRESUMED: log 15). -/

namespace Sys2Proof.Machine

open Sys2Proof

/-- A number as n bytes, most significant first. -/
def bigEndian (n v : Nat) : List Byte := (List.range n).map fun i => BitVec.ofNat 8 (v / 256 ^ (n - 1 - i))

/-- The number that bytes write, most significant first. -/
def ofBigEndian (bs : List Byte) : Nat := bs.foldl (fun v b => 256 * v + b.toNat) 0

/-- The exclusive or of two byte strings. -/
def xorStrings (xs ys : List Byte) : List Byte := List.zipWith (· ^^^ ·) xs ys

/-! ### The keyed functions and the addresses -/

/-- The keyed function of a kind: F 0, H 1, the message hash 2, PRF 3. -/
def keyed (kind : Nat) (key m : List Byte) : List Byte := shake128 (bigEndian 32 kind ++ key ++ m)

/-- What an address says beyond its layer and tree, which are 0 here: its type, four words of the type, and the word that tells key
from masks. -/
structure HashAt where
  kind : Nat
  leaf : Nat
  w1 : Nat
  w2 : Nat

/-- The 32 bytes of an address for its key (0) or a mask (1, 2). -/
def HashAt.bytes (a : HashAt) (mask : Nat) : List Byte :=
  List.replicate 12 0 ++ bigEndian 4 a.kind ++ bigEndian 4 a.leaf ++ bigEndian 4 a.w1 ++ bigEndian 4 a.w2 ++ bigEndian 4 mask

/-- The pseudorandom value of a seed at an address. -/
def HashAt.prf (a : HashAt) (seed : List Byte) (mask : Nat) : List Byte := keyed 3 seed (a.bytes mask)

/-- The hash of two nodes at an address. -/
def pairHash (seed : List Byte) (a : HashAt) (l r : List Byte) : List Byte :=
  keyed 1 (a.prf seed 0) (xorStrings l (a.prf seed 1) ++ xorStrings r (a.prf seed 2))

/-! ### One-time signatures: 67 chains of 16 values -/

/-- n steps of chain `ch` of a leaf, from step j on. -/
def chainSteps (seed : List Byte) (leaf ch : Nat) : Nat → Nat → List Byte → List Byte
  | 0, _, x => x
  | n + 1, j, x =>
    let a : HashAt := ⟨0, leaf, ch, j⟩
    chainSteps seed leaf ch n (j + 1) (keyed 0 (a.prf seed 0) (xorStrings x (a.prf seed 1)))

/-- The 67 digits of a digest of 32 bytes: its own 64, and the three of their checksum. -/
def chainDigits (digest : List Byte) : List Nat :=
  let own := digest.flatMap fun b => [b.toNat / 16, b.toNat % 16]
  let sum := (own.map fun d => 15 - d).foldl (· + ·) 0
  own ++ [sum / 256 % 16, sum / 16 % 16, sum % 16]

/-- The ends of the chains that a one-time signature of a digest leads to. -/
def chainEnds (seed : List Byte) (leaf : Nat) (sig : List (List Byte)) (digest : List Byte) : List (List Byte) :=
  (List.zip sig (chainDigits digest)).zipIdx.map fun x => chainSteps seed leaf x.2 (15 - x.1.2) x.1.2 x.1.1

/-- One level of the tree over the chain ends of a leaf: neighbours are hashed, and a last odd one is kept. -/
def endsLevel (seed : List Byte) (leaf height : Nat) : Nat → List (List Byte) → List (List Byte)
  | i, l :: r :: rest => pairHash seed ⟨1, leaf, height, i⟩ l r :: endsLevel seed leaf height (i + 1) rest
  | _, rest => rest

/-- The root over the chain ends of a leaf: seven levels. -/
def leafNode (seed : List Byte) (leaf : Nat) (ends : List (List Byte)) : List Byte :=
  ((List.range 7).foldl (fun ns h => endsLevel seed leaf h 0 ns) ends).headD []

/-! ### Signatures of a tree of height 20 -/

/-- The node above a leaf after the siblings of a path, from height h on. -/
def climb (seed : List Byte) (leaf : Nat) : Nat → List Byte → List (List Byte) → List Byte
  | _, node, [] => node
  | h, node, s :: path =>
    let a : HashAt := ⟨2, 0, h, leaf / 2 ^ (h + 1)⟩
    climb seed leaf (h + 1) (if leaf / 2 ^ h % 2 = 0 then pairHash seed a node s else pairHash seed a s node) path

/-- The digest of a message under the randomizer, the root and the leaf of its signature. -/
def xmssDigest (r root : List Byte) (leaf : Nat) (m : List Byte) : List Byte := keyed 2 (r ++ root ++ bigEndian 32 leaf) m

/-- Cut a byte string into n pieces of 32. -/
def pieces32 (n : Nat) (bs : List Byte) : List (List Byte) := (List.range n).map fun i => (bs.drop (32 * i)).take 32

/-- The root to which a signature of 2,820 bytes leads: leaf number, randomizer, chain values, path. -/
def xmssRoot (root seed m sig : List Byte) : List Byte :=
  let leaf := ofBigEndian (sig.take 4)
  let digest := xmssDigest ((sig.drop 4).take 32) root leaf m
  climb seed leaf 0 (leafNode seed leaf (chainEnds seed leaf (pieces32 67 (sig.drop 36)) digest)) (pieces32 20 (sig.drop 2180))

/-- A signature of a message verifies under a public key: root and seed. -/
def xmssVerifies (root seed m sig : List Byte) : Bool :=
  sig.length == 2820 && decide (ofBigEndian (sig.take 4) < 2 ^ 20) && xmssRoot root seed m sig == root

/-- The secrets of a tree: the seed of its chains, the key of its randomizers, and its public seed. -/
structure TreeKey where
  chains : List Byte
  random : List Byte
  seed : List Byte

/-- The first values of the chains of a leaf. -/
def TreeKey.starts (k : TreeKey) (leaf : Nat) : List (List Byte) :=
  (List.range 67).map fun i => keyed 3 (keyed 3 k.chains (bigEndian 32 leaf)) (bigEndian 32 i)

/-- Node i of height h of a tree. -/
def TreeKey.node (k : TreeKey) : Nat → Nat → List Byte
  | 0, i => leafNode k.seed i ((k.starts i).zipIdx.map fun x => chainSteps k.seed i x.2 15 0 x.1)
  | h + 1, i => pairHash k.seed ⟨2, 0, h, i⟩ (k.node h (2 * i)) (k.node h (2 * i + 1))

/-- The root of a tree. -/
def TreeKey.root (k : TreeKey) : List Byte := k.node 20 0

/-- The signature of a message with a leaf of a tree. -/
def TreeKey.sign (k : TreeKey) (leaf : Nat) (m : List Byte) : List Byte :=
  let r := keyed 3 k.random (bigEndian 32 leaf)
  let digits := chainDigits (xmssDigest r k.root leaf m)
  let chains := (List.zip (k.starts leaf) digits).zipIdx.flatMap fun x => chainSteps k.seed leaf x.2 x.1.2 0 x.1.1
  let path := (List.range 20).flatMap fun h => k.node h (Nat.xor (leaf / 2 ^ h) 1)
  bigEndian 4 leaf ++ r ++ chains ++ path

end Sys2Proof.Machine
end

