-- ==== Sys2Proof/Machine/Outside.lean ====
section
/-! DEFINITION. The module's surroundings: loss of a peer, Carten links, the host link, energy, firmware and attestation,
accesses through capabilities, checkpoints, and power (R31, R32, R372, R386, R394 to R397, R402 to R408). -/

namespace Sys2Proof.Machine

open Sys2Proof

/-! ### Loss of a peer (R251, R304, R372, R381, R396) -/

/-- An access waits for a lost peer no more: what was asked of it settles, and a release is complete without it (R251, R267, R396). -/
def Access.without (a : Access) (peer : Nat) : Access :=
  match a.kind with
  | .release k (some ps) => { a with kind := .release k (some (ps.filter (· != peer))) }
  | _ => { a with sent := false }

/-- The release of an access waits for no peer any more. -/
def Access.released (a : Access) : Bool :=
  match a.kind with
  | .release _ (some []) => true
  | _ => false

/-- The focused core waits for no answer of a peer any more (R251, R267, R396). -/
def State.forgetPeer (s : State) (peer : Nat) : State :=
  let mine := fun (a : Access) => a.sent && (match a.kind with
    | .release _ (some ps) => ps.contains peer
    | _ => s.sentPeer a == some peer)
  let gone := (s.core.live.acc.filter mine).map fun (a : Access) => a.seq
  let chans := vmap (fun c : Channel =>
    { c with queue := match c.queue with
        | x :: xs => (if s.peerOfCopy x = some peer then { x with sent := none } else x) :: xs
        | [] => [] }) s.core.chans
  let s1 := ({ s with core := { s.core with
      chans := chans, releasing := s.core.releasing.map fun (ps : List Nat) => ps.filter (· != peer) } }).modAll fun l =>
    { l with acc := l.acc.map fun (a : Access) => if gone.contains a.seq then a.without peer else a }
  (s1.core.live.acc.filter Access.released).foldl State.endRelease s1

/-- Every member index under which a peer stands in a group of a context. -/
def Ctx.placesOf (c : Ctx) (peer : Nat) : List (Nat × Nat) :=
  c.groups.flatMap fun g => (g.2.cfg.mem.zipIdx.filter fun x => x.1 == peer).map fun x => (g.1, x.2)

/-- Replica sets of a context that a peer is a member of. -/
def Ctx.setsOf (c : Ctx) (peer : Nat) : List Nat := (c.reps.filter fun r => r.2.cfg.mem.contains peer).map (·.1)

/-- The queued collectives of sets with the lost peer fault with reason 2, at once if their output can be written, else when it can; and
pending comparisons are tried again (R304, R381). -/
def State.loseCollectives (s : State) (ctx : Nat) (sets : List Nat) : State :=
  match s.ctxAt ctx with
  | none => s
  | some c =>
    let s1 := (c.colQ.filter fun d => sets.contains d.set).foldl (fun s d =>
      let k := match assoc c.reps d.set with
        | some r => r.cfg.k
        | none => 1
      if (s.outputWait ctx d k).isSome then s else s.colFaulted ctx d k 2) s
    ((c.colStat.reverse.filter fun x => sets.contains x.set).map (·.id)).foldl (fun s id => s.resolveId ctx id) s1

/-- Launches of a context that wait at the start barrier of a set with the lost peer are refused (R32). -/
def State.loseBarriers (s : State) (ctx : Nat) (sets : List Nat) : State :=
  (s.launches.filter fun l => l.ctx == ctx && l.barrier && sets.contains l.record.arg).foldl (fun s l => s.refuse l.id stRepl) s

/-- Completion entries on their way to the memory of a lost peer are dropped (R251, R312). -/
def State.loseEntries (s : State) (ctx peer : Nat) : State :=
  (s.launches.filter fun l => l.ctx == ctx && l.away == some peer).foldl (fun s l => s.retireLaunch l.id) s

/-- A peer of a context is marked lost: nothing waits for a snoop on its behalf any more (R358, R396). -/
def State.losePeer (s : State) (ctx peer : Nat) (c : Ctx) : State :=
  let s1 := (s.coresOf ctx).foldl (fun s n => s.onCore n fun s => s.forgetPeer peer) s
  let s2 := ((s1.loseEntries ctx peer).unpledge (· == snoopPeer ctx peer)).modCtx ctx fun c => { c with lost := insertSorted peer c.lost, lossDue := c.lossDue.filter (· != peer) }
  let s3 := if c.traffic.contains peer then s2.logAsync ctx 0x48 0 false false (BitVec.ofNat 32 peer) 0 else s2
  let s4 := (s3.loseBarriers ctx (c.setsOf peer)).loseCollectives ctx (c.setsOf peer)
  (c.placesOf peer).foldl (fun s g => s.loseMember ctx g.1 g.2) s4

/-- LOSS_POINT: the stage manager marks a peer lost in the fabric group (R344, R396). -/
def execLossPoint (ctx peer : Nat) (s : State) : Host.Outcome State Fault Refusal :=
  .next (match s.ctxAt ctx with
    | some c =>
      if peer < c.fabric.length ∧ peer ≠ c.self ∧ c.lost.contains peer = false then s.losePeer ctx peer c else s
    | none => s)

/-- PEER_LOSS_NOTICE: a switch tells the loss of a peer (R396). -/
def execPeerLossNotice (ctx peer : Nat) (s : State) : Host.Outcome State Fault Refusal :=
  .next (s.modCtx ctx fun c => c.notice peer)

/-! ### Carten links (R395, R396) -/

/-- Change a link. -/
def State.modLink (s : State) (i : Nat) (f : Link → Link) : State :=
  match s.links[i]? with
  | some l => { s with links := vset s.links i (f l) }
  | none => s

/-- One lane of a link fails: the spare lane takes its place, then the link retrains at 4 lanes, then it goes down (R395). -/
def Link.failLane (l : Link) : Link :=
  if l.down then l
  else if l.failed = 0 then { l with failed := 1, retraining := true }
  else if l.failed = 1 then { l with failed := 2, lanes := 4, retraining := true }
  else { l with failed := l.failed + 1, lanes := 0, retraining := false, down := true }

/-- LANE_FAILURE: a data lane of a link fails (R395). -/
def execLaneFailure (link : Nat) (s : State) : Host.Outcome State Fault Refusal :=
  .next (s.modLink link Link.failLane).noticeRoutes

/-- LINK_IDLE_TIMEOUT: a link without a flit or idle for 2 µs is down (R395). -/
def execLinkIdleTimeout (link : Nat) (s : State) : Host.Outcome State Fault Refusal :=
  .next (s.modLink link fun l => { l with down := true, retraining := false, lanes := 0 }).noticeRoutes

/-- LINK_LEVEL_RETRY: a flit is replayed from the replay buffer (R395). -/
def execLinkLevelRetry (link : Nat) (s : State) : Host.Outcome State Fault Refusal :=
  .next (s.modLink link fun l => if l.down then l else { l with replays := l.replays + 1 })

/-- CARTEN_RETRAIN_DONE: the spare lane or the narrower width is in use, and flits flow again (R395). -/
def execCartenRetrainDone (link : Nat) (s : State) : Host.Outcome State Fault Refusal :=
  .next (s.modLink link fun l => { l with retraining := false })

/-! ### The host link (R394) -/

/-- HOST_LINK_DOWN: the 100 ms count starts (R394). -/
def execHostLinkDown (s : State) : Host.Outcome State Fault Refusal :=
  .next (if s.host.up then { s with host := { s.host with up := false, counting := !s.host.lost, retraining := false } } else s)

/-- HOST_LINK_UP: the count stops; a host that was lost is served again only after a new ADMBASE (R394). -/
def execHostLinkUp (s : State) : Host.Outcome State Fault Refusal :=
  .next (State.flushDue { s with host := { s.host with up := true, counting := false } })

/-- HOST_LINK_LOSS: after 100 ms of link down the host is lost (R394). -/
def execHostLinkLoss (s : State) : Host.Outcome State Fault Refusal :=
  .next (if s.host.counting then { s with host := { s.host with lost := true, counting := false, due := [] } } else s)

/-- LINK_WIDTH_CHANGE: a width or speed change holds every transaction for a while (R394). -/
def execLinkWidthChange (width : Nat) (s : State) : Host.Outcome State Fault Refusal :=
  .next (if s.host.up ∧ (width = 16 ∨ width = 8 ∨ width = 4) then
    { s with host := { s.host with width := width, retraining := true } }
  else s)

/-- HOST_RETRAIN_DONE: the held transactions proceed (R394). -/
def execHostRetrainDone (s : State) : Host.Outcome State Fault Refusal :=
  .next (State.flushDue { s with host := { s.host with retraining := false } })

/-! ### Accesses of the stage manager (R398, R399) -/

/-- The low n bytes of a value are written at an address of host memory; poisoned lines there stay (R250). -/
def State.capHost (s : State) (a : Nat) (bs : List Byte) : State :=
  bs.zipIdx.foldl (fun s b =>
    if s.host.poison.contains ((a + b.2) / 64) then s
    else { s with host := { s.host with mem := Sparse.write 0 s.host.mem (a + b.2) [b.1] } }) s

/-- Bytes are written at an address of stacked memory under key 0, and no L1 keeps their lines (log 40). -/
def State.capDevice (s : State) (a : Nat) (bs : List Byte) : State :=
  (sectorMasks a bs).foldl (fun s m => (s.invalidateL1 none m.1).storeSector m.1 0 m.2 none) s

/-- A permitted write of the stage manager: up to 8 bytes of v, to host memory over a link that carries transactions, or to stacked memory
under key 0; what is hub-internal has no layout in the spec, and nothing of it changes (R398; log 40). -/
def State.capWrite (s : State) (spc a n : Nat) (v : DWord) : State :=
  let bs := (bytesOfNat 8 v.toNat).take n
  if spc = 0 then (if s.host.linked then s.capHost a bs else s)
  else if spc = 1 then (if a + bs.length ≤ Config.memBytes then s.capDevice a bs else s)
  else s

/-- The stage manager makes an access through a capability as it parses a command: a fault is counted and nothing else happens, and a
permitted write is made (R398, R399). -/
def State.capAccess (s : State) (slot : Nat) (write : Bool) (spc off n : Nat) (v : DWord) : State :=
  let c := s.sm.cap slot
  match c.fault write spc off n with
  | some k => { s with sm := s.sm.fault k }
  | none => if write then s.capWrite spc (c.base + off) n v else s

/-- REGISTER_WRITE: the stage manager writes DBGCTL of the focused core or one of its own 128-bit values, or makes an access through a
capability; or the host writes an offset of BAR0 that has no row of its own, which ignores the write (R7, R186, R191, R392, R398,
R399). -/
def execRegisterWrite (reg : RegTarget) (v : DWord) (s : State) : Host.Outcome State Fault Refusal :=
  .next (match reg with
    | .dbgctl => { s with core := { s.core with hen := v.getLsbD 0 } }
    | .bar0 _ => s
    | .cap slot high tagged => { s with sm := s.sm.write slot high tagged v }
    | .capUse slot write spc off n => s.capAccess slot write spc.toNat off n v)

/-! ### Energy (R386, R405) -/

/-- Add microjoules to a carry: the whole millijoules gained, and the remainder kept (R386). -/
def State.carryUj (s : State) (key uj : Nat) : State × Nat :=
  let t := Sparse.get 0 s.carry key + uj
  ({ s with carry := Sparse.set 0 s.carry key (t % 1000) }, t / 1000)

/-- The least credit (R386). -/
def leastCredit : Int := -(2 ^ 63)

/-- A context's part of an accrual on a die (R386). -/
def State.accrue (s : State) (die : Nat) (x : Nat × Nat) : State :=
  let r := s.carryUj (4 + 4 * x.1 + die) x.2
  r.1.modCtx x.1 fun c =>
    { c with ectx := vset c.ectx die ((vget c.ectx die 0 + r.2) % 2 ^ 64),
             credit := vset c.credit die (max leastCredit (vget c.credit die 0 - r.2)) }

/-- ENERGY_ACCRUAL: the die's energy since the last accrual, and the shares of the contexts whose acts were resident (R386). -/
def execEnergyAccrual (die uj : Nat) (shares : List (Nat × Nat)) (s : State) : Host.Outcome State Fault Refusal :=
  .next (if die < 4 ∧ (shares.map (·.2)).foldl (· + ·) 0 ≤ uj then
    let r := s.carryUj die uj
    shares.foldl (fun s x => s.accrue die x) { r.1 with edie := vset r.1.edie die ((vget r.1.edie die 0 + r.2) % 2 ^ 64) }
  else s)

/-- CREDIT_REFILL: the stage manager adds credit (R386). -/
def execCreditRefill (ctx die mj : Nat) (s : State) : Host.Outcome State Fault Refusal :=
  .next (s.modCtx ctx fun c => { c with credit := vset c.credit die (min (2 ^ 63 - 1) (vget c.credit die 0 + mj)) })

/-- ENERGY_BUDGET_WRITE: the board writes a budget of up to 3,400 watts (R405). -/
def execEnergyBudgetWrite (watts : Nat) (s : State) : Host.Outcome State Fault Refusal :=
  .next (if watts ≤ 3400 then { s with budget := watts } else s)

/-! ### Firmware and attestation (R402 to R404) -/

/-- Status codes (R400): EXHAUSTED and BADSIG. -/
def stExhausted : Nat := 0x05
def stBadSig : Nat := 0x06

/-- The measurement of an image: SHAKE256-256 (R402). -/
def Bank.measure (b : Bank) : List Byte := shake256 b.image

/-- The version that an image carries: its first four bytes (R402; log 15). -/
def Bank.version (b : Bank) : List Byte := (b.image ++ [0, 0, 0, 0]).take 4

/-- A bank's signature over its measurement verifies under the vendor's public key (R402). -/
def Firmware.accepts (f : Firmware) (b : Bank) : Bool :=
  xmssVerifies (bigEndian 32 f.root.toNat) (bigEndian 32 f.seed.toNat) b.measure (bigEndian 2820 b.sig.toNat)

/-- FIRMWARE_LOAD: an incoming image, its version and what follows, and its signature, of 2,820 bytes, go to the second bank; accepted, the hand-over is in progress
(R402). -/
def execFirmwareLoad (version : Word) (image sig : List Byte) (s : State) : Host.Outcome State Fault Refusal :=
  .next (let b : Bank := ⟨bytesOfNat 4 version.toNat ++ image, BitVec.ofNat 22560 (ofBigEndian sig)⟩
    if s.fw.incoming.isSome then s.status stBusy
    else if sig.length = 2820 ∧ s.fw.accepts b = true then ({ s with fw := { s.fw with incoming := some b } }).status stOk
    else s.status stBadSig)

/-- HANDOVER_SWITCH: the incoming firmware becomes the active one (R402). -/
def execHandoverSwitch (s : State) : Host.Outcome State Fault Refusal :=
  .next (match s.fw.incoming with
    | some b => { s with fw := { s.fw with active := b, incoming := none } }
    | none => s)

/-- The 112 bytes of an attestation report (R403). -/
def Firmware.report (f : Firmware) (nonce : BitVec 256) : List Byte :=
  bytesOfNat 32 nonce.toNat ++ f.active.version ++ f.active.measure ++
    (match f.incoming with | some b => b.measure | none => List.replicate 32 0) ++
    bytesOfNat 4 (if f.incoming.isSome then 1 else 0) ++ bytesOfNat 4 f.leaf ++ bytesOfNat 4 f.boots

/-- Tree n of the module: its secrets (R403; log 15). -/
def treeKey (n : Nat) : TreeKey :=
  let bs := bigEndian 96 (Config.treeSecret n).toNat
  ⟨bs.take 32, (bs.drop 32).take 32, bs.drop 64⟩

/-- The public key of a tree: root and seed. -/
def TreeKey.public (k : TreeKey) : List Byte := k.root ++ k.seed

/-- The identity tree's certificate of the attestation tree of a bring-up: that tree's public key, signed with the bring-up's leaf
(R403). -/
def certificate (boots : Nat) : List Byte :=
  let pub := (treeKey (boots + 1)).public
  pub ++ (treeKey 0).sign boots pub

/-- What a notice puts on the wire for a report: the report, its signature with a leaf of the bring-up's attestation tree, and the
certificate of that tree (R403). -/
def reportOnWire (report : List Byte) (boots leaf : Nat) : List Byte :=
  report ++ (treeKey (boots + 1)).sign leaf report ++ certificate boots

/-- ATTESTATION_REQUEST: a signed report, while the attestation tree has a leaf (R403, R404). -/
def execAttestationRequest (nonce : BitVec 256) (s : State) : Host.Outcome State Fault Refusal :=
  .next (if 2 ^ 20 ≤ s.fw.leaf then s.status stExhausted
    else
      (({ s with fw := { s.fw with leaf := s.fw.leaf + 1 } }).tell (.report (s.fw.report nonce) s.fw.boots s.fw.leaf)).status stOk)

/-! ### The safe tier (R407, R408) -/

/-- No act of the context is resident or waits, and none of its groups is in a round (R407). -/
def State.quiescent (s : State) (ctx : Nat) : Bool :=
  (s.coresOf ctx).isEmpty && !(s.waiters.any fun w => w.1.ctx == ctx) &&
    match s.ctxAt ctx with
    | some c => c.groups.all fun g => g.2.st == .open_ || g.2.st == .halted || g.2.st == .beyond
    | none => false

/-- The physical sector of a virtual sector address, with its key; none where it is not in local stacked memory. -/
def State.sectorVa (s : State) (ctx va : Nat) : Option (Nat × Byte) :=
  match s.ctxAt ctx, s.walk ctx va with
  | some c, some t =>
    let pa := BitVec.ofNat 52 (t.pa + (va - t.va))
    if c.isLocal pa && paOpc pa == 0 then some (paOff pa / 64, t.key) else none
  | _, _ => none

/-- The committed contents of a sector: its undo record, or the current half of a PAIRED region under the key of that half's page
(R345, R407). -/
def State.savedSector (s : State) (va sec : Nat) (key : Byte) : SavedSector :=
  let plainly := fun (k : Nat) (key : Byte) => { addr := va, data := bytesOfNat 64 (s.underKey key (assoc s.secKey k) k (s.sectorRaw k)).toNat,
                                                 scales := Sparse.get 0x7F7F s.secScale k : SavedSector }
  match s.regionAt (sec / 64) with
  | some (_, _, p, _) =>
    if p.paired then
      let k := p.sectorAt p.cur (placeIn p.rgn sec % p.sectors)
      plainly k (p.key (k / 64))
    else match p.undo.find? fun r => r.sector == sec with
      | some r => { addr := va, data := bytesOfNat 64 (s.underKey key r.key sec r.data).toNat, scales := r.scales }
      | none => plainly sec key
  | none => plainly sec key

/-- The sectors of a range of n bytes at an address; none where one cannot be saved. -/
def State.savedFrom (s : State) (ctx va : Nat) : Nat → Option (List SavedSector)
  | 0 => some []
  | n + 1 =>
    match s.sectorVa ctx va with
    | some (sec, key) => (s.savedFrom ctx (va + 64) n).map fun r => s.savedSector va sec key :: r
    | none => none

/-- The sectors of a list of ranges. -/
def State.savedRanges (s : State) (ctx : Nat) : List (Nat × Nat) → Option (List SavedSector)
  | [] => some []
  | (va, n) :: rs =>
    match s.savedFrom ctx (va / 64 * 64) ((va % 64 + n + 63) / 64), s.savedRanges ctx rs with
    | some a, some b => some (a ++ b)
    | _, _ => none

/-- CR of every group of a context. -/
def State.rounds (s : State) (ctx : Nat) : List (Nat × Word) :=
  match s.ctxAt ctx with
  | some c => c.groups.map fun g => (g.1, g.2.cr)
  | none => []

/-- What the buffers of a checkpoint meet: each must be a capability for a host buffer that may be written, and together they must hold
the data (R399, R407); none where they do. -/
def Manager.buffersFault (m : Manager) (bufs : List Nat) (n : Nat) : Option Nat :=
  match (bufs.map m.cap).findSome? fun c => c.fault true 0 0 1 with
  | some k => some k
  | none => if n ≤ ((bufs.map m.cap).map CapCell.len).foldl (· + ·) 0 then none else some stBounds

/-- The data of a checkpoint fill its buffers one after another (log 40). -/
def State.fillBuffers (s : State) : List CapCell → List Byte → State
  | [], _ => s
  | c :: cs, bs =>
    State.fillBuffers { s with host := { s.host with mem := Sparse.write 0 s.host.mem c.base (bs.take c.len) } } cs (bs.drop c.len)

/-- CHECKPOINT: the ranges of a quiescent context leave as of their last committed round for the host buffers that the command names,
with CR of each group, over the host link, for which the command waits (R394, R407). -/
def execCheckpoint (ctx : Nat) (ranges : SaveList) (s : State) : Host.Outcome State Fault Refusal :=
  .next (if s.quiescent ctx then
    match s.savedRanges ctx ranges.ranges with
    | some r =>
      match s.sm.buffersFault ranges.bufs (64 * r.length) with
      | some k => ({ s with sm := { s.sm with faults := s.sm.faults + 1 } }).status k
      | none => if !s.host.serves then s else ((s.fillBuffers (ranges.bufs.map s.sm.cap) (r.flatMap fun x => x.data)).tell (.checkpoint r (s.rounds ctx))).status stOk
    | none => s.status stRefused
  else s.status stBusy)

/-- The sector of the other half of a PAIRED region at the same place (R408). -/
def State.twin (s : State) (sec : Nat) : Option (Nat × Byte) :=
  match s.regionAt (sec / 64) with
  | some (_, _, p, _) =>
    if p.paired then
      let i := placeIn p.rgn sec
      let k := p.sectorAt (decide (i < p.sectors)) (i % p.sectors)
      some (k, p.key (k / 64))
    else none
  | none => none

/-- Write a saved sector back in base, in both halves of a PAIRED region (R408). -/
def State.restoreSector (s : State) (ctx : Nat) (x : SavedSector) : State :=
  let put := fun (s : State) (k : Nat × Byte) => (s.storeSector k.1 k.2 (x.data.map some) (some x.scales)).inBase k.1
  match s.sectorVa ctx x.addr with
  | some k => match s.twin k.1 with
    | some j => put (put s k) j
    | none => put s k
  | none => s

/-- The groups of a context open at the rounds of a checkpoint, with nothing of an earlier round left (R408). -/
def State.restoreRound (s : State) (ctx : Nat) (x : Nat × Word) : State :=
  ((s.modEntries ctx x.1 fun p =>
      { p with undo := [], bare := [], ucnt := 0, unab := false, undoLogged := false, deferred := [] }).settleGroup ctx x.1 true).clearHolds
    ctx x.1 |>.modGroup ctx x.1 fun g => { newGroup g.cfg with cr := x.2, epoch := g.epoch }

/-- RESTORE: a checkpoint is written into a context in base (R408). -/
def execRestore (ctx : Nat) (sectors : List SavedSector) (rounds : List (Nat × Word)) (s : State) :
    Host.Outcome State Fault Refusal :=
  .next (if s.quiescent ctx then
    let s1 := rounds.foldl (fun s x => (s.entriesOf ctx x.1).foldl (fun s p => s.copyHalf p.2) s) s
    let s2 := sectors.foldl (fun s x => s.restoreSector ctx x) s1
    (rounds.foldl (fun s x => s.restoreRound ctx x) s2).status stOk
  else s.status stBusy)

/-! ### Power (R45, R397, R405, R406) -/

/-- THERMAL_STOP: the module stops (R405). -/
def execThermalStop (s : State) : Host.Outcome State Fault Refusal := .next { s with power := .stopped }

/-- The state of a module without power: only the identity leaf and the firmware image are kept; the host's own memory is not the
module's (R45, R402, R403, R406). -/
def State.unpowered (s : State) : State :=
  { State.reset with agenda := s.agenda, free := s.free, power := .off,
                     host := { State.reset.host with mem := s.host.mem, poison := s.host.poison },
                     fw := { s.fw with incoming := none, leaf := 0 } }

/-- POWER_LOSS: all the module's state is gone (R45, R397). -/
def execPowerLoss (s : State) : Host.Outcome State Fault Refusal := .next s.unpowered

/-- Step 1 of a bring-up fails: the image in the active bank does not verify, or the identity tree has no leaf left (R402, R403). -/
def Firmware.unfit (f : Firmware) : Bool := !f.accepts f.active || decide (2 ^ 20 ≤ f.boots + 1)

/-- BRING_UP: the module starts with its reset values and the next identity leaf, or fails at one of the six steps, of which step 1
verifies the firmware and advances the leaf (R402, R403, R406). -/
def execBringUp (fail : Option Nat) (s : State) : Host.Outcome State Fault Refusal :=
  .next (match if s.fw.unfit then some 1 else fail.filter fun k => decide (1 ≤ k) && decide (k ≤ 6) with
    | some k =>
      { s.unpowered with power := .failed k,
                         fw := { s.fw with incoming := none, leaf := 0, boots := if k = 1 then s.fw.boots else s.fw.boots + 1 } }
    | none => { s.unpowered with power := .ready, fw := { s.fw with incoming := none, leaf := 0, boots := s.fw.boots + 1 } })

end Sys2Proof.Machine
end

