-- ==== Sys2Proof/Machine/VectorFmt.lean ====
section
/-! DEFINITION. The vector instructions of formats and scales, reductions, sorting, online softmax, and predicates (R167 to
R179). -/

namespace Sys2Proof.Machine

open Sys2Proof

/-! ### Conversions (R167, R168) -/

/-- The destination format of VCVT: in the word, or the almanac's output field (R167). -/
def State.cvtFd (s : State) (t : BitVec 3) (fd : BitVec 4) : BitVec 4 :=
  if t = 7 then BitVec.ofNat 4 (almOut s.eng.alment) else fd

/-- The almanac check of VCVT (R167, R69 row 6). -/
def cvtCheck (t p : BitVec 3) (s : State) : Option Trap :=
  if t = 7 then
    let e := s.almNow.2
    let fd := BitVec.ofNat 4 (almOut e)
    if almSmBad e || decide (15 ≤ almOut e) then some (illtype s)
    else if (almSm e).testBit 2 && fmtScaled fd && p != 0 then some (illtype s)
    else none
  else none

/-- The destination sidecar of a conversion whose blocks have the given scales (R99, R168). -/
def sideOf (scales : List Nat) : BitVec 256 :=
  BitVec.ofNat 256 (packNat 8 (scales.take 32 ++ List.replicate (32 - scales.length) 0x7F))

/-- Derive every block of a list of values: the codes, the scales and the flags (R101, R168). -/
def deriveAll (fd : BitVec 4) (modes : List Mode) (vs : List FVal) : List Nat × List Nat × Flags :=
  let bs := List.zipWith (deriveBlock fd) (chunks 32 (vs.length / 32) modes) (chunks 32 (vs.length / 32) vs)
  (bs.flatMap (·.2.1), bs.map (·.1), bs.foldl (fun acc b => acc ||| b.2.2) 0)

/-- VCVT: converts from FS to FD; the elements above the converted ones are zero, whatever the predicate (R167, R168). -/
def execVcvt (cu : Cue) (d a : BitVec 5) (t p : BitVec 3) (fs fd : BitVec 4) (rnd : BitVec 2) (ds : Bool) (s : State) :
    Host.Outcome State Fault Refusal :=
  vecOp (.vcvt cu d a t p fs fd rnd ds) cu 0x34 [] (cvtCheck t p) [a] [d] (fun vs s =>
    let f := s.cvtFd t fd
    let derive := fmtScaled f && (if t = 7 then (almSm s.eng.alment).testBit 2 else ds)
    let n := 4096 / fmtW f
    let e := 4096 / max (fmtW fs) (fmtW f)
    let v := vs.getD 0 VReg.zero
    let vals := (List.range n).map fun i => if i < e then v.val fs i else .fin false 0 0
    let modes := (List.range n).map fun i => modeOf rnd s.seed s.eng.ridx 1 i
    let s1 :=
      if derive then
        let r := deriveAll f modes vals
        (s.putReg d ⟨pack (fmtW f) r.1, sideOf r.2.1⟩).orFlags r.2.2
      else
        s.putUnder d (s.core.live.pred p ||| (BitVec.allOnes 1024 <<< e)) (fmtW f) side7F
          ((List.zip modes vals).zipIdx.map fun x => if x.2 < e then convert f x.1.1 x.1.2 else (0, 0))
    s1.advanceRidx rnd n) s

/-- VWIDEN: result element i goes to register vd + (i mod k), lane i / k (R105, R167). -/
def execVwiden (cu : Cue) (d a : BitVec 5) (p : BitVec 3) (fs fd : BitVec 4) (rnd : BitVec 2) (s : State) :
    Host.Outcome State Fault Refusal :=
  vecOp (.vwiden cu d a p fs fd rnd) cu 0x35 [] (fun _ => none) [a] [] (fun vs s =>
    let k := fmtW fd / fmtW fs
    let n := 4096 / fmtW fs
    let v := vs.getD 0 VReg.zero
    let pred := s.core.live.pred p
    let rs := (List.range n).map fun i => convert fd (modeOf rnd s.seed s.eng.ridx 1 i) (v.val fs i)
    let s1 := (List.range k).foldl (fun s j =>
      let r := d + BitVec.ofNat 5 j
      let old := (s.core.live.vreg r).data
      s.putReg r ⟨pack (fmtW fd) ((List.range (4096 / fmtW fd)).map fun q =>
        if pred.getLsbD (q * k + j) then (rs.getD (q * k + j) (0, 0)).1 else elem (fmtW fd) old q), side7F⟩) s
    (s1.orFlags (enabledFlags pred rs)).advanceRidx rnd n) s

/-- VNARROW: result element i is read from register va + (i mod k), lane i / k (R105, R167, R168). -/
def execVnarrow (cu : Cue) (d a : BitVec 5) (p : BitVec 3) (fs fd : BitVec 4) (rnd : BitVec 2) (ds : Bool) (s : State) :
    Host.Outcome State Fault Refusal :=
  vecOp (.vnarrow cu d a p fs fd rnd ds) cu 0x36 [] (fun _ => none) [] [d] (fun _ s =>
    let k := fmtW fs / fmtW fd
    let n := 4096 / fmtW fd
    let l := s.core.live
    let vals := (List.range n).map fun i => (l.vreg (a + BitVec.ofNat 5 (i % k))).val fs (i / k)
    let modes := (List.range n).map fun i => modeOf rnd s.seed s.eng.ridx 1 i
    let s1 :=
      if ds then
        let r := deriveAll fd modes vals
        (s.putReg d ⟨pack (fmtW fd) r.1, sideOf r.2.1⟩).orFlags r.2.2
      else s.putElems d p (fmtW fd) side7F (List.zipWith (convert fd) modes vals)
    s1.advanceRidx rnd n) s

/-- One sidecar entry under VSCL (R169). -/
def sclEntry (setm : Bool) (v : Word) (old : Nat) : Nat :=
  if setm then v.toNat % 256
  else if old = 255 then 255
  else (max 0 (min 254 ((old : Int) + v.toInt))).toNat

/-- VSCL: adds to or sets the scales that the format uses (R169). -/
def execVscl (cu : Cue) (d a b : BitVec 5) (fmt : BitVec 4) (setm : Bool) (s : State) :
    Host.Outcome State Fault Refusal :=
  vecOp (.vscl cu d a b fmt setm) cu 0x37 [b] (fun _ => none) [a] [d] (fun vs s =>
    let v := vs.getD 0 VReg.zero
    s.putReg d ⟨v.data, sideOf ((elems 8 v.side (fmtScales fmt)).map (sclEntry setm (s.rs b)))⟩) s

/-- VSCLD: moves a sidecar into data bytes, or data bytes into a sidecar (R170). -/
def execVscld (cu : Cue) (d a b : BitVec 5) (setm : Bool) (s : State) : Host.Outcome State Fault Refusal :=
  vecOp (.vscld cu d a b setm) cu 0x38 [] (fun _ => none) (if setm then [a, b] else [a]) [d] (fun vs s =>
    let v := vs.getD 0 VReg.zero
    let u := vs.getD 1 VReg.zero
    s.putReg d (if setm then ⟨v.data, u.data.setWidth 256⟩ else ⟨v.side.setWidth 4096, side7F⟩)) s

/-! ### Reductions (R171, R172, R174) -/

/-- The almanac check of VREDSUM: an integer type needs the rounding field 0 (R69 row 6, R171). -/
def redsumCheck (t : BitVec 3) (rnd : BitVec 2) : State → Option Trap :=
  typeCheck t fun ty => allTypes.contains ty && (ty.isFloat || rnd == 0)

/-- The sum of a list of codes of a type (R171): code, flags, and the free counter after. -/
def sumCodes (o : Bool) (mode : Mode) (ty : VTy) (free : Nat) (cs : List Nat) : Nat × Flags × Nat :=
  match ty.ieee? with
  | some f =>
    if cs.isEmpty then (0, 0, free) else sumForm o mode free (cs.map f.decode)
  | none => (sumInt (cs.map ty.int), 0, free)

/-- VREDSUM: the sum of the enabled elements, ordered or by some tree (R171). -/
def execVredsum (cu : Cue) (d a : BitVec 5) (t p : BitVec 3) (rnd : BitVec 2) (o : Bool) (s : State) :
    Host.Outcome State Fault Refusal :=
  vecOp (.vredsum cu d a t p rnd o) cu 0x39 [] (redsumCheck t rnd) [a] [d] (fun vs s =>
    let ty := s.ty t
    let r := sumCodes o (scalarMode rnd) ty s.free
      (enabled (s.core.live.pred p) (elems ty.w (vs.getD 0 VReg.zero).data ty.count))
    (({ s with free := r.2.2 }).putAll d 32 [r.1]).orFlags r.2.1) s

/-- The extreme of the enabled elements as a 32-bit result (R171). -/
def extremeCode (ff : FVal → FVal → FVal) (fi : Int → Int → Int) (ty : VTy) (cs : List Nat) : Nat :=
  match ty.ieee? with
  | some f => match extreme ff (cs.map f.decode) with
    | some v => (fp32.round .rne v).1
    | none => 0
  | none => match extreme fi (cs.map ty.int) with
    | some v => natOfInt 32 v
    | none => 0

/-- VREDMAX (R171). -/
def execVredmax (cu : Cue) (d a : BitVec 5) (t p : BitVec 3) (s : State) : Host.Outcome State Fault Refusal :=
  vecOp (.vredmax cu d a t p) cu 0x3A [] (typeCheck t fun ty => allTypes.contains ty) [a] [d] (fun vs s =>
    let ty := s.ty t
    s.putAll d 32 [extremeCode FVal.max max ty
      (enabled (s.core.live.pred p) (elems ty.w (vs.getD 0 VReg.zero).data ty.count))]) s

/-- VREDMIN (R171). -/
def execVredmin (cu : Cue) (d a : BitVec 5) (t p : BitVec 3) (s : State) : Host.Outcome State Fault Refusal :=
  vecOp (.vredmin cu d a t p) cu 0x3B [] (typeCheck t fun ty => allTypes.contains ty) [a] [d] (fun vs s =>
    let ty := s.ty t
    s.putAll d 32 [extremeCode FVal.min min ty
      (enabled (s.core.live.pred p) (elems ty.w (vs.getD 0 VReg.zero).data ty.count))]) s

/-- The dot product of one group over its enabled pairs (R172): code, flags, and the free counter after. -/
def dotGroup (fs : BitVec 4) (o : Bool) (mode : Mode) (free : Nat) (ps : List (FVal × FVal)) : Nat × Flags × Nat :=
  let prods := ps.map fun x => roundOp fp32 mode (x.1.mul x.2)
  if 10 ≤ fs.toNat then
    (sumInt (ps.map fun x => match x.1.mul x.2 with
      | (.fin n m _, _) => if n then -(m : Int) else m
      | _ => 0), 0, free)
  else if ps.isEmpty then (0, 0, free)
  else
    let r := sumForm o mode free (prods.map fun x => fp32.decode x.1)
    (r.1, prods.foldl (fun acc x => acc ||| x.2) r.2.1, r.2.2)

/-- VDOT: result element j is the dot product of group j (R172). -/
def execVdot (cu : Cue) (d a b : BitVec 5) (p : BitVec 3) (fs lg : BitVec 4) (rnd : BitVec 2) (o : Bool) (s : State) :
    Host.Outcome State Fault Refusal :=
  vecOp (.vdot cu d a b p fs lg rnd o) cu 0x3C [] (fun _ => none) [a, b] [d] (fun vs s =>
    let e := 4096 / fmtW fs
    let g := 2 ^ lg.toNat
    let x := vs.getD 0 VReg.zero
    let y := vs.getD 1 VReg.zero
    let pred := s.core.live.pred p
    let r := (List.range (e / g)).foldl (fun (acc : List Nat × Flags × Nat) j =>
      let ps := ((List.range g).filter fun k => pred.getLsbD (j * g + k)).map fun k =>
        (x.val fs (j * g + k), y.val fs (j * g + k))
      let q := dotGroup fs o (scalarMode rnd) acc.2.2 ps
      (acc.1 ++ [q.1], acc.2.1 ||| q.2.1, q.2.2)) ([], 0, s.free)
    (({ s with free := r.2.2 }).putAll d 32 r.1).orFlags r.2.1) s

/-! ### Sorting and segments (R173, R174) -/

/-- The rank of a key: keys compare as their ranks do (R173). -/
def sortRank (isF32 uns : Bool) (c : Nat) : Nat :=
  if isF32 then
    if (fp32.decode c).isNan then 2 ^ 33
    else if c.testBit 31 then 2 ^ 31 - 1 - c % 2 ^ 31
    else 2 ^ 31 + c
  else if uns then c
  else Nat.xor c (2 ^ 31)

/-- Insert a ranked pair before the first pair that does not come before it. -/
def insertPair (desc : Bool) (x : Nat × Nat × Nat) : List (Nat × Nat × Nat) → List (Nat × Nat × Nat)
  | [] => [x]
  | y :: ys => if (if desc then decide (x.1 < y.1) else decide (y.1 < x.1)) then y :: insertPair desc x ys else x :: y :: ys

/-- A stable sort of ranked pairs (R173). -/
def sortPairs (desc : Bool) (xs : List (Nat × Nat × Nat)) : List (Nat × Nat × Nat) := xs.foldr (insertPair desc) []

/-- VSORTKV: the enabled pairs sorted, then the disabled ones in input order (R173). -/
def execVsortkv (cu : Cue) (d a b : BitVec 5) (t p : BitVec 3) (desc uns : Bool) (s : State) :
    Host.Outcome State Fault Refusal :=
  vecOp (.vsortkv cu d a b t p desc uns) cu 0x3D [] (fun _ => none) [a, b] [] (fun vs s =>
    let pred := s.core.live.pred p
    let ps := ((List.zip (elems 32 (vs.getD 0 VReg.zero).data 128) (elems 32 (vs.getD 1 VReg.zero).data 128)).map
      fun x => (sortRank (t == 0) uns x.1, x)).zipIdx
    let on := sortPairs desc ((ps.filter fun x => pred.getLsbD x.2).map (·.1))
    let off := (ps.filter fun x => !pred.getLsbD x.2).map (·.1)
    let r := (on ++ off).map (·.2)
    (s.putAll d 32 (r.map (·.1))).putAll (d + 1) 32 (r.map (·.2))) s

/-- Runs of consecutive enabled elements with equal keys: position of the first, and the values (R174). -/
def segments : List ((Nat × Nat) × Nat × Bool) → List (Nat × Nat × List Nat)
  | [] => []
  | ((v, k), i, on) :: rest =>
    if on then
      match segments rest with
      | (i', k', vs) :: more => if i' = i + 1 && k' = k then (i, k, v :: vs) :: more else (i, k, [v]) :: (i', k', vs) :: more
      | [] => [(i, k, [v])]
    else segments rest

/-- VSEGSUM: the sum of each run at its first element, 0 elsewhere (R174). -/
def execVsegsum (cu : Cue) (d a b : BitVec 5) (t p : BitVec 3) (rnd : BitVec 2) (o : Bool) (s : State) :
    Host.Outcome State Fault Refusal :=
  vecOp (.vsegsum cu d a b t p rnd o) cu 0x3E [] (fun _ => none) [a, b] [d] (fun vs s =>
    let ty := VTy.ofTs t
    let pred := s.core.live.pred p
    let xs := (List.zip (elems 32 (vs.getD 0 VReg.zero).data 128) (elems 32 (vs.getD 1 VReg.zero).data 128)).zipIdx.map
      fun x => (x.1, x.2, pred.getLsbD x.2)
    let r := (segments xs).foldl (fun (acc : List Nat × Flags × Nat) g =>
      let q := sumCodes o (scalarMode rnd) ty acc.2.2 g.2.2
      (acc.1.set g.1 q.1, acc.2.1 ||| q.2.1, q.2.2)) (List.replicate 128 0, 0, s.free)
    (({ s with free := r.2.2 }).putAll d 32 r.1).orFlags r.2.1) s

/-! ### Online softmax (R175, R176) -/

/-- The result of one group of SMX_STEP: m, l, c as FP32 codes, the probabilities' codes, and the flags. -/
structure SmxGroup where
  m : Nat
  l : Nat
  c : Nat
  q : List Nat
  flags : Flags
deriving DecidableEq, Repr

/-- One group of SMX_STEP from its running maximum and sum, its scaled scores and their flags (R175). -/
def smxGroup (pf : Ieee) (m l : FVal) (ys : List (Nat × Flags)) : SmxGroup :=
  let yv := ys.map fun y => fp32.decode y.1
  let yf := ys.foldl (fun acc y => acc ||| y.2) 0
  let bad := (m :: yv).any fun v => v.isNan || v == FVal.inf false
  if bad then
    let nan := 0x7FC00000
    ⟨nan, nan, nan, ys.map fun _ => pf.nanCode.getD 0, yf ||| flagNV⟩
  else
    let mn := yv.foldl FVal.max m
    let mc := (fp32.round .rne mn).1
    if mn = .inf true then ⟨mc, (fp32.round .rne l).1, 0x3F800000, ys.map fun _ => 0, yf⟩
    else
      let c := exp2Round fp32 .rne (m.add mn.neg).1
      let qs := yv.map fun y => exp2Round pf .rne (y.add mn.neg).1
      let qf := qs.foldl (fun acc q => acc ||| q.2) 0
      let acc := sumOrdered .rne (.fin false 0 0) 0 (qs.map fun q => pf.decode q.1)
      let lc := roundOp fp32 .rne (l.mul (fp32.decode c.1))
      let ln := roundOp fp32 .rne ((fp32.decode lc.1).add acc.1)
      ⟨mc, ln.1, c.1, qs.map (·.1), yf ||| qf ||| c.2 ||| acc.2 ||| lc.2 ||| ln.2⟩

/-- SMX_STEP: one step of the online softmax over groups of g scores (R175). -/
def execSmxStep (cu : Cue) (d a b : BitVec 5) (p lg : BitVec 3) (init bf : Bool) (s : State) :
    Host.Outcome State Fault Refusal :=
  vecOp (.smxStep cu d a b p lg init bf) cu 0x40 [b] (fun _ => none) [a] [] (fun vs s =>
    let pf := if bf then bf16 else fp32
    let g := 2 ^ lg.toNat
    let pred := s.core.live.pred p
    let old := (s.core.live.vreg d).data
    let x := (vs.getD 0 VReg.zero).data
    let grp := fun j =>
      let m := if init then FVal.inf true else fp32.decode (elem 32 old (4 * j))
      let l := if init then FVal.fin false 0 0 else fp32.decode (elem 32 old (4 * j + 1))
      smxGroup pf m l ((List.range g).map fun k =>
        if pred.getLsbD (j * g + k) then roundOp fp32 .rne ((fp32.decode (elem 32 x (j * g + k))).mul (s.rf b))
        else (0xFF800000, 0))
    let gs := (List.range (128 / g)).map grp
    ((s.putAll d 32 (gs.flatMap fun r => [r.m, r.l, r.c, 0])).putAll (d + 1) (if bf then 16 else 32)
      (gs.flatMap (·.q))).orFlags (gs.foldl (fun acc r => acc ||| r.flags) 0)) s

/-- SMX_FIN: divides by l or scales by c of one group (R176). -/
def execSmxFin (cu : Cue) (d a b : BitVec 5) (p : BitVec 3) (j : BitVec 5) (scl : Bool) (s : State) :
    Host.Outcome State Fault Refusal :=
  vecOp (.smxFin cu d a b p j scl) cu 0x41 [] (fun _ => none) [a, b] [d] (fun vs s =>
    let st := (vs.getD 0 VReg.zero).data
    let l := fp32.decode (elem 32 st (4 * j.toNat + 1))
    let c := fp32.decode (elem 32 st (4 * j.toNat + 2))
    s.putElems d p 32 side7F ((elems 32 (vs.getD 1 VReg.zero).data 128).map fun x =>
      if scl then roundOp fp32 .rne ((fp32.decode x).mul c) else divRound fp32 .rne (fp32.decode x) l)) s

/-! ### Predicates (R177 to R179) -/

/-- The bits below E. -/
def belowMask (e : Nat) : BitVec 1024 := BitVec.ofNat 1024 (2 ^ e - 1)

/-- PLOGIC: a truth table of two predicates under a third (R177). -/
def execPlogic (cu : Cue) (d a b : BitVec 5) (p : BitVec 3) (lut : BitVec 4) (s : State) :
    Host.Outcome State Fault Refusal :=
  plain (.plogic cu d a b p lut) cu 0x42 [] (fun s => s.modLive fun l =>
    l.setPred (d.setWidth 3) (lutWord lut (l.pred (a.setWidth 3)) (l.pred (b.setWidth 3)) &&& l.pred p)) s

/-- PANY: some enabled bit is 1 (R178). -/
def execPany (cu : Cue) (d a : BitVec 5) (t p : BitVec 3) (s : State) : Host.Outcome State Fault Refusal :=
  vecOp (.pany cu d a t p) cu 0x43 [] (typeCheck t fun ty => allTypes.contains ty) [] [] (fun _ s =>
    let l := s.core.live
    s.wc (d.setWidth 2) (l.pred (a.setWidth 3) &&& l.pred p &&& belowMask (s.ty t).count != 0)) s

/-- PALL: every enabled bit is 1 (R178). -/
def execPall (cu : Cue) (d a : BitVec 5) (t p : BitVec 3) (s : State) : Host.Outcome State Fault Refusal :=
  vecOp (.pall cu d a t p) cu 0x44 [] (typeCheck t fun ty => allTypes.contains ty) [] [] (fun _ s =>
    let l := s.core.live
    s.wc (d.setWidth 2) (~~~l.pred (a.setWidth 3) &&& l.pred p &&& belowMask (s.ty t).count == 0)) s

/-- PCNT: the number of enabled bits that are 1 (R178). -/
def execPcnt (cu : Cue) (d a : BitVec 5) (t p : BitVec 3) (s : State) : Host.Outcome State Fault Refusal :=
  vecOp (.pcnt cu d a t p) cu 0x45 [d] (typeCheck t fun ty => allTypes.contains ty) [] [] (fun _ s =>
    let l := s.core.live
    s.ws d (BitVec.ofNat 32 (onesBelow (l.pred (a.setWidth 3) &&& l.pred p).toNat (s.ty t).count))) s

/-- PFIRST: the lowest enabled bit that is 1, or 0xFFFFFFFF (R178). -/
def execPfirst (cu : Cue) (d a : BitVec 5) (t p : BitVec 3) (s : State) : Host.Outcome State Fault Refusal :=
  vecOp (.pfirst cu d a t p) cu 0x46 [d] (typeCheck t fun ty => allTypes.contains ty) [] [] (fun _ s =>
    let l := s.core.live
    let n := zerosFrom (l.pred (a.setWidth 3) &&& l.pred p).toNat 0 (s.ty t).count
    s.ws d (if n < (s.ty t).count then BitVec.ofNat 32 n else 0xFFFFFFFF)) s

/-- PSETN: the first n bits, where enabled (R179). -/
def execPsetn (cu : Cue) (d a : BitVec 5) (t p : BitVec 3) (s : State) : Host.Outcome State Fault Refusal :=
  vecOp (.psetn cu d a t p) cu 0x47 [a] (typeCheck t fun ty => allTypes.contains ty) [] [] (fun _ s =>
    s.modLive fun l =>
      l.setPred (d.setWidth 3) (belowMask (min (s.rs a).toNat (s.ty t).count) &&& l.pred p)) s

end Sys2Proof.Machine
end

