-- ==== Sys2Proof/Machine/Dispatch.lean ====
section
/-! DEFINITION. The meaning of every instruction, one arm per constructor. -/

namespace Sys2Proof.Machine

open Sys2Proof

/-- The meaning of an instruction for the engine that moves, or of an event with the focused core. -/
def exec (i : Instr) (s : State) : Host.Outcome State Fault Refusal :=
  match i with
  | .nop cu => Sys2Proof.Machine.execNop cu s
  | .cue cu n => Sys2Proof.Machine.execCue cu n s
  | .bprep cu k tgt => Sys2Proof.Machine.execBprep cu k tgt s
  | .br cu t c cnd => Sys2Proof.Machine.execBr cu t c cnd s
  | .bl cu t c cnd ls => Sys2Proof.Machine.execBl cu t c cnd ls s
  | .loopImmediate cu lvl cnt len => Sys2Proof.Machine.execLoopImmediate cu lvl cnt len s
  | .loopRegister cu lvl r1 len => Sys2Proof.Machine.execLoopRegister cu lvl r1 len s
  | .loopx cu lvl e r1 len => Sys2Proof.Machine.execLoopx cu lvl e r1 len s
  | .trap cu code => Sys2Proof.Machine.execTrap cu code s
  | .tokw cu np nn => Sys2Proof.Machine.execTokw cu np nn s
  | .toks cu np nn => Sys2Proof.Machine.execToks cu np nn s
  | .brk cu code => Sys2Proof.Machine.execBrk cu code s
  | .csrr cu d num => Sys2Proof.Machine.execCsrr cu d num s
  | .csrw cu d a num => Sys2Proof.Machine.execCsrw cu d a num s
  | .csrs cu d a num => Sys2Proof.Machine.execCsrs cu d a num s
  | .csrc cu d a num => Sys2Proof.Machine.execCsrc cu d a num s
  | .add cu d a b => Sys2Proof.Machine.execAdd cu d a b s
  | .sub cu d a b => Sys2Proof.Machine.execSub cu d a b s
  | .mul cu d a b => Sys2Proof.Machine.execMul cu d a b s
  | .mulh cu d a b => Sys2Proof.Machine.execMulh cu d a b s
  | .mulhn cu d a b => Sys2Proof.Machine.execMulhn cu d a b s
  | .and cu d a b => Sys2Proof.Machine.execAnd cu d a b s
  | .or cu d a b => Sys2Proof.Machine.execOr cu d a b s
  | .xor cu d a b => Sys2Proof.Machine.execXor cu d a b s
  | .andn cu d a b => Sys2Proof.Machine.execAndn cu d a b s
  | .shl cu d a b => Sys2Proof.Machine.execShl cu d a b s
  | .shr cu d a b => Sys2Proof.Machine.execShr cu d a b s
  | .sra cu d a b => Sys2Proof.Machine.execSra cu d a b s
  | .minI cu d a b => Sys2Proof.Machine.execMinI cu d a b s
  | .maxI cu d a b => Sys2Proof.Machine.execMaxI cu d a b s
  | .minN cu d a b => Sys2Proof.Machine.execMinN cu d a b s
  | .maxN cu d a b => Sys2Proof.Machine.execMaxN cu d a b s
  | .cmpEq cu d a b => Sys2Proof.Machine.execCmpEq cu d a b s
  | .cmpNe cu d a b => Sys2Proof.Machine.execCmpNe cu d a b s
  | .cmpLtI cu d a b => Sys2Proof.Machine.execCmpLtI cu d a b s
  | .cmpGeI cu d a b => Sys2Proof.Machine.execCmpGeI cu d a b s
  | .cmpLtN cu d a b => Sys2Proof.Machine.execCmpLtN cu d a b s
  | .cmpGeN cu d a b => Sys2Proof.Machine.execCmpGeN cu d a b s
  | .mov cu d a => Sys2Proof.Machine.execMov cu d a s
  | .popc cu d a => Sys2Proof.Machine.execPopc cu d a s
  | .clz cu d a => Sys2Proof.Machine.execClz cu d a s
  | .ctz cu d a => Sys2Proof.Machine.execCtz cu d a s
  | .sel cu d a b c => Sys2Proof.Machine.execSel cu d a b c s
  | .bext cu d a b => Sys2Proof.Machine.execBext cu d a b s
  | .bins cu d a b => Sys2Proof.Machine.execBins cu d a b s
  | .divI cu d a b => Sys2Proof.Machine.execDivI cu d a b s
  | .divN cu d a b => Sys2Proof.Machine.execDivN cu d a b s
  | .remI cu d a b => Sys2Proof.Machine.execRemI cu d a b s
  | .remN cu d a b => Sys2Proof.Machine.execRemN cu d a b s
  | .addi cu d a imm => Sys2Proof.Machine.execAddi cu d a imm s
  | .shli cu d a n => Sys2Proof.Machine.execShli cu d a n s
  | .shri cu d a n => Sys2Proof.Machine.execShri cu d a n s
  | .srai cu d a n => Sys2Proof.Machine.execSrai cu d a n s
  | .li cu d imm => Sys2Proof.Machine.execLi cu d imm s
  | .ctrRd cu d idx hi fn => Sys2Proof.Machine.execCtrRd cu d idx hi fn s
  | .fadd cu d a b rnd => Sys2Proof.Machine.execFadd cu d a b rnd s
  | .fsub cu d a b rnd => Sys2Proof.Machine.execFsub cu d a b rnd s
  | .fmul cu d a b rnd => Sys2Proof.Machine.execFmul cu d a b rnd s
  | .fmin cu d a b => Sys2Proof.Machine.execFmin cu d a b s
  | .fmax cu d a b => Sys2Proof.Machine.execFmax cu d a b s
  | .fcmpEq cu d a b => Sys2Proof.Machine.execFcmpEq cu d a b s
  | .fcmpLt cu d a b => Sys2Proof.Machine.execFcmpLt cu d a b s
  | .fcmpLe cu d a b => Sys2Proof.Machine.execFcmpLe cu d a b s
  | .fcmpUn cu d a b => Sys2Proof.Machine.execFcmpUn cu d a b s
  | .fsgn cu d a b => Sys2Proof.Machine.execFsgn cu d a b s
  | .fsgnN cu d a b => Sys2Proof.Machine.execFsgnN cu d a b s
  | .fsgnX cu d a b => Sys2Proof.Machine.execFsgnX cu d a b s
  | .fcvtI32F32 cu d a rnd => Sys2Proof.Machine.execFcvtI32F32 cu d a rnd s
  | .fcvtN32F32 cu d a rnd => Sys2Proof.Machine.execFcvtN32F32 cu d a rnd s
  | .fcvtF32I32 cu d a rnd => Sys2Proof.Machine.execFcvtF32I32 cu d a rnd s
  | .fcvtF32N32 cu d a rnd => Sys2Proof.Machine.execFcvtF32N32 cu d a rnd s
  | .fma cu d a b r e => Sys2Proof.Machine.execFma cu d a b r e s
  | .fdiv cu d a b rnd => Sys2Proof.Machine.execFdiv cu d a b rnd s
  | .fsqrt cu d a rnd => Sys2Proof.Machine.execFsqrt cu d a rnd s
  | .fsqrtCk cu d a rnd c => Sys2Proof.Machine.execFsqrtCk cu d a rnd c s
  | .frsq cu d a rnd => Sys2Proof.Machine.execFrsq cu d a rnd s
  | .aadd cu d a b => Sys2Proof.Machine.execAadd cu d a b s
  | .aaddi cu d a imm => Sys2Proof.Machine.execAaddi cu d a imm s
  | .aset cu d a b => Sys2Proof.Machine.execAset cu d a b s
  | .agetLo cu d a => Sys2Proof.Machine.execAgetLo cu d a s
  | .agetHi cu d a => Sys2Proof.Machine.execAgetHi cu d a s
  | .vadd cu d a b t p => Sys2Proof.Machine.execVadd cu d a b t p s
  | .vsub cu d a b t p => Sys2Proof.Machine.execVsub cu d a b t p s
  | .vmul cu d a b t p => Sys2Proof.Machine.execVmul cu d a b t p s
  | .vfma cu d a b t p => Sys2Proof.Machine.execVfma cu d a b t p s
  | .vmin cu d a b t p => Sys2Proof.Machine.execVmin cu d a b t p s
  | .vmax cu d a b t p => Sys2Proof.Machine.execVmax cu d a b t p s
  | .vabs cu d a t p => Sys2Proof.Machine.execVabs cu d a t p s
  | .vneg cu d a t p => Sys2Proof.Machine.execVneg cu d a t p s
  | .vmov cu d a t p => Sys2Proof.Machine.execVmov cu d a t p s
  | .vexp2 cu d a t p => Sys2Proof.Machine.execVexp2 cu d a t p s
  | .vlog2 cu d a t p => Sys2Proof.Machine.execVlog2 cu d a t p s
  | .vrcp cu d a t p => Sys2Proof.Machine.execVrcp cu d a t p s
  | .vrsq cu d a t p => Sys2Proof.Machine.execVrsq cu d a t p s
  | .vsig cu d a t p => Sys2Proof.Machine.execVsig cu d a t p s
  | .vlogic cu d a b t p lut => Sys2Proof.Machine.execVlogic cu d a b t p lut s
  | .vshl cu d a b t p => Sys2Proof.Machine.execVshl cu d a b t p s
  | .vshr cu d a b t p => Sys2Proof.Machine.execVshr cu d a b t p s
  | .vsra cu d a b t p => Sys2Proof.Machine.execVsra cu d a b t p s
  | .vcmp cu d a b t p cond => Sys2Proof.Machine.execVcmp cu d a b t p cond s
  | .vsel cu d a b t p => Sys2Proof.Machine.execVsel cu d a b t p s
  | .vsplat cu d a t p => Sys2Proof.Machine.execVsplat cu d a t p s
  | .vext cu d a t imm r k => Sys2Proof.Machine.execVext cu d a t imm r k s
  | .vins cu d a t imm r k => Sys2Proof.Machine.execVins cu d a t imm r k s
  | .viota cu d a b t p => Sys2Proof.Machine.execViota cu d a b t p s
  | .vperm cu d a b t p => Sys2Proof.Machine.execVperm cu d a b t p s
  | .vshuf cu d a b t p pat => Sys2Proof.Machine.execVshuf cu d a b t p pat s
  | .vslide cu d a b t p imm r k up => Sys2Proof.Machine.execVslide cu d a b t p imm r k up s
  | .vcvt cu d a t p fs fd rnd ds => Sys2Proof.Machine.execVcvt cu d a t p fs fd rnd ds s
  | .vwiden cu d a p fs fd rnd => Sys2Proof.Machine.execVwiden cu d a p fs fd rnd s
  | .vnarrow cu d a p fs fd rnd ds => Sys2Proof.Machine.execVnarrow cu d a p fs fd rnd ds s
  | .vscl cu d a b fmt setm => Sys2Proof.Machine.execVscl cu d a b fmt setm s
  | .vscld cu d a b setm => Sys2Proof.Machine.execVscld cu d a b setm s
  | .vredsum cu d a t p rnd o => Sys2Proof.Machine.execVredsum cu d a t p rnd o s
  | .vredmax cu d a t p => Sys2Proof.Machine.execVredmax cu d a t p s
  | .vredmin cu d a t p => Sys2Proof.Machine.execVredmin cu d a t p s
  | .vdot cu d a b p fs lg rnd o => Sys2Proof.Machine.execVdot cu d a b p fs lg rnd o s
  | .vsortkv cu d a b t p desc uns => Sys2Proof.Machine.execVsortkv cu d a b t p desc uns s
  | .vsegsum cu d a b t p rnd o => Sys2Proof.Machine.execVsegsum cu d a b t p rnd o s
  | .vcmprs cu d a t p => Sys2Proof.Machine.execVcmprs cu d a t p s
  | .smxStep cu d a b p lg init bf => Sys2Proof.Machine.execSmxStep cu d a b p lg init bf s
  | .smxFin cu d a b p j scl => Sys2Proof.Machine.execSmxFin cu d a b p j scl s
  | .plogic cu d a b p lut => Sys2Proof.Machine.execPlogic cu d a b p lut s
  | .pany cu d a t p => Sys2Proof.Machine.execPany cu d a t p s
  | .pall cu d a t p => Sys2Proof.Machine.execPall cu d a t p s
  | .pcnt cu d a t p => Sys2Proof.Machine.execPcnt cu d a t p s
  | .pfirst cu d a t p => Sys2Proof.Machine.execPfirst cu d a t p s
  | .psetn cu d a t p => Sys2Proof.Machine.execPsetn cu d a t p s
  | .spStat cu d a b m0 mc fs fb scl alm => Sys2Proof.Machine.execSpStat cu d a b m0 mc fs fb scl alm s
  | .spPlain cu d m0 mc g => Sys2Proof.Machine.execSpPlain cu d m0 mc g s
  | .mmFeed cu d a b fs as alm w n => Sys2Proof.Machine.execMmFeed cu d a b fs as alm w n s
  | .mmPass cu d a kd w nv row0 f => Sys2Proof.Machine.execMmPass cu d a kd w nv row0 f s
  | .mmTile cu d n => Sys2Proof.Machine.execMmTile cu d n s
  | .mmZero cu d => Sys2Proof.Machine.execMmZero cu d s
  | .mmDrain cu d a b tile fd rnd ds alm row0 nr => Sys2Proof.Machine.execMmDrain cu d a b tile fd rnd ds alm row0 nr s
  | .mmRd cu d a b tile row col imf => Sys2Proof.Machine.execMmRd cu d a b tile row col imf s
  | .ldSp cu q base off => Sys2Proof.Machine.execLdSp cu q base off s
  | .stSp cu base off => Sys2Proof.Machine.execStSp cu base off s
  | .bkAdd cu d a b nb ft len rnd => Sys2Proof.Machine.execBkAdd cu d a b nb ft len rnd s
  | .bkMul cu d a b nb ft len rnd => Sys2Proof.Machine.execBkMul cu d a b nb ft len rnd s
  | .bkFma cu d a b nb ft len rnd => Sys2Proof.Machine.execBkFma cu d a b nb ft len rnd s
  | .bkMax cu d a b nb ft len => Sys2Proof.Machine.execBkMax cu d a b nb ft len s
  | .bkMin cu d a b nb ft len => Sys2Proof.Machine.execBkMin cu d a b nb ft len s
  | .bkScale cu d a nb ft len rnd k => Sys2Proof.Machine.execBkScale cu d a nb ft len rnd k s
  | .bkExpsum cu d a b nb ft len rnd k o => Sys2Proof.Machine.execBkExpsum cu d a b nb ft len rnd k o s
  | .bkRed cu d a nb ft len rnd op acc o => Sys2Proof.Machine.execBkRed cu d a nb ft len rnd op acc o s
  | .bkCvt cu d a nb ft len rnd fs => Sys2Proof.Machine.execBkCvt cu d a nb ft len rnd fs s
  | .bkFill cu d nb ft len k => Sys2Proof.Machine.execBkFill cu d nb ft len k s
  | .bkCopy cu d a len => Sys2Proof.Machine.execBkCopy cu d a len s
  | .curtPrep cu d g => Sys2Proof.Machine.execCurtPrep cu d g s
  | .curtWait cu d st tst g => Sys2Proof.Machine.execCurtWait cu d st tst g s
  | .digRd cu d a wt out w => Sys2Proof.Machine.execDigRd cu d a wt out w s
  | .ld cu q base hint off => Sys2Proof.Machine.execLd cu q base hint off s
  | .lds cu q base hint off => Sys2Proof.Machine.execLds cu q base hint off s
  | .st cu q base off => Sys2Proof.Machine.execSt cu q base off s
  | .sts cu q base f4 off => Sys2Proof.Machine.execSts cu q base f4 off s
  | .gather cu q base hint off idx es sh => Sys2Proof.Machine.execGather cu q base hint off idx es sh s
  | .scatter cu q base off idx es sh o => Sys2Proof.Machine.execScatter cu q base off idx es sh o s
  | .pf cu q base hint off => Sys2Proof.Machine.execPf cu q base hint off s
  | .cpy cu q base off dst len => Sys2Proof.Machine.execCpy cu q base off dst len s
  | .cpy2d cu q base off dst len rows ss ds => Sys2Proof.Machine.execCpy2d cu q base off dst len rows ss ds s
  | .atOp cu q base off v op sc => Sys2Proof.Machine.execAtOp cu q base off v op sc s
  | .cas cu q base off cr n sc => Sys2Proof.Machine.execCas cu q base off cr n sc s
  | .red cu q base off idx op v ix sh sc o => Sys2Proof.Machine.execRed cu q base off idx op v ix sh sc o s
  | .protSet cu d a b grp pb sr ur paired stall => Sys2Proof.Machine.execProtSet cu d a b grp pb sr ur paired stall s
  | .protClr cu d => Sys2Proof.Machine.execProtClr cu d s
  | .fenceAcq cu sc => Sys2Proof.Machine.execFenceAcq cu sc s
  | .fenceRel cu sc => Sys2Proof.Machine.execFenceRel cu sc s
  | .fenceAr cu sc => Sys2Proof.Machine.execFenceAr cu sc s
  | .drain cu => Sys2Proof.Machine.execDrain cu s
  | .ldacq cu sc q base hint off => Sys2Proof.Machine.execLdacq cu sc q base hint off s
  | .strel cu sc q base off => Sys2Proof.Machine.execStrel cu sc q base off s
  | .lqskip cu d n => Sys2Proof.Machine.execLqskip cu d n s
  | .colStart cu d a b n kind op set dg root o => Sys2Proof.Machine.execColStart cu d a b n kind op set dg root o s
  | .colWait cu d a tst => Sys2Proof.Machine.execColWait cu d a tst s
  | .flogOld cu d w => Sys2Proof.Machine.execFlogOld cu d w s
  | .flogStat cu d clr => Sys2Proof.Machine.execFlogStat cu d clr s
  | .flogSeq cu d a w => Sys2Proof.Machine.execFlogSeq cu d a w s
  | .flogPop cu d a => Sys2Proof.Machine.execFlogPop cu d a s
  | .actSpawn cu a => Sys2Proof.Machine.execActSpawn cu a s
  | .actNext cu d a b => Sys2Proof.Machine.execActNext cu d a b s
  | .actYield cu => Sys2Proof.Machine.execActYield cu s
  | .actEnd cu => Sys2Proof.Machine.execActEnd cu s
  | .lnch cu d a => Sys2Proof.Machine.execLnch cu d a s
  | .almW cu a b e ri => Sys2Proof.Machine.execAlmW cu a b e ri s
  | .semSig cu a b sc => Sys2Proof.Machine.execSemSig cu a b sc s
  | .semSigSet cu a b sc => Sys2Proof.Machine.execSemSigSet cu a b sc s
  | .semWait cu a b sc imm imf => Sys2Proof.Machine.execSemWait cu a b sc imm imf s
  | .semRd cu d a sc => Sys2Proof.Machine.execSemRd cu d a sc s
  | .cwait cu a ch => Sys2Proof.Machine.execCwait cu a ch s
  | .illop w x => Sys2Proof.Machine.execIllop w x s
  | .backEdgeDecision e => Sys2Proof.Machine.execBackEdgeDecision e s
  | .instructionComplete e => Sys2Proof.Machine.execInstructionComplete e s
  | .heldOperationLeave e => Sys2Proof.Machine.execHeldOperationLeave e s
  | .hubOperationPerform e => Sys2Proof.Machine.execHubOperationPerform e s
  | .generationAdvance e => Sys2Proof.Machine.execGenerationAdvance e s
  | .semSignalPerform e => Sys2Proof.Machine.execSemSignalPerform e s
  | .semWaitYieldTest e => Sys2Proof.Machine.execSemWaitYieldTest e s
  | .intermissionRequest hard => Sys2Proof.Machine.execIntermissionRequest hard s
  | .priorityWaitExpiry die prio => Sys2Proof.Machine.execPriorityWaitExpiry die prio s
  | .stealRequest thief => Sys2Proof.Machine.execStealRequest thief s
  | .upsetReport back => Sys2Proof.Machine.execUpsetReport back s
  | .bankCommandStart bank => Sys2Proof.Machine.execBankCommandStart bank s
  | .copySectorTransfer ch => Sys2Proof.Machine.execCopySectorTransfer ch s
  | .collectivePerform ctx set peers far => Sys2Proof.Machine.execCollectivePerform ctx set peers far s
  | .digestMessage ctx set pos member digest => Sys2Proof.Machine.execDigestMessage ctx set pos member digest s
  | .tlbMissWalk ctx va => Sys2Proof.Machine.execTlbMissWalk ctx va s
  | .cowResolution ctx va page => Sys2Proof.Machine.execCowResolution ctx va page s
  | .invalidation ctx lo hi => Sys2Proof.Machine.execInvalidation ctx lo hi s
  | .contextCreation ctx ttb fabric routes self store => Sys2Proof.Machine.execContextCreation ctx ttb fabric routes self store s
  | .ringRegistration q ctx cls size base => Sys2Proof.Machine.execRingRegistration q ctx cls size base s
  | .doorbell q tail => Sys2Proof.Machine.execDoorbell q tail s
  | .slotMapping q => Sys2Proof.Machine.execSlotMapping q s
  | .launch src => Sys2Proof.Machine.execLaunch src s
  | .level src => Sys2Proof.Machine.execLevel src s
  | .fence src => Sys2Proof.Machine.execFence src s
  | .cancel src => Sys2Proof.Machine.execCancel src s
  | .cancelComplete src => Sys2Proof.Machine.execCancelComplete src s
  | .startBarrier id gens lost => Sys2Proof.Machine.execStartBarrier id gens lost s
  | .launchCompletion id => Sys2Proof.Machine.execLaunchCompletion id s
  | .codingGroupConfig ctx grp cfg => Sys2Proof.Machine.execCodingGroupConfig ctx grp cfg s
  | .replicaConfig ctx set cfg => Sys2Proof.Machine.execReplicaConfig ctx set cfg s
  | .keyTableWrite idx bound mask keys => Sys2Proof.Machine.execKeyTableWrite idx bound mask keys s
  | .sceneLoad ctx image => Sys2Proof.Machine.execSceneLoad ctx image s
  | .registerWrite reg v => Sys2Proof.Machine.execRegisterWrite reg v s
  | .delta ctx grp member entry sector syms => Sys2Proof.Machine.execDelta ctx grp member entry sector syms s
  | .deltaAck ctx grp member => Sys2Proof.Machine.execDeltaAck ctx grp member s
  | .endOfDeltas ctx grp member => Sys2Proof.Machine.execEndOfDeltas ctx grp member s
  | .staged ctx grp member round => Sys2Proof.Machine.execStaged ctx grp member round s
  | .abort ctx grp msg => Sys2Proof.Machine.execAbort ctx grp msg s
  | .exch ctx grp member round epoch dec => Sys2Proof.Machine.execExch ctx grp member round epoch dec s
  | .applyDone ctx grp => Sys2Proof.Machine.execApplyDone ctx grp s
  | .rollbackDone ctx grp => Sys2Proof.Machine.execRollbackDone ctx grp s
  | .rebuild ctx grp part => Sys2Proof.Machine.execRebuild ctx grp part s
  | .rebuildComplete ctx grp take => Sys2Proof.Machine.execRebuildComplete ctx grp take s
  | .reopen ctx grp => Sys2Proof.Machine.execReopen ctx grp s
  | .lossPoint ctx peer => Sys2Proof.Machine.execLossPoint ctx peer s
  | .peerAccess ctx peer core gens key req => Sys2Proof.Machine.execPeerAccess ctx peer core gens key req s
  | .remoteResponse ans => Sys2Proof.Machine.execRemoteResponse ans s
  | .hostRead off len => Sys2Proof.Machine.execHostRead off len s
  | .hostWrite off bytes => Sys2Proof.Machine.execHostWrite off bytes s
  | .energyAccrual die uj shares => Sys2Proof.Machine.execEnergyAccrual die uj shares s
  | .creditRefill ctx die mj => Sys2Proof.Machine.execCreditRefill ctx die mj s
  | .sceneUnload ctx id => Sys2Proof.Machine.execSceneUnload ctx id s
  | .coreReplacement phys => Sys2Proof.Machine.execCoreReplacement phys s
  | .dirtyLineEviction line bad => Sys2Proof.Machine.execDirtyLineEviction line bad s
  | .scrubRead sector symbols => Sys2Proof.Machine.execScrubRead sector symbols s
  | .forcedRefresh stack pc => Sys2Proof.Machine.execForcedRefresh stack pc s
  | .refresh stack pc => Sys2Proof.Machine.execRefresh stack pc s
  | .requestPromotion stack pc => Sys2Proof.Machine.execRequestPromotion stack pc s
  | .slotIdleExpiry q => Sys2Proof.Machine.execSlotIdleExpiry q s
  | .countingWindowEnd stack => Sys2Proof.Machine.execCountingWindowEnd stack s
  | .laneFailure link => Sys2Proof.Machine.execLaneFailure link s
  | .linkIdleTimeout link => Sys2Proof.Machine.execLinkIdleTimeout link s
  | .peerLossNotice ctx peer => Sys2Proof.Machine.execPeerLossNotice ctx peer s
  | .admtail v => Sys2Proof.Machine.execAdmtail v s
  | .admbase v => Sys2Proof.Machine.execAdmbase v s
  | .linkWidthChange width => Sys2Proof.Machine.execLinkWidthChange width s
  | .backInvalidateResponse line => Sys2Proof.Machine.execBackInvalidateResponse line s
  | .biasFlip page device => Sys2Proof.Machine.execBiasFlip page device s
  | .understudyNaming ctx grp us => Sys2Proof.Machine.execUnderstudyNaming ctx grp us s
  | .priorityClassWrite cls min => Sys2Proof.Machine.execPriorityClassWrite cls min s
  | .contextEnd ctx => Sys2Proof.Machine.execContextEnd ctx s
  | .firmwareLoad version image sig => Sys2Proof.Machine.execFirmwareLoad version image sig s
  | .attestationRequest nonce => Sys2Proof.Machine.execAttestationRequest nonce s
  | .checkpoint ctx ranges => Sys2Proof.Machine.execCheckpoint ctx ranges s
  | .restore ctx sectors rounds => Sys2Proof.Machine.execRestore ctx sectors rounds s
  | .energyBudgetWrite watts => Sys2Proof.Machine.execEnergyBudgetWrite watts s
  | .bringUp fail => Sys2Proof.Machine.execBringUp fail s
  | .hostKeyWindowWrite win key en => Sys2Proof.Machine.execHostKeyWindowWrite win key en s
  | .slotWaitExpiry q => Sys2Proof.Machine.execSlotWaitExpiry q s
  | .linkLevelRetry link => Sys2Proof.Machine.execLinkLevelRetry link s
  | .cartenRetrainDone link => Sys2Proof.Machine.execCartenRetrainDone link s
  | .cuePointPass => Sys2Proof.Machine.execCuePointPass s
  | .actPlacement => Sys2Proof.Machine.execActPlacement s
  | .actEndRendezvous => Sys2Proof.Machine.execActEndRendezvous s
  | .actYieldRendezvous => Sys2Proof.Machine.execActYieldRendezvous s
  | .fullImageSuspension => Sys2Proof.Machine.execFullImageSuspension s
  | .regionExpiry => Sys2Proof.Machine.execRegionExpiry s
  | .stealRestExpiry => Sys2Proof.Machine.execStealRestExpiry s
  | .slowResultDelivery => Sys2Proof.Machine.execSlowResultDelivery s
  | .deadlock => Sys2Proof.Machine.execDeadlock s
  | .globalWritePerform => Sys2Proof.Machine.execGlobalWritePerform s
  | .globalLoadPerform => Sys2Proof.Machine.execGlobalLoadPerform s
  | .atomicPerform => Sys2Proof.Machine.execAtomicPerform s
  | .reductionPerform => Sys2Proof.Machine.execReductionPerform s
  | .brkResume => Sys2Proof.Machine.execBrkResume s
  | .hrel => Sys2Proof.Machine.execHrel s
  | .hostReleaseComplete => Sys2Proof.Machine.execHostReleaseComplete s
  | .hostLinkLoss => Sys2Proof.Machine.execHostLinkLoss s
  | .handoverSwitch => Sys2Proof.Machine.execHandoverSwitch s
  | .thermalStop => Sys2Proof.Machine.execThermalStop s
  | .powerLoss => Sys2Proof.Machine.execPowerLoss s
  | .hostLinkDown => Sys2Proof.Machine.execHostLinkDown s
  | .hostLinkUp => Sys2Proof.Machine.execHostLinkUp s
  | .hostRetrainDone => Sys2Proof.Machine.execHostRetrainDone s
  | .correctedSramError => Sys2Proof.Machine.execCorrectedSramError s

end Sys2Proof.Machine
end

