-- ==== Sys2Proof/Machine/Uncore.lean ====
section
/-! DEFINITION. What the uncore does in its turn: the first event of the module's own that has something to do; and which
moves of the agenda can happen without power (R397, R405, R406). -/

namespace Sys2Proof.Machine

open Sys2Proof

/-- The events of the focused core that depend on nothing outside it, in the order in which the uncore tries them. -/
def coreEvents : List Instr :=
  engines.map (fun e => .instructionComplete e) ++ engines.map (fun e => .heldOperationLeave e) ++
    [.globalWritePerform, .globalLoadPerform, .atomicPerform, .reductionPerform] ++
    engines.map (fun e => .hubOperationPerform e) ++ engines.map (fun e => .semSignalPerform e) ++
    (List.range 64).map (fun n => .bankCommandStart n) ++ (List.range 8).map (fun n => .copySectorTransfer n) ++
    engines.map (fun e => .generationAdvance e) ++
    [.cuePointPass, .actEndRendezvous, .actYieldRendezvous, .fullImageSuspension]

/-- The events of the contexts of the module: losses to record, ends of apply and of roll-back, and collectives of one member. -/
def Ctx.events (n : Nat) (c : Ctx) : List Instr :=
  c.lossDue.map (fun p => .lossPoint n p) ++
    c.groups.flatMap (fun g => match g.2.st with
      | .commit => [.applyDone n g.1]
      | .rollback => [.rollbackDone n g.1]
      | _ => []) ++
    (c.reps.filter fun r => r.2.cfg.k == 1).map fun r => .collectivePerform n r.1 [] ⟨[], none, []⟩

/-- The events of the launches of the module (R313 to R316, R312). -/
def State.launchEvents (s : State) : List Instr :=
  s.rings.map (fun r => .slotMapping r.1) ++
    s.sources.flatMap (fun src => [.launch src, .level src, .fence src, .cancel src, .cancelComplete src]) ++
    s.launches.map fun l => .launchCompletion l.id

/-- Every event that the uncore tries in its turn. -/
def State.candidates (s : State) : List Instr :=
  coreEvents ++ s.ctxs.flatMap (fun c => c.2.events c.1) ++ s.launchEvents ++
    [.hostReleaseComplete, .actPlacement] ++ engines.map (fun e => .semWaitYieldTest e) ++ [.deadlock]

/-- An event has something to do: it changes the state. -/
def State.changes (s : State) (i : Instr) : Bool :=
  match exec i s with
  | .next t => decide (t ≠ s)
  | _ => true

/-- The event that happens next when the agenda is empty and the uncore has its turn. -/
def State.nextEvent (s : State) : Option Instr := s.candidates.find? fun i => s.changes i

/-- An event can happen in a module that is not ready: a bring-up, the loss of power, or a read of BAR0, which shows STATE (R392, R397,
R406). -/
def Instr.powers (i : Instr) : Bool :=
  match i with
  | .bringUp _ => true
  | .powerLoss => true
  | .hostRead (.bar0 _) _ => true
  | _ => false

/-- The module is ready, or the event is one that can happen without it; without power nothing answers a read. -/
def State.powered (s : State) (i : Instr) : Bool :=
  s.power == .ready || Instr.powers i && (s.power != .off || (match i with
    | .hostRead _ _ => false
    | _ => true))

/-- An event is a command that the stage manager parses and completes with a status (R398 to R400). -/
def Instr.parsed (i : Instr) : Bool :=
  match i with
  | .contextCreation _ _ _ _ _ _ | .contextEnd _ | .ringRegistration _ _ _ _ _ | .priorityClassWrite _ _ | .invalidation _ _ _
  | .codingGroupConfig _ _ _ | .replicaConfig _ _ _ | .understudyNaming _ _ _ | .reopen _ _ | .rebuildComplete _ _ _
  | .keyTableWrite _ _ _ _ | .hostKeyWindowWrite _ _ _ | .biasFlip _ _ | .sceneLoad _ _ | .sceneUnload _ _
  | .coreReplacement _ | .firmwareLoad _ _ _ | .attestationRequest _ | .checkpoint _ _ | .restore _ _ _ => true
  | _ => false

/-- The command being parsed is refused for a capability fault: its status is given, and nothing else of it happens (R399). -/
def State.refuseParsed (s : State) (code : Nat) : State := ({ s with sm := { s.sm with refused := none } }).status code

end Sys2Proof.Machine
end

