-- ==== Sys2Proof/Machine/Step.lean ====
section
/-! DEFINITION. One step of the module: the next move of the agenda, or the turn of an engine or of the uncore of the
focused core; and the placing of an instruction where the next step fetches it. -/

namespace Sys2Proof.Machine

open Sys2Proof

/-- Do g after an outcome that is a next state. -/
def andThen (r : Host.Outcome State Fault Refusal) (g : State → Host.Outcome State Fault Refusal) :
    Host.Outcome State Fault Refusal :=
  match r with
  | .next s => g s
  | .fault f => .fault f
  | .refused f => .refused f

/-- Make the back-edge decision of engine e if one is due (R141). -/
def decideOf (e : Engine) (s : State) : Host.Outcome State Fault Refusal :=
  match (s.core.live.eng e).backEdge with
  | some _ => exec (.backEdgeDecision e) s
  | none => .next s

/-- Make every back-edge decision that is due in the focused core (R141). -/
def decisions (s : State) : Host.Outcome State Fault Refusal :=
  andThen (decideOf .a s) fun s => andThen (decideOf .x s) fun s => andThen (decideOf .m s) fun s => decideOf .b s

/-- Engine e of the focused core takes its next step: pushes that wait are retried, and where the engine may issue it tries
the instruction at its program counter. -/
def runEngine (e : Engine) (s : State) : Host.Outcome State Fault Refusal :=
  let s1 := ({ s with cur := e }).modLive fun l => l.settle e
  if s1.power = .ready ∧ s1.canIssue e = true then andThen (exec s1.eng.fetched s1.snapshot) decisions else .next s1

/-- An event happens with the focused core, if the module's power admits it; a command of the stage manager, unless a capability fault
has refused it (R399). -/
def runEvent (i : Instr) (s : State) : Host.Outcome State Fault Refusal :=
  if s.powered i then
    match if Instr.parsed i then s.sm.refused else none with
    | some k => .next (s.refuseParsed k)
    | none => andThen (exec i s.snapshot) decisions
  else .next s

/-- The turn after this one. -/
def Turn.after (t : Turn) : Turn :=
  match t with
  | .eng .a => .eng .x
  | .eng .x => .eng .m
  | .eng .m => .eng .b
  | .eng .b => .uncore
  | .uncore => .eng .a

/-- One step. -/
def step (s : State) : Host.Outcome State Fault Refusal :=
  match s.agenda with
  | .run c e :: rest => runEngine e (({ s with agenda := rest }).focus c)
  | .event c i :: rest => runEvent i (({ s with agenda := rest }).focus c)
  | [] =>
    match s.power with
    | .ready =>
      match s.turn with
      | .eng e => runEngine e { s with turn := Turn.after (.eng e) }
      | .uncore =>
        match s.nextEvent with
        | some i => runEvent i { s with turn := Turn.after .uncore }
        | none => .next { s with turn := Turn.after .uncore }
    | _ => .fault .moduleStopped

/-- s with an instruction's words stored where the next step fetches (R4, R47): the first word is the low 32 bits of w. -/
def State.withFetchWord (s : State) (nbits w : Nat) : State :=
  s.placeWords (BitVec.ofNat 32 (w % 2 ^ nbits)) (BitVec.ofNat 32 (w % 2 ^ nbits / 2 ^ 32))

end Sys2Proof.Machine
end

