-- ==== Sys2Proof/Safety.lean ====
section
/-! DEFINITION. The terms of the statements: when an instruction can start, the state as it starts and after it has issued,
the canonical form of memory, and when a step goes on. -/

namespace Sys2Proof.Safety

open Sys2Proof Sys2Proof.Machine

/-- A step answers a next state. -/
def goesOn (s : State) : Prop := ∃ t, step s = .next t

/-- The moving engine can start an instruction (R64, R110, R201, R288): it has started none, opcode op is legal in it, the
tokens of the cue nibble and np and nn more are present, and no scalar register of `uses` waits for a held result. -/
abbrev Ready (s : State) (op : BitVec 7) (cu : Cue) (np nn : Nat) (uses : List (BitVec 5)) : Prop :=
  s.eng.started = false ∧ opLegal op s.cur = true ∧
    np + b2n cu.wp ≤ s.core.live.tokens (fromPrevIdx s.cur) ∧
    nn + b2n cu.wn ≤ s.core.live.tokens (fromNextIdx s.cur) ∧
    ∀ r ∈ s.core.live.pendReg, r.1 = s.cur → r.2 ∉ uses

/-- The state as an instruction with cue nibble cu finds it: its tokens are popped and X has counted it (R125, R288). -/
def opened (s : State) (cu : Cue) : State := s.begun (b2n cu.wp) (b2n cu.wn) false

/-- The state after an instruction of len words with cue nibble cu has issued and completed (R141, R289). -/
def closed (s : State) (len : Nat) (cu : Cue) : State := s.passed len (b2n cu.sp) (b2n cu.sn) true none

/-- The state after such an instruction has issued and completes later (R289). -/
def issued (s : State) (len : Nat) (cu : Cue) : State := s.passed len (b2n cu.sp) (b2n cu.sn) false none

/-- An instruction with vector operands can run (R149, R295): it can start; its sources `srcs` are registers or filled entries at
the heads of their load queues, with no marks and with the values vs; every destination of `dsts` that is a store queue has
room; and u is the state once its tokens and its queue entries are taken. -/
abbrev VecReady (s : State) (op : BitVec 7) (cu : Cue) (uses : List (BitVec 5)) (srcs dsts : List (BitVec 5))
    (vs : List VReg) (u : State) : Prop :=
  Ready s op cu 0 0 uses ∧ (opened s cu).core.live.vecWait srcs dsts = none ∧
    (opened s cu).core.live.takeAll srcs = (vs, none, u.core.live) ∧ u = (opened s cu).setLive u.core.live

/-- Where it can run, instruction i of len words completes with effect f of its source values. -/
def RunsVec (s : State) (i : Instr) (op : BitVec 7) (cu : Cue) (len : Nat) (uses : List (BitVec 5))
    (srcs dsts : List (BitVec 5)) (f : List VReg → State → State) : Prop :=
  ∀ (vs : List VReg) (u : State), VecReady s op cu uses srcs dsts vs u → exec i s = .next (closed (f vs u) len cu)

/-- Type selector t gives type ty to an instruction whose legal types are tys (R55, R106): by itself, or as the output field of
the almanac entry that the engine's latched level selects, whose reserved scale-mode bits are zero. -/
abbrev Typed (s : State) (t : BitVec 3) (tys : List VTy) (ty : VTy) : Prop :=
  ty ∈ tys ∧ ((t ≠ 7 ∧ VTy.ofTs t = ty) ∨ (t = 7 ∧ almSm s.almNow.2 < 8 ∧ VTy.ofFmt (almOut s.almNow.2) = some ty))

/-- The elements of source k in type ty (R146). -/
def elemsOf (ty : VTy) (vs : List VReg) (k : Nat) : List Nat := elems ty.w (vs.getD k VReg.zero).data ty.count

/-- Vector v of the row buffer holds the values f on the grid of width w (R102): a block with a NaN or an infinity is bad; the
others take the exponent of their largest value, and every integer is rounded to nearest even and clamped symmetrically. -/
def Aligned (w : Nat) (f : Nat → FVal) (v : AVec) : Prop :=
  v.w = w ∧ v.a.length = 256 ∧ ∀ kb, kb < 8 →
    let ea := v.ea.getD kb 0
    (v.bad.getD kb true = true ↔ ∃ k, k < 32 ∧ (f (32 * kb + k)).special = true) ∧
    (v.bad.getD kb true = true ∨ (∀ k, k < 32 → (f (32 * kb + k)).top? = none) →
      ea = 0 ∧ ∀ k, k < 32 → v.a.getD (32 * kb + k) 0 = 0) ∧
    (v.bad.getD kb true = false → ∀ (j : Nat) (x : Int), j < 32 → (f (32 * kb + j)).top? = some x →
      (∀ k y, k < 32 → (f (32 * kb + k)).top? = some y → y ≤ x) →
      ea = x - ((w : Int) - 2) ∧ ∀ k neg m e, k < 32 → f (32 * kb + k) = .fin neg m e →
        let n : Int := (roundInt .rne m (e - ea)).1
        v.a.getD (32 * kb + k) 0 = max (-(2 ^ (w - 1) - 1)) (min (2 ^ (w - 1) - 1) (if neg then -n else n)))

/-- The inner sum of block kb of a vector with column n of macro m and its exponent; none for a bad block (R102, R103, R205). -/
def innerSum (l : Live) (fmt : BFmt) (v : AVec) (m kb n : Nat) : Option (Int × Int) :=
  let cols := match fmt with
    | .mxi8 => 256
    | .mxi4 => 512
  let w := match fmt with
    | .mxi8 => 8
    | .mxi4 => 4
  let sc := (l.scales.get (4096 * m + kb * cols + n)).toNat
  if v.bad.getD kb true = true ∨ sc = 255 then none
  else some (((List.range 32).map fun k => v.a.getD (32 * kb + k) 0 *
        signedOf w (l.scratch.elem w (65536 * m) (cols * (32 * kb + k) + n))).foldl (· + ·) 0,
      v.ea.getD kb 0 + sc - 127 - (match fmt with
        | .mxi8 => 6
        | .mxi4 => 2))

/-- The checks of a global access pass with pieces ps, and u is s with their translations in the TLBs (R241, R341). -/
def Passes (s : State) (ck : Checked) (ps : List Piece) (u : State) : Prop :=
  ∃ ts, ck = .ok ps ts ∧ u = ts.foldl (fun s t => s.fillTlb s.core.num t) s

/-- The bytes of a piece lie at this module's home and nothing stands between them and the focused core: no snoop, no waiting
write, no poison, no region, no conflicting hold, and the key material that wrote them (R240, R253, R256, R260, R270, R345, R357). -/
abbrev AtHand (s : State) (p : Piece) : Prop :=
  s.route s.ctxId p.pa = .here ∧ s.needSnoop (snoopCore s.core.num) (paOff p.pa) p.len = [] ∧ s.waitingOn (paOff p.pa) p.len = false ∧
    (∀ k ∈ sectorsOf (paOff p.pa) p.len, k ∉ s.poison ∧ s.deferredAt k = none ∧ s.regionAt (k / 64) = none ∧
      ∀ c m, assoc s.secKey k = some (c, m) → m = s.material p.key) ∧
    ∀ g ∈ granules (paOff p.pa) p.len, ∀ h, assoc s.holds g = some h → s.conflicts s.me h = false

/-- Byte a of stacked memory. -/
abbrev memAt (s : State) (a : Nat) : Byte := Sparse.get 0 s.mem a

end Sys2Proof.Safety
end

