-- ==== Sys2Proof/Certificates/Slice0/Obligations.lean ====
section
/-! DEFINITION. The statements for the provers: encoding, the step, each family of instructions with its completion and its
frame, exceptions, events, and the invariants. -/

open Sys2Proof Sys2Proof.Machine Sys2Proof.Safety

/-! ### Scalar registers and the issue of an instruction -/

/-- R111: s0 reads zero and a write to it is discarded; any other register reads what was last written to it. -/
def Obligations.ScalarRegisterFile : Prop :=
  ∀ (x : EngState) (n m : BitVec 5) (v : Word),
    x.sreg 0 = 0 ∧ x.setS 0 v = x ∧
      (n ≠ 0 → (x.setS n v).sreg n = v) ∧ (m ≠ n → (x.setS n v).sreg m = x.sreg m)

/-- The start of an instruction (R15, R125, R288): it pops its tokens and changes no register of A, M and B; in X it delivers
the slow results that are due, and no others. Everything outside the core stays. -/
def Obligations.StartEffect : Prop :=
  ∀ (s : State) (np nn : Nat) (e : Engine),
    let t := s.begun np nn false
    (t.core.live.tokens (fromPrevIdx s.cur) = s.core.live.tokens (fromPrevIdx s.cur) - np ∧
      t.core.live.tokens (fromNextIdx s.cur) = s.core.live.tokens (fromNextIdx s.cur) - nn ∧
      (∀ i, i ≠ fromPrevIdx s.cur → i ≠ fromNextIdx s.cur → t.core.live.tokens i = s.core.live.tokens i)) ∧
    (t.eng.started = true ∧ t.eng.issued = s.eng.issued + 1 ∧ t.eng.pc = s.eng.pc ∧ t.eng.slots = s.eng.slots) ∧
    ((e ≠ .x ∨ s.cur ≠ .x ∨ ∀ r ∈ s.core.live.slow, 1 < r.left) →
      (t.core.live.eng e).s = (s.core.live.eng e).s ∧ (t.core.live.eng e).c = (s.core.live.eng e).c) ∧
    ((t.core.live.eng e).bt = (s.core.live.eng e).bt ∧ (t.core.live.eng e).lc = (s.core.live.eng e).lc ∧
      (t.core.live.eng e).tvec = (s.core.live.eng e).tvec ∧ (t.core.live.eng e).ridx = (s.core.live.eng e).ridx ∧
      (t.core.live.eng e).cause = (s.core.live.eng e).cause ∧ (t.core.live.eng e).epc = (s.core.live.eng e).epc) ∧
    (t.core.live.a = s.core.live.a ∧ t.core.live.v = s.core.live.v ∧ t.core.live.p = s.core.live.p ∧
      t.core.live.lq = s.core.live.lq ∧ t.core.live.sq = s.core.live.sq ∧ t.core.live.tiles = s.core.live.tiles ∧
      t.core.live.accst = s.core.live.accst ∧ t.core.live.scratch = s.core.live.scratch ∧ t.core.live.alm = s.core.live.alm ∧
      t.core.live.lerr = s.core.live.lerr) ∧
    t = { s with core := { s.core with live := t.core.live } }

/-- An instruction of X that starts delivers the slow results whose count is reached, in their order of issue, so that the last
of one register or flag stands, and counts one for every other (R125, R127). That the delivery is made as the 14th counted
instruction STARTS, and that a delivered register is awaited from no held operation any more, are the model's choices (log 11). -/
def Obligations.SlowResultDeliveryPoint : Prop :=
  ∀ (s : State) (np nn : Nat), s.cur = .x →
    let t := s.begun np nn false
    let rs := s.core.live.slow
    let due := rs.filter fun r => decide (r.left ≤ 1)
    (∀ r, rs = [r] →
      (1 < r.left → t.core.live.slow = [{ r with left := r.left - 1 }] ∧ ∀ n, t.rs n = s.rs n) ∧
      (r.left ≤ 1 → t.core.live.slow = [] ∧ t.core.live.fpflags = s.core.live.fpflags ||| r.flags ∧
        (r.dst ≠ 0 → t.rs r.dst = r.val) ∧ (∀ n, n ≠ r.dst → t.rs n = s.rs n) ∧
        (∀ c v, r.cflag = some (c, v) → t.rc c = v) ∧ (r.cflag = none → ∀ c, t.rc c = s.rc c))) ∧
    t.core.live.slow = (rs.filter fun r => decide (1 < r.left)).map (fun r => { r with left := r.left - 1 }) ∧
    t.core.live.fpflags = due.foldl (fun f r => f ||| r.flags) s.core.live.fpflags ∧
    (∀ n, n ≠ 0 → t.rs n = ((due.reverse.find? fun r => decide (r.dst = n)).map (·.val)).getD (s.rs n)) ∧
    (∀ c, t.rc c = ((due.reverse.filterMap (·.cflag)).find? fun x => decide (x.1 = c)).elim (s.rc c) (·.2)) ∧
    ∀ e n, (e, n) ∈ t.core.live.pendReg ↔ (e, n) ∈ s.core.live.pendReg ∧ ¬(e = .x ∧ ∃ r ∈ due, r.dst = n)

/-- The issue of an instruction of len words (R136, R141, R289): the program counter passes it, a delay slot is used up, the
decision of its end word is due, and no register, flag, queue, memory or state of another engine changes. -/
def Obligations.IssueEffect : Prop :=
  ∀ (s : State) (len sp sn : Nat) (isDone : Bool) (next : Option Nat) (e : Engine),
    let t := s.passed len sp sn isDone next
    (t.eng.pc = next.getD (s.eng.pc + len) ∧ t.eng.slots = s.eng.slots - 1 ∧ t.eng.started = false ∧
      t.eng.backEdge = some (s.eng.pc + len - 1)) ∧
    ((t.core.live.eng e).s = (s.core.live.eng e).s ∧ (t.core.live.eng e).c = (s.core.live.eng e).c ∧
      (t.core.live.eng e).bt = (s.core.live.eng e).bt ∧ (t.core.live.eng e).lc = (s.core.live.eng e).lc ∧
      (t.core.live.eng e).cause = (s.core.live.eng e).cause ∧ (t.core.live.eng e).epc = (s.core.live.eng e).epc ∧
      (t.core.live.eng e).tvec = (s.core.live.eng e).tvec ∧ (t.core.live.eng e).ridx = (s.core.live.eng e).ridx ∧
      (e ≠ s.cur → t.core.live.eng e = s.core.live.eng e)) ∧
    (∀ i, i ≠ toPrevIdx s.cur → i ≠ toNextIdx s.cur → t.core.live.tokens i = s.core.live.tokens i) ∧
    t = { s with core := { s.core with live := { s.core.live with
            ea := t.core.live.ea, ex := t.core.live.ex, em := t.core.live.em, eb := t.core.live.eb,
            tok := t.core.live.tok, told := t.core.live.told, seq := s.core.live.seq + 1 } } }

/-- The integer group (R115): each instruction completes with its result; a register shift of 32 or more leaves only zeros or copies of the sign; a comparison
names c0 to c3. -/
def Obligations.IntegerGroup : Prop :=
  (∀ (s : State) (cu : Cue) (d a b : BitVec 5),
     (Ready s 0x10 cu 0 0 [d, a, b] →
       let u := opened s cu
       let x := u.rs a
       let y := u.rs b
       let gives := fun (i : Instr) (v : Word) => exec i s = .next (closed (u.ws d v) 1 cu)
       gives (.add cu d a b) (x + y) ∧ gives (.sub cu d a b) (x - y) ∧ gives (.mul cu d a b) (x * y) ∧
       gives (.mulh cu d a b) ((x.signExtend 64 * y.signExtend 64).extractLsb' 32 32) ∧
       gives (.mulhn cu d a b) ((x.setWidth 64 * y.setWidth 64).extractLsb' 32 32) ∧
       gives (.and cu d a b) (x &&& y) ∧ gives (.or cu d a b) (x ||| y) ∧ gives (.xor cu d a b) (x ^^^ y) ∧
       gives (.andn cu d a b) (x &&& ~~~y) ∧
       gives (.minI cu d a b) (if x.sle y then x else y) ∧ gives (.maxI cu d a b) (if y.sle x then x else y) ∧
       gives (.minN cu d a b) (if x ≤ y then x else y) ∧ gives (.maxN cu d a b) (if y ≤ x then x else y)) ∧
     (Ready s 0x10 cu 0 0 [a, b] →
       let u := opened s cu
       let x := u.rs a
       let y := u.rs b
       let sets := fun (i : Instr) (v : Bool) => exec i s = .next (closed (u.wc (d.setWidth 2) v) 1 cu)
       sets (.cmpEq cu d a b) (x == y) ∧ sets (.cmpNe cu d a b) (x != y) ∧
       sets (.cmpLtI cu d a b) (x.slt y) ∧ sets (.cmpGeI cu d a b) (y.sle x) ∧
       sets (.cmpLtN cu d a b) (x.ult y) ∧ sets (.cmpGeN cu d a b) (y.ule x)) ∧
     (4 ≤ d.toNat → ∀ i ∈ [Instr.cmpEq cu d a b, .cmpNe cu d a b, .cmpLtI cu d a b, .cmpGeI cu d a b, .cmpLtN cu d a b,
       .cmpGeN cu d a b], WellFormed i = false)) ∧
  (∀ (s : State) (cu : Cue) (d a b : BitVec 5) (n : BitVec 5),
     (Ready s 0x10 cu 0 0 [d, a, b] →
       let u := opened s cu
       let k := (u.rs b).toNat
       exec (.shl cu d a b) s = .next (closed (u.ws d (u.rs a <<< k)) 1 cu) ∧
       exec (.shr cu d a b) s = .next (closed (u.ws d (u.rs a >>> k)) 1 cu) ∧
       exec (.sra cu d a b) s = .next (closed (u.ws d ((u.rs a).sshiftRight k)) 1 cu)) ∧
     (Ready s 0x15 cu 0 0 [d, a] →
       let u := opened s cu
       exec (.shli cu d a n) s = .next (closed (u.ws d (u.rs a <<< n.toNat)) 1 cu) ∧
       exec (.shri cu d a n) s = .next (closed (u.ws d (u.rs a >>> n.toNat)) 1 cu) ∧
       exec (.srai cu d a n) s = .next (closed (u.ws d ((u.rs a).sshiftRight n.toNat)) 1 cu)))

/-- The bit group of R116, with its counts by the bits they count and its fields by their masks, and `addi` and `li` of R117. -/
def Obligations.BitGroupAndImmediates : Prop :=
  ∀ (s : State) (cu : Cue) (d a b : BitVec 5) (c : BitVec 2) (imm : BitVec 11) (w : Word),
    (Ready s 0x11 cu 0 0 [d, a] →
      let u := opened s cu
      let x := u.rs a
      exec (.mov cu d a) s = .next (closed (u.ws d x) 1 cu) ∧
      (∃ n : Nat, exec (.popc cu d a) s = .next (closed (u.ws d (BitVec.ofNat 32 n)) 1 cu) ∧
        n = ((List.range 32).filter fun i => x.getLsbD i).length) ∧
      (∃ n : Nat, exec (.clz cu d a) s = .next (closed (u.ws d (BitVec.ofNat 32 n)) 1 cu) ∧ n ≤ 32 ∧
        (∀ i, i < n → x.getLsbD (31 - i) = false) ∧ (n < 32 → x.getLsbD (31 - n) = true)) ∧
      (∃ n : Nat, exec (.ctz cu d a) s = .next (closed (u.ws d (BitVec.ofNat 32 n)) 1 cu) ∧ n ≤ 32 ∧
        (∀ i, i < n → x.getLsbD i = false) ∧ (n < 32 → x.getLsbD n = true))) ∧
    (Ready s 0x11 cu 0 0 [d, a, b] →
      let u := opened s cu
      let pos := (u.rs b).toNat % 32
      let wf := min ((u.rs b).toNat / 256 % 64) (32 - pos)
      let mask := BitVec.ofNat 32 ((2 ^ wf - 1) * 2 ^ pos)
      exec (.sel cu d a b c) s = .next (closed (u.ws d (if u.rc c then u.rs a else u.rs b)) 1 cu) ∧
      exec (.bext cu d a b) s = .next (closed (u.ws d (BitVec.ofNat 32 ((u.rs a).toNat / 2 ^ pos % 2 ^ wf))) 1 cu) ∧
      exec (.bins cu d a b) s = .next (closed (u.ws d ((u.rs d &&& ~~~mask) |||
        (BitVec.ofNat 32 ((u.rs a).toNat * 2 ^ pos) &&& mask))) 1 cu)) ∧
    (Ready s 0x14 cu 0 0 [d, a] →
      let u := opened s cu
      exec (.addi cu d a imm) s = .next (closed (u.ws d (u.rs a + imm.signExtend 32)) 1 cu)) ∧
    (Ready s 0x16 cu 0 0 [d] →
      exec (.li cu d w) s = .next (closed ((opened s cu).ws d w) 2 cu))

/-- The divide group of R118 in X: each issues, and its result is pending for the 14th counted instruction (R124, R125). -/
def Obligations.DivideGroup : Prop :=
  ∀ (s : State) (cu : Cue) (d a b : BitVec 5), Ready s 0x12 cu 0 0 [d, a, b] →
    let u := opened s cu
    let x := u.rs a
    let y := u.rs b
    let pends := fun (i : Instr) (v : Word) =>
      exec i s = .next (closed (u.modLive fun l => { l with slow := l.slow ++ [⟨14, d, v, 0, none⟩] }) 1 cu)
    (y ≠ 0 → ¬(x = 0x80000000 ∧ y = 0xFFFFFFFF) →
      pends (.divI cu d a b) (x.sdiv y) ∧ pends (.remI cu d a b) (x.srem y)) ∧
    (y ≠ 0 → pends (.divN cu d a b) (x / y) ∧ pends (.remN cu d a b) (x % y)) ∧
    (y = 0 → pends (.divI cu d a b) 0xFFFFFFFF ∧ pends (.remI cu d a b) x ∧ pends (.divN cu d a b) 0xFFFFFFFF ∧
      pends (.remN cu d a b) x) ∧
    (x = 0x80000000 → y = 0xFFFFFFFF → pends (.divI cu d a b) 0x80000000 ∧ pends (.remI cu d a b) 0)

/-- The address instructions of R129 in A: each completes with its result and touches nothing else; a field of an address
register of 16 to 31 is ill-formed. -/
def Obligations.AddressGroup : Prop :=
  ∀ (s : State) (cu : Cue) (d a b : BitVec 5) (imm : BitVec 11),
    let u := opened s cu
    (Ready s 0x1D cu 0 0 [b] →
      exec (.aadd cu d a b) s = .next (closed (u.wa d (u.ra a + (u.rs b).signExtend 64)) 1 cu)) ∧
    (Ready s 0x1E cu 0 0 [] →
      exec (.aaddi cu d a imm) s = .next (closed (u.wa d (u.ra a + imm.signExtend 64)) 1 cu)) ∧
    (Ready s 0x1F cu 0 0 [a, b] →
      exec (.aset cu d a b) s = .next (closed (u.wa d (u.rs b ++ u.rs a)) 1 cu)) ∧
    (Ready s 0x1F cu 0 0 [d] →
      exec (.agetLo cu d a) s = .next (closed (u.ws d ((u.ra a).extractLsb' 0 32)) 1 cu) ∧
      exec (.agetHi cu d a) s = .next (closed (u.ws d ((u.ra a).extractLsb' 32 32)) 1 cu)) ∧
    (16 ≤ a.toNat → WellFormed (.aadd cu d a b) = false ∧ WellFormed (.aaddi cu d a imm) = false ∧
      WellFormed (.agetLo cu d a) = false ∧ WellFormed (.agetHi cu d a) = false) ∧
    (16 ≤ d.toNat → WellFormed (.aadd cu d a b) = false ∧ WellFormed (.aaddi cu d a imm) = false ∧
      WellFormed (.aset cu d a b) = false)

/-- What an instruction that writes one scalar register, one flag or one address register leaves alone: the named write is
the only change between its start and its issue, of all the machine's state. -/
def Obligations.RegisterWriteFrames : Prop :=
  ∀ (s : State) (n : BitVec 5) (v : Word) (c : BitVec 2) (g : Bool) (a : BitVec 5) (w : DWord),
    ((∀ m, m ≠ n → (s.ws n v).rs m = s.rs m) ∧ (n ≠ 0 → (s.ws n v).rs n = v) ∧ s.ws 0 v = s ∧
      (∀ k, (s.ws n v).rc k = s.rc k) ∧ (∀ e, e ≠ s.cur → (s.ws n v).core.live.eng e = s.core.live.eng e) ∧
      (∀ k, (s.ws n v).ra k = s.ra k) ∧ (s.ws n v).core.live.fpflags = s.core.live.fpflags ∧
      (s.ws n v).core.live.accst = s.core.live.accst ∧ (s.ws n v).eng.cause = s.eng.cause ∧
      (s.ws n v).eng.epc = s.eng.epc ∧ (s.ws n v).eng.pc = s.eng.pc ∧ (s.ws n v).mem = s.mem) ∧
    ((s.wc c g).rc c = g ∧ (∀ k, k ≠ c → (s.wc c g).rc k = s.rc k) ∧ (∀ m, (s.wc c g).rs m = s.rs m) ∧
      (∀ e, e ≠ s.cur → (s.wc c g).core.live.eng e = s.core.live.eng e) ∧ (s.wc c g).eng.pc = s.eng.pc ∧
      (s.wc c g).mem = s.mem) ∧
    (a.toNat < 16 → (s.wa a w).ra a = w ∧ (∀ k, k ≠ a → (s.wa a w).ra k = s.ra k) ∧ (∀ m, (s.wa a w).rs m = s.rs m) ∧
      (∀ e, (s.wa a w).core.live.eng e = s.core.live.eng e) ∧ (s.wa a w).mem = s.mem) ∧
    (let moves := fun (y : EngState) => { s with core := { s.core with live := { s.core.live with
        ea := if s.cur = .a then y else s.core.live.ea, ex := if s.cur = .x then y else s.core.live.ex,
        em := if s.cur = .m then y else s.core.live.em, eb := if s.cur = .b then y else s.core.live.eb } } }
     (∃ r, s.ws n v = moves { s.eng with s := r } ∧ ∀ m, EngState.sreg { s.eng with s := r } m = if m = n ∧ n ≠ 0 then v else s.rs m) ∧
     (∃ f, s.wc c g = moves { s.eng with c := f } ∧ ∀ k, EngState.flag { s.eng with c := f } k = if k = c then g else s.rc k) ∧
     (∃ r, s.wa a w = { s with core := { s.core with live := { s.core.live with a := r } } } ∧
       ∀ k, k < 16 → vget r k 0 = if k = a.toNat then w else vget s.core.live.a k 0))

/-! ### Scalar floating point (R93, R98, R119 to R123) -/

/-- The rounding of R93 to multiples of 2^q: with m 2^e between two multiples, RTZ takes the lower; RNE takes the nearer,
and the even one at equal distance; either is inexact unless the value is a multiple. Rounding the value of an FP32 code
that is no NaN gives the code itself with no flag, in every mode (R85, R93, R97). -/
def Obligations.Rounding : Prop :=
  (∀ (m : Nat) (e q : Int), e < q →
     let w := 2 ^ (q - e).toNat
     let z := roundAt .rtz m e false q
     let n := roundAt .rne m e false q
     (z.1 * w ≤ m ∧ m < (z.1 + 1) * w) ∧
     (2 * m ≤ (2 * n.1 + 1) * w ∧ 2 * n.1 * w ≤ 2 * m + w) ∧
     (2 * m = (2 * n.1 + 1) * w ∨ 2 * n.1 * w = 2 * m + w → n.1 % 2 = 0) ∧
     (z.2 = true ↔ m % w ≠ 0) ∧ (n.2 = true ↔ m % w ≠ 0)) ∧
  (∀ (c : Nat) (mode : Mode), c < 2 ^ 32 → (fp32.decode c).isNan = false → fp32.round mode (fp32.decode c) = (c, 0))

/-- The arithmetic of the float group and `fma` (R97, R119, R121): each instruction of X completes, writes the exact result
rounded once in its mode, and ORs the flags of that one rounding into X_FPFLAGS. -/
def Obligations.FloatArithmetic : Prop :=
  ∀ (s : State) (cu : Cue) (d a b e : BitVec 5) (rnd : BitVec 2), rnd.toNat < 2 →
    let u := opened s cu
    let mode := if rnd = 0 then Mode.rne else Mode.rtz
    let gives := fun (i : Instr) (len : Nat) (r : FVal × Bool) =>
      exec i s = .next (closed ((u.ws d (BitVec.ofNat 32 (roundOp fp32 mode r).1)).orFlags (roundOp fp32 mode r).2) len cu)
    (Ready s 0x18 cu 0 0 [d, a, b] →
      gives (.fadd cu d a b rnd) 1 ((u.rf a).add (u.rf b)) ∧
      gives (.fsub cu d a b rnd) 1 ((u.rf a).add (u.rf b).neg) ∧
      gives (.fmul cu d a b rnd) 1 ((u.rf a).mul (u.rf b))) ∧
    (Ready s 0x19 cu 0 0 [d, a, b, e] →
      gives (.fma cu d a b rnd e) 2 ((u.rf a).fma (u.rf b) (u.rf e)))

/-- Comparisons, extremes, signs and conversions of the float group (R98, R119, R120). -/
def Obligations.FloatCompareAndConvert : Prop :=
  ∀ (s : State) (cu : Cue) (d a b : BitVec 5) (rnd : BitVec 2), rnd.toNat < 2 →
    let u := opened s cu
    let x := u.rf a
    let y := u.rf b
    let mode := if rnd = 0 then Mode.rne else Mode.rtz
    let gives := fun (i : Instr) (w : Word) (f : Flags) => exec i s = .next (closed ((u.ws d w).orFlags f) 1 cu)
    (Ready s 0x18 cu 0 0 [a, b] →
      let sets := fun (i : Instr) (v : Bool) => exec i s = .next (closed (u.wc (d.setWidth 2) v) 1 cu)
      (sets (.fcmpLt cu d a b) (x.lt y) ∧ sets (.fcmpLe cu d a b) (x.lt y || x.eq y) ∧
        sets (.fcmpEq cu d a b) (!x.isNan && !y.isNan && !x.lt y && !y.lt x) ∧
        sets (.fcmpUn cu d a b) (x.isNan || y.isNan)) ∧
      (x.isNan = true ∨ y.isNan = true → x.lt y = false ∧ x.eq y = false)) ∧
    (Ready s 0x18 cu 0 0 [d, a, b] →
      (x.isNan = true → y.isNan = true →
        gives (.fmin cu d a b) 0x7FC00000 0 ∧ gives (.fmax cu d a b) 0x7FC00000 0) ∧
      (x.isNan = true → y.isNan = false → gives (.fmin cu d a b) (u.rs b) 0 ∧ gives (.fmax cu d a b) (u.rs b) 0) ∧
      (x.isNan = false → y.isNan = true → gives (.fmin cu d a b) (u.rs a) 0 ∧ gives (.fmax cu d a b) (u.rs a) 0) ∧
      (x.isNan = false → y.isNan = false →
        gives (.fmin cu d a b) (if y.lt x || (y.eq x && y.sign && !x.sign) then u.rs b else u.rs a) 0 ∧
        gives (.fmax cu d a b) (if x.lt y || (x.eq y && x.sign && !y.sign) then u.rs b else u.rs a) 0) ∧
      (let signed := fun (i : Instr) (g : Bool) =>
        exec i s = .next (closed (u.ws d (if x.isNan then 0x7FC00000 else BitVec.ofBool g ++ (u.rs a).extractLsb' 0 31)) 1 cu);
        signed (.fsgn cu d a b) ((u.rs b).getLsbD 31) ∧ signed (.fsgnN cu d a b) (!(u.rs b).getLsbD 31) ∧
        signed (.fsgnX cu d a b) ((u.rs a).getLsbD 31 ^^ (u.rs b).getLsbD 31))) ∧
    (Ready s 0x18 cu 0 0 [d, a] →
      (x.isNan = true → gives (.fcvtI32F32 cu d a rnd) 0 flagNV ∧ gives (.fcvtN32F32 cu d a rnd) 0 flagNV) ∧
      (∀ g m e, x = .fin g m e →
        let n : Int := if g then -((roundAt mode m e false 0).1 : Int) else (roundAt mode m e false 0).1
        let fl := if (roundAt mode m e false 0).2 then flagNX else 0
        (-2147483648 ≤ n → n ≤ 2147483647 → gives (.fcvtI32F32 cu d a rnd) (BitVec.ofInt 32 n) fl) ∧
        (2147483647 < n → gives (.fcvtI32F32 cu d a rnd) 0x7FFFFFFF flagNV) ∧
        (n < -2147483648 → gives (.fcvtI32F32 cu d a rnd) 0x80000000 flagNV) ∧
        (0 ≤ n → n ≤ 4294967295 → gives (.fcvtN32F32 cu d a rnd) (BitVec.ofInt 32 n) fl) ∧
        (4294967295 < n → gives (.fcvtN32F32 cu d a rnd) 0xFFFFFFFF flagNV) ∧
        (n < 0 → gives (.fcvtN32F32 cu d a rnd) 0 flagNV)) ∧
      (∀ g, x = .inf g →
        gives (.fcvtI32F32 cu d a rnd) (if g then 0x80000000 else 0x7FFFFFFF) flagNV ∧
        gives (.fcvtN32F32 cu d a rnd) (if g then 0 else 0xFFFFFFFF) flagNV) ∧
      (let r := fp32.round mode (.fin ((u.rs a).getLsbD 31) (u.rs a).toInt.natAbs 0);
        gives (.fcvtF32I32 cu d a rnd) (BitVec.ofNat 32 r.1) r.2) ∧
      (let r := fp32.round mode (.fin false (u.rs a).toNat 0);
        gives (.fcvtF32N32 cu d a rnd) (BitVec.ofNat 32 r.1) r.2))

/-- The slow-float group (R122 to R125): each instruction of X issues, and its result, its flags and the flag of `fsqrt.ck`
are pending for the 14th counted instruction, as R122 and R123 give them at special operands. -/
def Obligations.SlowFloatGroup : Prop :=
  ∀ (s : State) (cu : Cue) (d a b : BitVec 5) (rnd c : BitVec 2), rnd.toNat < 2 →
    let u := opened s cu
    let x := u.rf a
    let y := u.rf b
    let mode := if rnd = 0 then Mode.rne else Mode.rtz
    let pends := fun (i : Instr) (v : Word) (f : Flags) (g : Option (BitVec 2 × Bool)) =>
      exec i s = .next (closed (u.modLive fun l => { l with slow := l.slow ++ [⟨14, d, v, f, g⟩] }) 1 cu)
    let signBit := fun (g : Bool) (w : Word) => if g then w ||| 0x80000000 else w
    (Ready s 0x1A cu 0 0 [d, a, b] →
      (let r := divRound fp32 mode x y;
        pends (.fdiv cu d a b rnd) (BitVec.ofNat 32 r.1) r.2 none) ∧
      (x.isNan = true ∨ y.isNan = true → pends (.fdiv cu d a b rnd) 0x7FC00000 0 none) ∧
      (∀ g m e h f, x = .fin g m e → y = .fin h 0 f → m ≠ 0 →
        pends (.fdiv cu d a b rnd) (signBit (g ^^ h) 0x7F800000) flagDZ none) ∧
      (∀ g h e f, x = .fin g 0 e → y = .fin h 0 f → pends (.fdiv cu d a b rnd) 0x7FC00000 flagNV none) ∧
      (∀ g h, x = .inf g → y = .inf h → pends (.fdiv cu d a b rnd) 0x7FC00000 flagNV none) ∧
      (∀ g m e h, x = .fin g m e → y = .inf h → pends (.fdiv cu d a b rnd) (signBit (g ^^ h) 0) 0 none)) ∧
    (Ready s 0x1A cu 0 0 [d, a] →
      (let r := sqrtRound fp32 mode x;
        pends (.fsqrt cu d a rnd) (BitVec.ofNat 32 r.1) r.2 none ∧
        pends (.fsqrtCk cu d a rnd c) (BitVec.ofNat 32 r.1) r.2 (some (c, !(FVal.lt (.fin false 0 0) x)))) ∧
      (let r := rsqrtRound fp32 mode x;
        pends (.frsq cu d a rnd) (BitVec.ofNat 32 r.1) r.2 none) ∧
      (x.isNan = true → pends (.fsqrt cu d a rnd) 0x7FC00000 0 none ∧ pends (.frsq cu d a rnd) 0x7FC00000 0 none) ∧
      (∀ g e, x = .fin g 0 e →
        pends (.fsqrt cu d a rnd) (signBit g 0) 0 none ∧ pends (.frsq cu d a rnd) (signBit g 0x7F800000) flagDZ none) ∧
      (∀ m e, x = .fin true m e → m ≠ 0 →
        pends (.fsqrt cu d a rnd) 0x7FC00000 flagNV none ∧ pends (.frsq cu d a rnd) 0x7FC00000 flagNV none) ∧
      (x = .inf true → pends (.fsqrt cu d a rnd) 0x7FC00000 flagNV none ∧ pends (.frsq cu d a rnd) 0x7FC00000 flagNV none) ∧
      (x = .inf false → pends (.fsqrt cu d a rnd) 0x7F800000 0 none ∧ pends (.frsq cu d a rnd) 0 0 none))

/-! ### Control flow (R130 to R144) -/

/-- `nop`, `bprep`, `tokw` and `toks` (R15, R130, R134, R290, R291), `toks` completing once every earlier instruction of its
engine has; and the pushes of completed instructions (R15, R289): with both queues empty and one completed instruction, its
tokens arrive in the queues to the previous and the next engine, as far as a queue's 16 places allow, and the instruction leaves
the list once they are made; each carries what the instruction knows of A's completions (R273, log 32). -/
def Obligations.NopBprepTokens : Prop :=
  (∀ (s : State) (cu : Cue) (k : BitVec 2) (tgt : BitVec 13) (np nn : BitVec 4),
    (Ready s 0x01 cu 0 0 [] → exec (.nop cu) s = .next (closed (opened s cu) 1 cu)) ∧
    (Ready s 0x03 cu 0 0 [] →
      exec (.bprep cu k tgt) s = .next (closed ((opened s cu).modEng fun x => x.setTarget k tgt) 1 cu)) ∧
    (Ready s 0x09 cu np.toNat nn.toNat [] →
      exec (.tokw cu np nn) s = .next (closed (s.begun (np.toNat + b2n cu.wp) (nn.toNat + b2n cu.wn) false) 1 cu)) ∧
    (Ready s 0x0A cu 0 0 [] → s.eng.retire = [] →
      exec (.toks cu np nn) s =
        .next ((opened s cu).passed 1 (np.toNat + b2n cu.sp) (nn.toNat + b2n cu.sn) true none)) ∧
    (∀ (x : EngState) (m : BitVec 2), (x.setTarget k tgt).target k = tgt ∧
      (m ≠ k → (x.setTarget k tgt).target m = x.target m))) ∧
  (∀ (s : State) (e : Engine) (q sp sn : Nat) (ns : List Nat), (s.core.live.eng e).retire = [⟨q, true, sp, sn, ns⟩] →
    s.core.live.tokens (toPrevIdx e) = 0 → s.core.live.tokens (toNextIdx e) = 0 → (e = .m → s.core.live.drainReady = []) →
    ∃ t, exec (.instructionComplete e) s = .next t ∧
      t.core.live.tokens (toPrevIdx e) = min sp 16 ∧
      t.core.live.tokens (toNextIdx e) = min sn 16 ∧
      (sp ≤ 16 → sn ≤ 16 → (t.core.live.eng e).retire = []) ∧
      (vget t.core.live.told.queues (toNextIdx e) [] = vget s.core.live.told.queues (toNextIdx e) [] ++ List.replicate (min sn 16) ns) ∧
      t.mem = s.mem ∧ (∀ n, (t.core.live.eng e).sreg n = (s.core.live.eng e).sreg n) ∧
      (∀ f, f ≠ e → t.core.live.eng f = s.core.live.eng f))

/-- `br` and `bl` (R135, R136): two delay slots follow, and then the target where the branch is taken; `bl` writes its link
whether or not it is taken. -/
def Obligations.BranchWithTwoSlots : Prop :=
  ∀ (s : State) (cu : Cue) (t c : BitVec 2) (cnd : BitVec 3) (ls : BitVec 5), s.eng.slots = 0 →
    let u := opened s cu
    let taken := cnd = 0 ∨ (cnd = 1 ∧ u.rc c = true) ∨ (cnd = 2 ∧ u.rc c = false)
    let redirects := fun (v : State) => v.modEng fun x =>
      { x with slots := 2, redir := if taken then some (u.eng.target t) else none }
    (Ready s 0x04 cu 0 0 [] → WellFormed (.br cu t c cnd) = true →
      exec (.br cu t c cnd) s = .next (redirects (closed u 1 cu))) ∧
    (Ready s 0x05 cu 0 0 [ls] → WellFormed (.bl cu t c cnd ls) = true →
      ∃ link : Nat, exec (.bl cu t c cnd ls) s = .next (redirects (closed (u.ws ls (BitVec.ofNat 32 link)) 1 cu)) ∧
        (let w1 := s.eng.pc + 1;
          let w2 := w1 + lengthOf (s.eng.word w1);
          (∀ n, (s.eng.level n).act = true →
            (s.eng.level n).stop.toNat ≠ s.eng.pc ∧ (s.eng.level n).stop.toNat ≠ w2 - 1) →
          link = w2 + lengthOf (s.eng.word w2)))

/-- The back-edge decision (R135, R141, R142): with no active level ending at the end word w the flow goes on, unless w was the
second slot of a taken branch, whose target it then takes; the one active level that ends at w goes back while more than one
iteration remains and its exit flag is 0, and otherwise becomes inactive; of two levels that end at one word the newer decides
first, and the older decides only where the newer exits. Where w was the second slot of a taken branch the levels are decided all
the same, and the flow takes the branch's target in place of the back-edge's word (R142); where a slot is still to issue, the flow
is the decision's and the branch stays pending. -/
def Obligations.BackEdges : Prop :=
  (∀ (s : State) (e : Engine) (w : Nat) (n : BitVec 2),
     let x := s.core.live.eng e
     let v := x.level n
     x.backEdge = some w → v.act = true → v.stop.toNat = w →
     (∀ m, m ≠ n → (x.level m).act = true → (x.level m).stop.toNat ≠ w) →
     (e = .x → s.core.live.slow = []) →
     let exits := v.cnt.toNat ≤ 1 ∨ ∃ f, v.xf = some f ∧ x.flag f = true
     let left := x.setLevel n { v with act := false, cnt := 0, iter := 0 }
     let back := x.setLevel n { v with cnt := v.cnt - 1, iter := v.iter + 1 }
     ∃ t, exec (.backEdgeDecision e) s = .next t ∧
       (x.redir = none ∨ 0 < x.slots →
         (exits → t.core.live.eng e = { left with backEdge := none }) ∧
         (¬exits → t.core.live.eng e = { back with backEdge := none, pc := v.start.toNat })) ∧
       (∀ b, x.redir = some b → x.slots = 0 →
         (exits → t.core.live.eng e = { left with backEdge := none, pc := b.toNat, redir := none }) ∧
         (¬exits → t.core.live.eng e = { back with backEdge := none, pc := b.toNat, redir := none })) ∧
       (∀ f, f ≠ e → t.core.live.eng f = s.core.live.eng f) ∧ t.mem = s.mem) ∧
  (∀ (s : State) (e : Engine) (w : Nat) (n m : BitVec 2),
     let x := s.core.live.eng e
     let v := x.level n
     let o := x.level m
     x.backEdge = some w → x.redir = none → n ≠ m → v.act = true → o.act = true → v.stop.toNat = w → o.stop.toNat = w →
     o.seq < v.seq → v.xf = none → o.xf = none →
     (∀ k, k ≠ n → k ≠ m → (x.level k).act = true → (x.level k).stop.toNat ≠ w) →
     ∃ t, exec (.backEdgeDecision e) s = .next t ∧
       (1 < v.cnt.toNat → (t.core.live.eng e).level m = o ∧ (t.core.live.eng e).pc = v.start.toNat) ∧
       (v.cnt.toNat ≤ 1 → 1 < o.cnt.toNat →
         (t.core.live.eng e).level n = { v with act := false, cnt := 0, iter := 0 } ∧
         (t.core.live.eng e).level m = { o with cnt := o.cnt - 1, iter := o.iter + 1 } ∧
         (t.core.live.eng e).pc = o.start.toNat)) ∧
  (∀ (s : State) (e : Engine) (w : Nat), (s.core.live.eng e).backEdge = some w →
    (∀ n, (s.core.live.eng e |>.level n).act = true → (s.core.live.eng e |>.level n).stop.toNat ≠ w) →
    let x := s.core.live.eng e
    ∃ t, exec (.backEdgeDecision e) s = .next t ∧
      (x.redir = none → t.core.live.eng e = { x with backEdge := none }) ∧
      (∀ b, x.redir = some b → 0 < x.slots → t.core.live.eng e = { x with backEdge := none }) ∧
      (∀ b, x.redir = some b → x.slots = 0 → t.core.live.eng e = { x with backEdge := none, pc := b.toNat, redir := none }) ∧
      (∀ f, f ≠ e → t.core.live.eng f = s.core.live.eng f) ∧ t.mem = s.mem)

/-- `loop` and `loopx` (R140): entry with a count writes the level and goes on at the body's first word; entry with count 0
makes the level inactive and goes on after the body; the bounds are the latch's where one is pending. -/
def Obligations.LoopEntry : Prop :=
  ∀ (s : State) (cu : Cue) (lvl : BitVec 2) (cnt : BitVec 8) (r : BitVec 5) (f : BitVec 2) (len : BitVec 10),
    s.eng.slots = 0 →
    let u := opened s cu
    let v := s.eng.level lvl
    let st := if v.pend then v.lstart.toNat else s.eng.pc + 1
    let en := if v.pend then v.lend.toNat else s.eng.pc + len.toNat
    st ≤ en → en - st < 1023 → en ≤ 8191 → s.eng.tags.contains (en + 1) = false →
    let enters := fun (i : Instr) (c : Word) (xf : Option (BitVec 2)) =>
      (c = 0 → exec i s = .next ((u.modEng fun x =>
          x.setLevel lvl { v with pend := false, act := false, cnt := 0, iter := 0 }).passed 1 (b2n cu.sp) (b2n cu.sn) true
          (some (en + 1)))) ∧
      (c ≠ 0 → exec i s = .next ((u.modEng fun x =>
          { x.setLevel lvl { v with pend := false, act := true, cnt := c, iter := 0, start := BitVec.ofNat 13 st,
                                    stop := BitVec.ofNat 13 en, seq := x.loopSeq, xf := xf } with
            loopSeq := x.loopSeq + 1 }).passed 1 (b2n cu.sp) (b2n cu.sn) true (some st)))
    (Ready s 0x06 cu 0 0 [] → enters (.loopImmediate cu lvl cnt len) (cnt.setWidth 32) none) ∧
    (Ready s 0x06 cu 0 0 [r] → enters (.loopRegister cu lvl r len) (u.rs r) none) ∧
    (Ready s 0x07 cu 0 0 [r] → enters (.loopx cu lvl f r len) (u.rs r) (some f))

/-- Ill-formed loop bounds of any loop instruction, and a control instruction or a loop instruction in a delay slot, raise ILLOP with
the instruction's word and start nothing (R137, R140). -/
def Obligations.RefusedControl : Prop :=
  ∀ (s : State) (cu : Cue) (lvl t c f : BitVec 2) (cnt : BitVec 8) (cnd : BitVec 3) (ls r : BitVec 5) (n : BitVec 13)
    (len : BitVec 10), s.eng.started = false →
    let v := s.eng.level lvl
    let st := if v.pend then v.lstart.toNat else s.eng.pc + 1
    let en := if v.pend then v.lend.toNat else s.eng.pc + len.toNat
    let word := fun (i : Instr) => (encode i).getD 0 0
    (en < st ∨ 1023 ≤ en - st ∨ 8191 < en ∨ s.eng.tags.contains (en + 1) = true →
      exec (.loopImmediate cu lvl cnt len) s = .next (s.raise ⟨1, word (.loopImmediate cu lvl cnt len), 0⟩) ∧
      exec (.loopRegister cu lvl r len) s = .next (s.raise ⟨1, word (.loopRegister cu lvl r len), 0⟩) ∧
      exec (.loopx cu lvl f r len) s = .next (s.raise ⟨1, word (.loopx cu lvl f r len), 0⟩)) ∧
    (0 < s.eng.slots →
      (Ready s 0x04 cu 0 0 [] → exec (.br cu t c cnd) s = .next (s.raise ⟨1, word (.br cu t c cnd), 0⟩)) ∧
      (Ready s 0x05 cu 0 0 [] → exec (.bl cu t c cnd ls) s = .next (s.raise ⟨1, word (.bl cu t c cnd ls), 0⟩)) ∧
      (Ready s 0x02 cu 0 0 [] → exec (.cue cu n) s = .next (s.raise ⟨1, word (.cue cu n), 0⟩)) ∧
      (Ready s 0x06 cu 0 0 [] →
        exec (.loopImmediate cu lvl cnt len) s = .next (s.raise ⟨1, word (.loopImmediate cu lvl cnt len), 0⟩) ∧
        exec (.loopRegister cu lvl r len) s = .next (s.raise ⟨1, word (.loopRegister cu lvl r len), 0⟩)) ∧
      (Ready s 0x07 cu 0 0 [] → exec (.loopx cu lvl f r len) s = .next (s.raise ⟨1, word (.loopx cu lvl f r len), 0⟩)))

/-! ### Taking an exception (R69, R132, R194, R195, R198) -/

/-- When a precise fault is taken (R194): once every earlier instruction of its engine has completed; until then the engine waits
with nothing else changed. A fault that enters the handler (R194): its cause is handleable and TVEC.EN is 1. The engine's trap
registers are written, TVEC.EN becomes 0, a pending redirect is discarded and the engine fetches TVEC.TGT next. The other engines, the
registers and memory stay. -/
def Obligations.HandlerEntry : Prop :=
  (∀ (s : State) (t : Trap),
    ((∀ r ∈ s.eng.retire, r.done = true) → s.raise t = s.take s.cur t) ∧
    (∀ r ∈ s.eng.retire, r.done = false → s.cur ≠ .m →
      s.raise t = s.stall (if s.cur = .b then .earlier else .external))) ∧
  ∀ (s : State) (e : Engine) (t : Trap), t.code ∈ [1, 4, 5, 6] → (s.core.live.eng e).tvec.getLsbD 31 = true →
    (e = .x → s.core.live.slow = []) →
    let x := s.core.live.eng e
    let y := (s.take e t).core.live.eng e
    y.cause = BitVec.ofNat 32 (t.code + 256) ∧ y.epc = BitVec.ofNat 32 (x.pc % 8192) ∧ y.tval0 = t.tv0 ∧ y.tval1 = t.tv1 ∧
      y.tvec = x.tvec &&& 0x7FFFFFFF ∧ y.pc = (x.tvec.extractLsb' 0 13).toNat ∧ y.redir = none ∧ y.slots = 0 ∧
      y.started = false ∧ y.s = x.s ∧ y.c = x.c ∧ y.bt = x.bt ∧ y.lc = x.lc ∧
      (∀ f, f ≠ e → (s.take e t).core.live.eng f = s.core.live.eng f) ∧
      s.take e t = { s with core := { s.core with live := s.core.live.setEng e y } }

/-- Any other precise fault ends the act (R195). Taking it writes the trap registers with H = 0, and from then on no engine issues:
only an engine that had started an instruction goes on. An ending that stands already stays, but for a suspension. Once nothing that
the act had started is under way, the fault's entry leaves the core: it is appended to the context's fault log, the act has left the
core and is counted as faulted, and no engine goes on. The context's scenes are at most those it had: an unloaded one may leave with its
last act (R355). -/
def Obligations.FaultEndsTheAct : Prop :=
  (∀ (s : State) (e : Engine) (t : Trap),
    (t.code ∉ [1, 4, 5, 6] ∨ (s.core.live.eng e).tvec.getLsbD 31 = false) → (e = .x → s.core.live.slow = []) →
    let u := s.take e t
    let y := u.core.live.eng e
    (y.cause = BitVec.ofNat 32 t.code ∧ y.epc = BitVec.ofNat 32 ((s.core.live.eng e).pc % 8192) ∧ y.tval0 = t.tv0 ∧
      y.tval1 = t.tv1) ∧
    (s.core.ending = none → u.core.ending = some (.fault t.code e t.tv0 t.tv1)) ∧
    (∀ k, s.core.ending = some k →
      u.core.ending = some (match k with
        | .image _ => .fault t.code e t.tv0 t.tv1
        | .suspend _ => .fault t.code e t.tv0 t.tv1
        | k => k)) ∧
    (∀ f, f = e ∨ (s.core.live.eng f).started = false → u.canIssue f = false) ∧
    u.core.act = s.core.act ∧ u.ctxs = s.ctxs ∧ u.launches = s.launches ∧ u.mem = s.mem) ∧
  (∀ (s : State) (e : Engine) (code : Nat) (tv0 tv1 : Word) (a : Act) (c : Ctx) (l : Launch),
    s.core.ending = some (.fault code e tv0 tv1) → s.core.live.acc.all (fun x => decide (x.eng ≠ e) || x.left) = true →
    s.spent = true → s.chansIdle = true → s.core.act = some a → s.ctxAt a.ctx = some c → c.flog.length < 256 →
    s.launches = [l] → a.launch = l.id →
    ∃ u, exec (.heldOperationLeave e) s = .next u ∧ u.core.act = none ∧ u.core.ending = none ∧ (∀ f, u.canIssue f = false) ∧
      u.launches = [{ l with faulted := l.faulted + 1, open_ := l.open_ - 1 }] ∧
      (∃ d, u.ctxAt a.ctx = some d ∧ (∀ k ∈ d.scenes, k ∈ c.scenes) ∧ d.flogSeq = (if c.flogSeq + 1 = 0 then 1 else c.flogSeq + 1) ∧
        ∃ f, d.flog = c.flog ++ [f] ∧ f.seq = c.flogSeq ∧ f.tval0 = tv0 ∧ f.tval1 = tv1 ∧
          f.hdr = BitVec.ofNat 32 (code + 256 * e.idx + 1024 + 2048 + 4096) ∧ f.core = BitVec.ofNat 32 s.core.num ∧
          f.scene = a.record.scene) ∧
      u.mem = s.mem)

/-- `trap` and `brk` (R132, R198): each starts, popping its tokens. `trap`, and `brk` with HEN = 0, raise their fault with
the code; `brk` with HEN = 1 halts the core and notifies the stage manager, and completes when the core is resumed. The
resumption of a core halted at a `brk` (R198): the `brk` completes, and the flow goes on after it. -/
def Obligations.TrapAndBreakpoint : Prop :=
  (∀ (s : State) (cu : Cue) (code : BitVec 16), s.eng.retire = [] →
     let u := opened s cu
     (Ready s 0x08 cu 0 0 [] → exec (.trap cu code) s = .next (u.take s.cur ⟨5, code.setWidth 32, 0⟩)) ∧
     (Ready s 0x0B cu 0 0 [] →
       (s.core.hen = false → exec (.brk cu code) s = .next (u.take s.cur ⟨6, code.setWidth 32, 0⟩)) ∧
       (s.core.hen = true → ∃ t, exec (.brk cu code) s = .next t ∧ t.core.halt = true ∧
         t.notices = s.notices ++ [Notice.brk s.core.num code.toNat] ∧
         (∀ f, f ≠ s.cur → (s.core.live.eng f).started = false → t.canIssue f = false) ∧
         (s.eng.fetched = .brk cu code → t.canIssue s.cur = false) ∧ t.core.act = s.core.act ∧
         t.eng.pc = s.eng.pc ∧ (∀ n, t.rs n = u.rs n) ∧ t.mem = s.mem))) ∧
  (∀ (s : State) (e : Engine) (cu : Cue) (code : BitVec 16), s.core.halt = true →
     s.core.live.brkAt = some (e, cu, code) →
     ∃ t, exec .brkResume s = .next t ∧ t.core.halt = false ∧ (t.core.live.eng e).pc = (s.core.live.eng e).pc + 1 ∧
       (t.core.live.eng e).started = false ∧
       (t.core.live.eng e).backEdge = some (s.core.live.eng e).pc ∧ t.mem = s.mem)

/-- Words that are refused (R62, R63, R69 rows 1 to 5, R199): the first row that holds names the cause and the fault values;
the fault is raised with nothing started. At a tagged word TVAL1 is the word that follows where the tagged word's own bits hold the
opcode of a two-word instruction, and 0 otherwise: the spec does not say which, and this clause is the model's choice (log 38). An
instruction that is illegal in the moving engine raises ILLENG with its first word and pops nothing (R69 row 3), here for one
instruction of each engine's own. -/
def Obligations.RefusedWords : Prop :=
  (∀ (s : State) (w x : Word),
     let raises := fun (t : Trap) => exec (.illop w x) s = .next (s.raise t)
     let ext := if isWide (opOf w) then x else 0
     (8192 ≤ s.eng.pc → raises ⟨1, 8192, 0⟩) ∧
     (s.eng.pc < 8192 → s.eng.tags.contains s.eng.pc = true → raises ⟨1, w, ext⟩) ∧
     (s.eng.pc < 8192 → s.eng.tags.contains s.eng.pc = false →
       (opOf w ∈ [(0x00 : BitVec 7), 0x13, 0x1B, 0x1C] → raises ⟨1, w, ext⟩) ∧
       (opOf w ∉ [(0x00 : BitVec 7), 0x13, 0x1B, 0x1C] →
         (opLegal (opOf w) s.cur = false → raises ⟨2, w, 0⟩) ∧
         (opLegal (opOf w) s.cur = true →
           (isWide (opOf w) = true → x.extractLsb' 28 4 ≠ 0 → raises ⟨3, w, x⟩) ∧
           (isWide (opOf w) = false ∨ x.extractLsb' 28 4 = 0 → raises ⟨1, w, ext⟩))))) ∧
  (∀ (s : State) (cu : Cue) (d a b : BitVec 5), s.eng.started = false →
     (s.cur ≠ .a → exec (.aadd cu d a b) s = .next (s.raise ⟨2, nibble cu ++ (0x1D : BitVec 7) ++ (d ++ a ++ b ++ (0 : BitVec 6)), 0⟩)) ∧
     (s.cur ≠ .x → exec (.divI cu d a b) s = .next (s.raise ⟨2, nibble cu ++ (0x12 : BitVec 7) ++ (d ++ a ++ b ++ (0 : BitVec 6)), 0⟩)) ∧
     (s.cur ≠ .m → exec (.mmZero cu d) s = .next (s.raise ⟨2, nibble cu ++ (0x4D : BitVec 7) ++ (d ++ (0 : BitVec 16)), 0⟩)) ∧
     (s.cur ≠ .b → exec (.stSp cu a 0) s = .next (s.raise ⟨2, nibble cu ++ (0x51 : BitVec 7) ++ ((31 : BitVec 5) ++ a ++ (0 : BitVec 11)), 0⟩)))

/-! ### Control registers (R114, R144, R145, R185 to R193) -/

/-- The CSR instructions (R193): each reads the register, writes the new value through the register's map and returns the
old one. ACCST in M is read once no pass lacks vectors (R182). Forbidden accesses (R67, R185, R193): an undefined number, a
write of a register with no writable field, and `csrs` or `csrc` of LERR or ACCST raise ILLOP with the instruction's word,
and nothing starts. -/
def Obligations.CsrInstructions : Prop :=
  (∀ (s : State) (cu : Cue) (d a : BitVec 5) (num : BitVec 11) (old : Word),
     let u := opened s cu
     u.csr s.cur num.toNat = some old → (num = 0x24 → s.core.live.pass = none) →
     (Ready s 0x0C cu 0 0 [d] → exec (.csrr cu d num) s = .next (closed (u.ws d old) 1 cu)) ∧
     (csrWritable num.toNat = true →
       (Ready s 0x0D cu 0 0 [d, a] →
         exec (.csrw cu d a num) s = .next (closed ((u.setCsr num.toNat (u.rs a)).ws d old) 1 cu)) ∧
       (csrClears num.toNat = false →
         (Ready s 0x0E cu 0 0 [d, a] →
           exec (.csrs cu d a num) s = .next (closed ((u.setCsr num.toNat (old ||| u.rs a)).ws d old) 1 cu)) ∧
         (Ready s 0x0F cu 0 0 [d, a] →
           exec (.csrc cu d a num) s = .next (closed ((u.setCsr num.toNat (old &&& ~~~u.rs a)).ws d old) 1 cu))))) ∧
  (∀ (s : State) (cu : Cue) (d a : BitVec 5) (num : BitVec 11), s.eng.started = false →
     let ill := fun (i : Instr) => exec i s = .next (s.raise ⟨1, (encode i).getD 0 0, 0⟩)
     (s.csr s.cur num.toNat = none → ill (.csrr cu d num) ∧ ill (.csrw cu d a num) ∧ ill (.csrs cu d a num) ∧
       ill (.csrc cu d a num)) ∧
     (num ∈ [(0 : BitVec 11), 1, 2, 3, 0x11, 0x15, 0x19, 0x1D, 0x25, 0x100, 0x101, 0x102, 0x103, 0x104, 0x108, 0x10F, 0x110,
         0x113] →
       ill (.csrw cu d a num) ∧ ill (.csrs cu d a num) ∧ ill (.csrc cu d a num)) ∧
     (num = 0x23 ∨ num = 0x24 → ill (.csrs cu d a num) ∧ ill (.csrc cu d a num)))

/-- Which control registers an engine has, and what they read as (R114, R144, R185 to R192): LCn_BND reads the latch's bounds where one
is pending, and otherwise those of an active level (R144). -/
def Obligations.CsrMap : Prop :=
  ∀ (s : State) (e : Engine) (n : BitVec 2) (k : Nat), k < 8 →
    let x := s.core.live.eng e
    s.csr e 0 = some x.cause ∧ s.csr e 1 = some x.epc ∧ s.csr e 2 = some x.tval0 ∧ s.csr e 3 = some x.tval1 ∧
    s.csr e 4 = some x.tvec ∧ s.csr e (8 + n.toNat) = some ((x.target n).setWidth 32) ∧
    s.csr e (0x10 + 4 * n.toNat) = some (x.level n).cnt ∧ s.csr e (0x11 + 4 * n.toNat) = some (x.level n).iter ∧
    s.csr e 0x20 = (if e = .a then none else some x.ridx) ∧
    s.csr e 0x21 = (if e = .a then none else some (x.almlvl.setWidth 32)) ∧
    s.csr e 0x22 = (if e = .x then some (s.core.live.fpflags.setWidth 32) else none) ∧
    s.csr e 0x23 = (if e = .a then some (s.core.live.lerr.setWidth 32) else none) ∧
    s.csr e 0x24 = (if e = .m then some s.core.live.accst else none) ∧ (s.csr e 0x25).isSome = decide (e = .m) ∧
    (∃ w : Word, s.csr e (0x12 + 4 * n.toNat) = some w ∧ w.getLsbD 31 = (x.level n).act ∧ w.getLsbD 30 = (x.level n).pend ∧
      w.getLsbD 29 = false ∧ w.extractLsb' 13 3 = 0 ∧
      w.extractLsb' 0 13 = (if (x.level n).pend then (x.level n).lstart else if (x.level n).act then (x.level n).start else 0) ∧
      w.extractLsb' 16 13 = (if (x.level n).pend then (x.level n).lend else if (x.level n).act then (x.level n).stop else 0)) ∧
    (∃ w : Word, s.csr e 0x104 = some w ∧ w.getLsbD 0 = s.core.hen ∧ w.getLsbD 1 = s.core.halt ∧ w.extractLsb' 2 30 = 0) ∧
    (e = .m → ∃ w : Word, s.csr e 0x25 = some w ∧ w.extractLsb' 0 3 = s.core.live.winCur ∧ w.getLsbD 3 = s.core.live.winCv ∧
      w.extractLsb' 4 9 = BitVec.ofNat 9 (min s.core.live.winCnt 256) ∧ w.getLsbD 13 = s.core.live.winOvf ∧
      w.extractLsb' 14 18 = 0) ∧
    s.csr e 0x101 = some (s.core.detlvl.setWidth 32) ∧ s.csr e 0x102 = some s.core.actCur ∧
    s.csr e 0x103 = some s.core.actCeil ∧ s.csr e (0x108 + k) = some ((vget s.core.lvl k 0).setWidth 32) ∧
    (s.csr e 0x100 = some (BitVec.ofNat 32
      (s.core.num + 256 * (s.core.num / 40) + 1024 * (s.core.num % 40 / 8) + 8192 * (s.core.num % 8)))) ∧
    s.csr e 0x110 = some 0x0000FFFF ∧ s.csr e 0x111 = some 0 ∧ s.csr e 0x112 = some 0 ∧ s.csr e 0x113 = some 0 ∧
    (∀ m, m ∈ [5, 6, 7, 0x0C, 0x0F, 0x13, 0x17, 0x1B, 0x1F, 0x26, 0xFF, 0x105, 0x107, 0x114, 0x7FF] → s.csr e m = none)

/-- What a write of a control register changes (R114, R143 to R145, R187 to R189, R193): RW fields take the value, W1C fields are
cleared where it has ones, reserved and RO bits ignore it. -/
def Obligations.CsrWrites : Prop :=
  ∀ (s : State) (n : BitVec 2) (v : Word),
    let x := s.eng
    let after := fun (num : Nat) => (s.setCsr num v).eng
    after 4 = { x with tvec := v &&& 0x80001FFF } ∧
    after (8 + n.toNat) = x.setTarget n (v.extractLsb' 0 13) ∧
    after (0x10 + 4 * n.toNat) = x.setLevel n { x.level n with cnt := v } ∧
    after (0x12 + 4 * n.toNat) = x.setLevel n
      { x.level n with lstart := v.extractLsb' 0 13, lend := v.extractLsb' 16 13, pend := v.getLsbD 30 } ∧
    after 0x20 = { x with ridx := v } ∧ after 0x21 = { x with almlvl := v.extractLsb' 0 2 } ∧
    s.setCsr 0x22 v = s.modLive (fun l => { l with fpflags := v.extractLsb' 0 5 }) ∧
    s.setCsr 0x23 v = s.modLive (fun l => { l with lerr := l.lerr &&& ~~~(v.extractLsb' 0 5) }) ∧
    s.setCsr 0x24 v = s.modLive (fun l => { l with accst := l.accst &&& ~~~v }) ∧
    (∀ num, (s.setCsr num v).mem = s.mem ∧ (s.setCsr num v).core.detlvl = s.core.detlvl ∧
      (s.setCsr num v).core.actCur = s.core.actCur ∧ (s.setCsr num v).core.hen = s.core.hen ∧
      ∀ e, e ≠ s.cur → (s.setCsr num v).core.live.eng e = s.core.live.eng e)

/-! ### Vector operands (R52, R53, R99, R146 to R155, R295) -/

/-- Sources (R52, R53, R149): a register field reads the register and takes nothing; a queue field pops the filled head of
its load queue; two fields that name one queue take its first two entries in field order. A popped entry's marks (R194,
R270, R295): the instruction faults with POISON before MMX before XLATE and the marked address, and what it popped stays popped; while
an earlier instruction of its engine has not completed it waits, and has popped nothing. -/
def Obligations.VectorSources : Prop :=
  (∀ (l : Live) (f g : BitVec 5) (e1 e2 : LEntry) (es : List LEntry), l.drains = [] →
     (f.toNat < 28 → g.toNat < 28 → l.vecWait [f, g] [] = none ∧ l.takeAll [f, g] = ([l.vreg f, l.vreg g], none, l)) ∧
     (28 ≤ f.toNat → l.loadQ (f.toNat - 28) = e1 :: e2 :: es → e1.filled = true → e2.filled = true →
       e1.trap = none → e2.trap = none →
       (l.vecWait [f] [] = none ∧ l.takeAll [f] = ([e1.val], none, l.setLoadQ (f.toNat - 28) (e2 :: es))) ∧
       (l.vecWait [f, f] [] = none ∧ l.takeAll [f, f] = ([e1.val, e2.val], none, l.setLoadQ (f.toNat - 28) es)) ∧
       (g.toNat < 28 → l.vecWait [g, f] [] = none ∧
         l.takeAll [g, f] = ([l.vreg g, e1.val], none, l.setLoadQ (f.toNat - 28) (e2 :: es)))) ∧
     (28 ≤ f.toNat → (l.loadQ (f.toNat - 28) = [] ↔ l.vecWait [f] [] = some (.lqEntry (f.toNat - 28) 1))) ∧
     (28 ≤ g.toNat → (8 ≤ (l.storeQ (g.toNat - 28)).length ↔ l.vecWait [] [g] = some (.sqRoom (g.toNat - 28)))) ∧
     (g.toNat < 28 → l.vecWait [] [g] = none)) ∧
  (∀ (s : State) (cu : Cue) (d f : BitVec 5) (t p : BitVec 3) (ty : VTy) (e : LEntry) (es : List LEntry), Typed s t allTypes ty →
     Ready s 0x26 cu 0 0 [] → 28 ≤ f.toNat → d.toNat < 28 → s.core.live.drains = [] →
     s.core.live.loadQ (f.toNat - 28) = e :: es → e.filled = true →
     let u := (opened s cu).setLive ((opened s cu).core.live.setLoadQ (f.toNat - 28) es)
     let faults := fun (code : Nat) (a : DWord) =>
       ((∀ r ∈ s.eng.retire, r.done = true) →
         exec (.vmov cu d f t p) s = .next (u.take s.cur ⟨code, a.extractLsb' 0 32, a.extractLsb' 32 32⟩)) ∧
       (∀ r ∈ s.eng.retire, r.done = false → exec (.vmov cu d f t p) s = .next ((opened s cu).stall .external))
     (∀ a, e.poison = some a → faults 0x15 a) ∧
     (∀ a, e.poison = none → e.mmx = some a → faults 0x14 a) ∧
     (∀ a, e.poison = none → e.mmx = none → e.refused = some a → faults 0x10 a))

/-- Writing element results (R147, R153): an enabled element takes its result; a disabled one keeps the old element of a register
and is zero in a queue entry; the flags of the enabled elements alone are ORed into X_FPFLAGS. -/
def Obligations.ElementWrites : Prop :=
  ∀ (s : State) (d : BitVec 5) (p : BitVec 3) (w : Nat) (side : BitVec 256) (rs : List (Nat × Flags)),
    w ∈ [8, 16, 32] → rs.length = 4096 / w →
    let on := fun (i : Nat) => p = 0 ∨ (vget s.core.live.p p.toNat 0).getLsbD i = true
    let t := s.putElems d p w side rs
    (d.toNat < 28 →
      (t.core.live.vreg d).side = side ∧
      (∀ i, i < 4096 / w → (on i → elem w (t.core.live.vreg d).data i = (rs.getD i (0, 0)).1 % 2 ^ w) ∧
        (¬on i → elem w (t.core.live.vreg d).data i = elem w (s.core.live.vreg d).data i)) ∧
      (∀ f, f ≠ d → t.core.live.vreg f = s.core.live.vreg f) ∧ t.core.live.sq = s.core.live.sq) ∧
    (28 ≤ d.toNat → ∃ r : VReg, r.side = side ∧
      t.core.live.storeQ (d.toNat - 28) = s.core.live.storeQ (d.toNat - 28) ++ [r] ∧ t.core.live.v = s.core.live.v ∧
      (∀ i, i < 4096 / w → (on i → elem w r.data i = (rs.getD i (0, 0)).1 % 2 ^ w) ∧ (¬on i → elem w r.data i = 0))) ∧
    (∀ k, t.core.live.fpflags.getLsbD k = true ↔ s.core.live.fpflags.getLsbD k = true ∨
      ∃ i, i < 4096 / w ∧ on i ∧ (rs.getD i (0, 0)).2.getLsbD k = true) ∧
    (t.core.live.p = s.core.live.p ∧ (∀ e, t.core.live.eng e = s.core.live.eng e) ∧ t.core.live.lq = s.core.live.lq ∧
      t.mem = s.mem)

/-! ### Vector instructions (R156 to R179) -/

/-- Element-wise arithmetic (R98, R154, R156): integer types wrap, floating-point types give the exact result rounded once. -/
def Obligations.VectorArithmetic : Prop :=
  ∀ (s : State) (cu : Cue) (d a b : BitVec 5) (t p : BitVec 3) (ty : VTy), Typed s t allTypes ty →
    let runs := fun (i : Instr) (op : BitVec 7) (g : Nat → Nat → Nat × Flags) =>
      RunsVec s i op cu 1 [] [a, b] [d] fun vs u =>
        u.putElems d p ty.w side7F (List.zipWith g (elemsOf ty vs 0) (elemsOf ty vs 1))
    (∀ f, ty.ieee? = some f →
      let rnd := fun (r : FVal × Bool) => roundOp f .rne r
      runs (.vadd cu d a b t p) 0x20 (fun x y => rnd ((f.decode x).add (f.decode y))) ∧
      runs (.vsub cu d a b t p) 0x21 (fun x y => rnd ((f.decode x).add (f.decode y).neg)) ∧
      runs (.vmul cu d a b t p) 0x22 (fun x y => rnd ((f.decode x).mul (f.decode y))) ∧
      runs (.vmin cu d a b t p) 0x24 (fun x y => f.round .rne ((f.decode x).min (f.decode y))) ∧
      runs (.vmax cu d a b t p) 0x25 (fun x y => f.round .rne ((f.decode x).max (f.decode y))) ∧
      RunsVec s (.vfma cu d a b t p) 0x23 cu 1 [] [a, b] [] fun vs u =>
        u.putElems d p ty.w side7F (List.zipWith (fun (xy : Nat × Nat) z =>
          rnd ((f.decode xy.1).fma (f.decode xy.2) (f.decode z))) (List.zip (elemsOf ty vs 0) (elemsOf ty vs 1))
          (elems ty.w (u.core.live.vreg d).data ty.count))) ∧
    (ty.ieee? = none →
      let wrap := fun (n : Int) => ((n % 2 ^ ty.w).toNat, (0 : Flags))
      runs (.vadd cu d a b t p) 0x20 (fun x y => wrap (ty.int x + ty.int y)) ∧
      runs (.vsub cu d a b t p) 0x21 (fun x y => wrap (ty.int x - ty.int y)) ∧
      runs (.vmul cu d a b t p) 0x22 (fun x y => wrap (ty.int x * ty.int y)) ∧
      runs (.vmin cu d a b t p) 0x24 (fun x y => wrap (min (ty.int x) (ty.int y))) ∧
      runs (.vmax cu d a b t p) 0x25 (fun x y => wrap (max (ty.int x) (ty.int y))) ∧
      RunsVec s (.vfma cu d a b t p) 0x23 cu 1 [] [a, b] [] fun vs u =>
        u.putElems d p ty.w side7F (List.zipWith (fun (xy : Nat × Nat) z => wrap (ty.int xy.1 * ty.int xy.2 + ty.int z))
          (List.zip (elemsOf ty vs 0) (elemsOf ty vs 1)) (elems ty.w (u.core.live.vreg d).data ty.count)))

/-- The unary group (R86, R157): signs and copies bit for bit, and the transcendental forms with the values that R157 states for
special operands and for powers of two. -/
def Obligations.VectorUnary : Prop :=
  (∀ (s : State) (cu : Cue) (d a : BitVec 5) (t p : BitVec 3) (ty : VTy),
    let runs := fun (i : Instr) (g : Nat → Nat × Flags) =>
      RunsVec s i 0x26 cu 1 [] [a] [d] fun vs u => u.putElems d p ty.w side7F ((elemsOf ty vs 0).map g)
    (Typed s t allTypes ty → RunsVec s (.vmov cu d a t p) 0x26 cu 1 [] [a] [d] fun vs u =>
      u.putElems d p ty.w (vs.getD 0 VReg.zero).side ((elemsOf ty vs 0).map fun x => (x, 0))) ∧
    (Typed s t signTypes ty →
      (∀ f, ty.ieee? = some f →
        let nan := fun (x : Nat) => (f.decode x).isNan
        runs (.vabs cu d a t p) (fun x => if nan x then (f.nanCode.getD 0, 0) else (x % 2 ^ (ty.w - 1), 0)) ∧
        runs (.vneg cu d a t p) (fun x => if nan x then (f.nanCode.getD 0, 0)
          else (x % 2 ^ (ty.w - 1) + (if x.testBit (ty.w - 1) then 0 else 2 ^ (ty.w - 1)), 0))) ∧
      (ty.ieee? = none →
        runs (.vabs cu d a t p) (fun x => (((ty.int x).natAbs % 2 ^ ty.w : Int).toNat, 0)) ∧
        runs (.vneg cu d a t p) (fun x => ((-ty.int x % 2 ^ ty.w).toNat, 0)))) ∧
    (Typed s t floatTypes ty → ∀ f, ty.ieee? = some f →
      runs (.vexp2 cu d a t p) (fun x => exp2Round f .rne (f.decode x)) ∧
      runs (.vlog2 cu d a t p) (fun x => log2Round f .rne (f.decode x)) ∧
      runs (.vrcp cu d a t p) (fun x => divRound f .rne (.fin false 1 0) (f.decode x)) ∧
      runs (.vrsq cu d a t p) (fun x => rsqrtRound f .rne (f.decode x)) ∧
      runs (.vsig cu d a t p) (fun x => sigRound f .rne (f.decode x)))) ∧
  (∀ f ∈ [fp32, bf16, fp16], ∀ (g : Bool) (m : Nat) (e : Int) (n : Nat),
    let inf := fun (g : Bool) => f.signed g (f.infCode.getD 0)
    let nan := f.nanCode.getD 0
    exp2Round f .rne (.fin g 0 e) = f.round .rne (.fin false 1 0) ∧ exp2Round f .rne (.inf false) = (inf false, 0) ∧
    exp2Round f .rne (.inf true) = (0, 0) ∧ exp2Round f .rne .nan = (nan, 0) ∧
    (n < 4096 → n ≠ 0 → exp2Round f .rne (.fin g n 0) = f.round .rne (.fin false 1 (if g then -(n : Int) else n))) ∧
    log2Round f .rne (.fin g 0 e) = (inf true, flagDZ) ∧ log2Round f .rne (.inf false) = (inf false, 0) ∧
    log2Round f .rne (.inf true) = (nan, flagNV) ∧ log2Round f .rne .nan = (nan, 0) ∧
    (m ≠ 0 → log2Round f .rne (.fin true m e) = (nan, flagNV)) ∧
    log2Round f .rne (.fin false (2 ^ n) 0) = f.round .rne (.fin false n 0) ∧
    divRound f .rne (.fin false 1 0) (.fin g 0 e) = (inf g, flagDZ) ∧
    divRound f .rne (.fin false 1 0) (.inf g) = (f.signed g 0, 0) ∧ divRound f .rne (.fin false 1 0) .nan = (nan, 0) ∧
    sigRound f .rne (.fin g 0 e) = f.round .rne (.fin false 1 (-1)) ∧
    sigRound f .rne (.inf g) = (if g then (0, 0) else f.round .rne (.fin false 1 0)) ∧ sigRound f .rne .nan = (nan, 0))

/-- Logic, shifts, comparisons and selection (R158 to R160). -/
def Obligations.VectorLogicAndCompare : Prop :=
  ∀ (s : State) (cu : Cue) (d a b : BitVec 5) (t p cond : BitVec 3) (lut : BitVec 4) (ty : VTy),
    let runs := fun (i : Instr) (op : BitVec 7) (g : Nat → Nat → Nat) =>
      RunsVec s i op cu 1 [] [a, b] [d] fun vs u => u.putElems d p ty.w side7F
        (List.zipWith (fun x y => (g x y, 0)) (elemsOf ty vs 0) (elemsOf ty vs 1))
    (Typed s t intTypes ty →
      runs (.vshl cu d a b t p) 0x28 (fun x n => if ty.w ≤ n then 0 else x * 2 ^ n % 2 ^ ty.w) ∧
      runs (.vshr cu d a b t p) 0x29 (fun x n => if ty.w ≤ n then 0 else x / 2 ^ n) ∧
      (∃ r : List VReg → BitVec 4096,
        (RunsVec s (.vlogic cu d a b t p lut) 0x27 cu 2 [] [a, b] [d] fun vs u =>
          u.putElems d p ty.w side7F ((elems ty.w (r vs) ty.count).map fun x => (x, 0))) ∧
        (∀ vs k, k < 4096 → (r vs).getLsbD k = lut.getLsbD (2 * b2n ((vs.getD 0 VReg.zero).data.getLsbD k) +
          b2n ((vs.getD 1 VReg.zero).data.getLsbD k))))) ∧
    (Typed s t sraTypes ty →
      runs (.vsra cu d a b t p) 0x2A
        (fun x n => (ty.int x / 2 ^ (if ty.w ≤ n then ty.w - 1 else n) % 2 ^ ty.w).toNat)) ∧
    (Typed s t allTypes ty →
      (cond.toNat < 7 → (cond = 6 → ty ∈ floatTypes) →
        ∃ r : List VReg → State → BitVec 1024,
          (RunsVec s (.vcmp cu d a b t p cond) 0x2B cu 2 [] [a, b] [] fun vs u =>
            u.modLive fun l => l.setPred (d.setWidth 3) (r vs u)) ∧
          (∀ vs u i, (r vs u).getLsbD i = true ↔ i < ty.count ∧ (u.core.live.pred p).getLsbD i = true ∧
            vcond cond ty ((elemsOf ty vs 0).getD i 0) ((elemsOf ty vs 1).getD i 0) = true)) ∧
      (RunsVec s (.vsel cu d a b t p) 0x2C cu 1 [] [a, b] [d] fun vs u =>
        u.putReg d ⟨pack ty.w ((List.range ty.count).map fun i =>
          if (u.core.live.pred p).getLsbD i then (elemsOf ty vs 0).getD i 0 else (elemsOf ty vs 1).getD i 0), side7F⟩))

/-- The conditions of `vcmp` (R159): on integers, on NaN operands, on finite values with −0 = +0, and on infinities. -/
def Obligations.VectorConditions : Prop :=
  ∀ (ty : VTy) (x y : Nat),
    (ty.ieee? = none →
      vcond 0 ty x y = decide (ty.int x = ty.int y) ∧ vcond 1 ty x y = decide (ty.int x ≠ ty.int y) ∧
      vcond 2 ty x y = decide (ty.int x < ty.int y) ∧ vcond 3 ty x y = decide (ty.int x ≤ ty.int y) ∧
      vcond 4 ty x y = decide (ty.int y < ty.int x) ∧ vcond 5 ty x y = decide (ty.int y ≤ ty.int x)) ∧
    (∀ f, ty.ieee? = some f →
      let u := (f.decode x).isNan || (f.decode y).isNan
      vcond 6 ty x y = u ∧ vcond 1 ty x y = (!vcond 0 ty x y) ∧
      (u = true → vcond 0 ty x y = false ∧ vcond 2 ty x y = false ∧ vcond 3 ty x y = false ∧ vcond 4 ty x y = false ∧
        vcond 5 ty x y = false) ∧
      (∀ g m e h n k, f.decode x = .fin g m e → f.decode y = .fin h n k →
        (m = 0 → n = 0 → vcond 0 ty x y = true) ∧
        let a : Int := (if g then -(m : Int) else m) * 2 ^ (e - min e k).toNat
        let b : Int := (if h then -(n : Int) else n) * 2 ^ (k - min e k).toNat
        vcond 2 ty x y = decide (a < b) ∧ vcond 4 ty x y = decide (b < a) ∧ vcond 0 ty x y = decide (a = b) ∧
        vcond 3 ty x y = decide (a ≤ b) ∧ vcond 5 ty x y = decide (b ≤ a)) ∧
      (∀ g h, f.decode x = .inf g → f.decode y = .inf h →
        vcond 0 ty x y = (g == h) ∧ vcond 2 ty x y = (g && !h) ∧ vcond 3 ty x y = (g || !h) ∧ vcond 4 ty x y = (h && !g) ∧
        vcond 5 ty x y = (h || !g)) ∧
      (∀ g h n k, f.decode x = .inf g → f.decode y = .fin h n k →
        vcond 0 ty x y = false ∧ vcond 2 ty x y = g ∧ vcond 3 ty x y = g ∧ vcond 4 ty x y = !g ∧ vcond 5 ty x y = !g) ∧
      (∀ g m e h, f.decode x = .fin g m e → f.decode y = .inf h →
        vcond 0 ty x y = false ∧ vcond 2 ty x y = !h ∧ vcond 3 ty x y = !h ∧ vcond 4 ty x y = h ∧ vcond 5 ty x y = h))

/-- Scalars in and out, and rearrangement (R161 to R166). -/
def Obligations.VectorScalarsAndRearrangement : Prop :=
  ∀ (s : State) (cu : Cue) (d a b k : BitVec 5) (t p pat : BitVec 3) (imm : BitVec 11) (r up : Bool) (ty : VTy),
    Typed s t allTypes ty →
    let n := fun (u : State) => if r then (u.rs k).toNat else imm.toNat
    let at_ := fun (vs : List VReg) (j i : Nat) => if i < ty.count then (elemsOf ty vs j).getD i 0 else 0
    let scalar := fun (v : Word) => if ty = .bf16 then bf16.round .rne (fp32.decode v.toNat)
      else if ty = .f16 then fp16.round .rne (fp32.decode v.toNat) else (v.toNat % 2 ^ ty.w, 0)
    let each := fun (u : State) (f : Nat → Nat) => u.putElems d p ty.w side7F ((List.range ty.count).map fun i => (f i, 0))
    (RunsVec s (.vsplat cu d a t p) 0x2D cu 1 [a] [] [d] fun _ u =>
      u.putElems d p ty.w side7F (List.replicate ty.count (scalar (u.rs a)))) ∧
    (RunsVec s (.vext cu d a t imm r k) 0x2E cu 2 (if r then [d, k] else [d]) [a] [] fun vs u =>
      u.ws d (if n u < ty.count then
        (match ty.ieee? with
          | some f => if ty = .f32 then BitVec.ofNat 32 (at_ vs 0 (n u))
            else BitVec.ofNat 32 (fp32.round .rne (f.decode (at_ vs 0 (n u)))).1
          | none => BitVec.ofInt 32 (ty.int (at_ vs 0 (n u)))) else 0)) ∧
    (RunsVec s (.vins cu d a t imm r k) 0x2F cu 2 (if r then [a, k] else [a]) [] [] fun _ u =>
      if n u < ty.count then
        (u.putReg d ⟨pack ty.w ((elems ty.w (u.core.live.vreg d).data ty.count).set (n u) (scalar (u.rs a)).1),
          (u.core.live.vreg d).side⟩).orFlags (scalar (u.rs a)).2
      else u) ∧
    (ty ∈ intTypes → RunsVec s (.viota cu d a b t p) 0x30 cu 1 [a, b] [] [d] fun _ u =>
      each u fun i => ((u.rs a).toNat + i * (u.rs b).toNat) % 2 ^ ty.w) ∧
    (RunsVec s (.vperm cu d a b t p) 0x31 cu 1 [] [a, b] [d] fun vs u =>
      each u fun i => at_ vs 0 ((elemsOf ty vs 1).getD i 0)) ∧
    (pat.toNat < 5 → RunsVec s (.vshuf cu d a b t p pat) 0x32 cu 2 [] (if pat = 4 then [a] else [a, b]) [d] fun vs u =>
      each u fun i =>
        let h := ty.count / 2
        if pat = 0 then at_ vs (i % 2) (i / 2) else if pat = 1 then at_ vs (i % 2) (h + i / 2)
        else if pat = 2 then (if i < h then at_ vs 0 (2 * i) else at_ vs 1 (2 * (i - h)))
        else if pat = 3 then (if i < h then at_ vs 0 (2 * i + 1) else at_ vs 1 (2 * (i - h) + 1))
        else at_ vs 0 (ty.count - 1 - i)) ∧
    (RunsVec s (.vslide cu d a b t p imm r k up) 0x33 cu 2 (if r then [k] else []) [a, b] [d] fun vs u =>
      each u fun i =>
        let q : Int := if up then (i : Int) - n u else (i : Int) + n u
        let z := if up then q + ty.count else q
        let seq := if up then elemsOf ty vs 1 ++ elemsOf ty vs 0 else elemsOf ty vs 0 ++ elemsOf ty vs 1
        if 0 ≤ z ∧ z < 2 * ty.count then seq.getD z.toNat 0 else 0) ∧
    (RunsVec s (.vcmprs cu d a t p) 0x3F cu 1 [] [a] [d] fun vs u =>
      u.putReg d ⟨pack ty.w (((List.range ty.count).filter fun i => (u.core.live.pred p).getLsbD i).map fun i =>
        at_ vs 0 i), side7F⟩)

/-- Conversions between formats and scales (R96, R99, R101, R105, R167 to R170), with the readings of log 12. -/
def Obligations.VectorConversions : Prop :=
  ∀ (s : State) (cu : Cue) (d a b : BitVec 5) (p : BitVec 3) (fs fd : BitVec 4) (rnd : BitVec 2) (setm : Bool),
    fs ≠ 15 → fd ≠ 15 → rnd.toNat < 3 →
    let mode := fun (u : State) (i : Nat) => modeOf rnd u.seed u.eng.ridx 1 i
    let advanced := fun (u : State) (n : Nat) => u.advanceRidx rnd n
    let derived := fun (u : State) (n : Nat) (vals : List FVal) =>
      let g := deriveAll fd ((List.range n).map (mode u)) vals
      (u.putReg d ⟨pack (fmtW fd) g.1, sideOf g.2.1⟩).orFlags g.2.2
    (let n := 4096 / fmtW fd;
      let e := 4096 / max (fmtW fs) (fmtW fd);
      let val := fun (vs : List VReg) (i : Nat) => if i < e then (vs.getD 0 VReg.zero).val fs i else .fin false 0 0;
      (RunsVec s (.vcvt cu d a 0 p fs fd rnd false) 0x34 cu 2 [] [a] [d] fun vs u =>
        advanced (u.putUnder d (u.core.live.pred p ||| (BitVec.allOnes 1024 <<< e)) (fmtW fd) side7F
          ((List.range n).map fun i => if i < e then convert fd (mode u i) (val vs i) else (0, 0))) n) ∧
      (fmtScaled fd = true → RunsVec s (.vcvt cu d a 0 0 fs fd rnd true) 0x34 cu 2 [] [a] [d] fun vs u =>
        advanced (derived u n ((List.range n).map (val vs))) n)) ∧
    (fmtW fd = 2 * fmtW fs ∨ fmtW fd = 4 * fmtW fs →
      ∃ w : List VReg → State → State, (RunsVec s (.vwiden cu d a p fs fd rnd) 0x35 cu 2 [] [a] [] w) ∧
        ∀ vs u, d.toNat + fmtW fd / fmtW fs ≤ 28 →
          (∀ f, f.toNat < d.toNat ∨ d.toNat + fmtW fd / fmtW fs ≤ f.toNat → (w vs u).core.live.vreg f = u.core.live.vreg f) ∧
          ∀ i, i < 4096 / fmtW fs →
            let j := i % (fmtW fd / fmtW fs)
            let q := i / (fmtW fd / fmtW fs)
            elem (fmtW fd) ((w vs u).core.live.vreg (d + BitVec.ofNat 5 j)).data q =
              (if (u.core.live.pred p).getLsbD i then (convert fd (mode u i) ((vs.getD 0 VReg.zero).val fs i)).1 % 2 ^ fmtW fd
                else elem (fmtW fd) (u.core.live.vreg (d + BitVec.ofNat 5 j)).data q)) ∧
    (fmtW fs = 2 * fmtW fd ∨ fmtW fs = 4 * fmtW fd →
      let n := 4096 / fmtW fd
      let val := fun (u : State) (i : Nat) =>
        (u.core.live.vreg (a + BitVec.ofNat 5 (i % (fmtW fs / fmtW fd)))).val fs (i / (fmtW fs / fmtW fd))
      (RunsVec s (.vnarrow cu d a p fs fd rnd false) 0x36 cu 2 [] [] [d] fun _ u =>
        advanced (u.putElems d p (fmtW fd) side7F ((List.range n).map fun i => convert fd (mode u i) (val u i))) n) ∧
      (fmtScaled fd = true → RunsVec s (.vnarrow cu d a 0 fs fd rnd true) 0x36 cu 2 [] [] [d] fun _ u =>
        advanced (derived u n ((List.range n).map (val u))) n)) ∧
    (fmtScaled fd = true → RunsVec s (.vscl cu d a b fd setm) 0x37 cu 2 [b] [a] [d] fun vs u =>
      u.putReg d ⟨(vs.getD 0 VReg.zero).data, sideOf ((List.range (fmtScales fd)).map fun j =>
        let old := elem 8 (vs.getD 0 VReg.zero).side j
        if setm then (u.rs b).toNat % 256 else if old = 255 then 255
        else (max 0 (min 254 ((old : Int) + (u.rs b).toInt))).toNat)⟩) ∧
    (RunsVec s (.vscld cu d a 0 false) 0x38 cu 2 [] [a] [d] fun vs u =>
      u.putReg d ⟨(vs.getD 0 VReg.zero).side.setWidth 4096, side7F⟩) ∧
    (RunsVec s (.vscld cu d a b true) 0x38 cu 2 [] [a, b] [d] fun vs u =>
      u.putReg d ⟨(vs.getD 0 VReg.zero).data, (vs.getD 1 VReg.zero).data.extractLsb' 0 256⟩)

/-- Reductions (R171, R172): one 32-bit result, or one for each group, in ascending order in the ordered form, over the enabled
elements alone. The unordered form delivers the value of some tree of additions, which the free values of the model choose (log
6); this statement fixes the ordered form and the integer types. -/
def Obligations.VectorReductions : Prop :=
  ∀ (s : State) (cu : Cue) (d a b : BitVec 5) (t p : BitVec 3) (rnd : BitVec 2) (o : Bool) (fs lg : BitVec 4) (ty : VTy),
    rnd.toNat < 2 → Typed s t allTypes ty → (ty.ieee? = none → rnd = 0) →
    let mode := if rnd = 0 then Mode.rne else Mode.rtz
    let on := fun (vs : List VReg) (u : State) =>
      ((List.range ty.count).filter fun i => (u.core.live.pred p).getLsbD i).map fun i => (elemsOf ty vs 0).getD i 0
    let one_ := fun (u : State) (c : Nat) => u.putReg d ⟨pack 32 [c], side7F⟩
    let ordered := fun (xs : List FVal) =>
      let q := xs.foldl (fun (acc : FVal × Flags) x =>
        let r := roundOp fp32 mode (acc.1.add x)
        (fp32.decode r.1, acc.2 ||| r.2)) (.fin false 0 0, 0)
      ((fp32.round .rne q.1).1, q.2)
    (∀ f, ty.ieee? = some f →
      (RunsVec s (.vredsum cu d a t p rnd true) 0x39 cu 2 [] [a] [d] fun vs u =>
        (one_ u (ordered ((on vs u).map f.decode)).1).orFlags (ordered ((on vs u).map f.decode)).2) ∧
      (∃ g : List VReg → State → State, RunsVec s (.vredsum cu d a t p rnd false) 0x39 cu 2 [] [a] [d] g ∧
        ∀ vs u, (on vs u).length ≤ 1 → (g vs u).core.live.v = (one_ u (((on vs u).map fun x =>
          (fp32.round .rne (f.decode x)).1).getD 0 0)).core.live.v) ∧
      (RunsVec s (.vredmax cu d a t p) 0x3A cu 1 [] [a] [d] fun vs u =>
        one_ u (match (on vs u).map f.decode with | [] => 0 | x :: xs => (fp32.round .rne (xs.foldl FVal.max x)).1)) ∧
      (RunsVec s (.vredmin cu d a t p) 0x3B cu 1 [] [a] [d] fun vs u =>
        one_ u (match (on vs u).map f.decode with | [] => 0 | x :: xs => (fp32.round .rne (xs.foldl FVal.min x)).1))) ∧
    (ty.ieee? = none →
      (∀ z, RunsVec s (.vredsum cu d a t p 0 z) 0x39 cu 2 [] [a] [d] fun vs u =>
        one_ u ((((on vs u).map ty.int).foldl (· + ·) 0) % 2 ^ 32).toNat) ∧
      (RunsVec s (.vredmax cu d a t p) 0x3A cu 1 [] [a] [d] fun vs u =>
        one_ u (match (on vs u).map ty.int with | [] => 0 | x :: xs => ((xs.foldl max x) % 2 ^ 32).toNat)) ∧
      (RunsVec s (.vredmin cu d a t p) 0x3B cu 1 [] [a] [d] fun vs u =>
        one_ u (match (on vs u).map ty.int with | [] => 0 | x :: xs => ((xs.foldl min x) % 2 ^ 32).toNat))) ∧
    (fs.toNat < 13 → (10 ≤ fs.toNat → rnd = 0) → WellFormed (.vdot cu d a b p fs lg rnd o) = true →
      let g := 2 ^ lg.toNat
      let pairs := fun (vs : List VReg) (u : State) (j : Nat) =>
        ((List.range g).filter fun k => (u.core.live.pred p).getLsbD (j * g + k)).map fun k =>
          ((vs.getD 0 VReg.zero).val fs (j * g + k), (vs.getD 1 VReg.zero).val fs (j * g + k))
      let G := 4096 / fmtW fs / g
      (fs.toNat < 10 → ∃ h : List VReg → State → Flags,
        (RunsVec s (.vdot cu d a b p fs lg rnd true) 0x3C cu 2 [] [a, b] [d] fun vs u =>
          (u.putReg d ⟨pack 32 ((List.range G).map fun j => (ordered ((pairs vs u j).map fun x =>
            fp32.decode (roundOp fp32 mode (x.1.mul x.2)).1)).1), side7F⟩).orFlags (h vs u))) ∧
      (10 ≤ fs.toNat → RunsVec s (.vdot cu d a b p fs lg rnd o) 0x3C cu 2 [] [a, b] [d] fun vs u =>
        u.putReg d ⟨pack 32 ((List.range G).map fun j => (((pairs vs u j).map fun x =>
          match (x : FVal × FVal) with
          | (.fin g1 m _, .fin g2 n _) => (if g1 ^^ g2 then -1 else 1) * ((m * n : Nat) : Int)
          | _ => 0).foldl (· + ·) 0 % 2 ^ 32).toNat), side7F⟩))

/-! ### Sorting, segments, softmax and predicates (R173 to R179) -/

/-- `vsortkv` (R173): the 128 pairs are written in an order σ of their positions: the enabled ones first, in key order, with
equal keys in input order, then the disabled ones in input order. -/
def Obligations.VectorSort : Prop :=
  ∀ (s : State) (cu : Cue) (d a b : BitVec 5) (t p : BitVec 3) (desc uns : Bool), t = 0 ∨ t = 3 →
    ∃ σ : List VReg → State → Nat → Nat,
      (RunsVec s (.vsortkv cu d a b t p desc uns) 0x3D cu 2 [] [a, b] [] fun vs u =>
        (u.putReg d ⟨pack 32 ((List.range 128).map fun i => elem 32 (vs.getD 0 VReg.zero).data (σ vs u i)), side7F⟩).putReg (d + 1)
          ⟨pack 32 ((List.range 128).map fun i => elem 32 (vs.getD 1 VReg.zero).data (σ vs u i)), side7F⟩) ∧
      ∀ (vs : List VReg) (u : State),
        let q := σ vs u
        let on := fun (i : Nat) => (u.core.live.pred p).getLsbD i = true
        let n := ((List.range 128).filter fun i => (u.core.live.pred p).getLsbD i).length
        let key := fun (i : Nat) => elem 32 (vs.getD 0 VReg.zero).data (q i)
        let less := fun (x y : Nat) =>
          if t = 0 then
            (fp32.decode x).isNan = false ∧ ((fp32.decode y).isNan = true ∨ FVal.lt (fp32.decode x) (fp32.decode y) = true ∨
              (x = 0x80000000 ∧ y = 0))
          else if uns then x < y else signedOf 32 x < signedOf 32 y
        let before := fun (x y : Nat) => if desc then less y x else less x y
        (∀ i, i < 128 → q i < 128 ∧ (i < n ↔ on (q i))) ∧ (∀ i j, i < 128 → j < 128 → q i = q j → i = j) ∧
        (∀ i j, i < j → j < n → before (key i) (key j) ∨ (¬before (key j) (key i) ∧ q i < q j)) ∧
        (∀ i j, n ≤ i → i < j → j < 128 → q i < q j)

/-- `vsegsum` in the ordered form and on integers (R171, R174): the first element of each run of consecutive enabled elements
with equal keys receives the run's sum, and every other element is 0. -/
def Obligations.VectorSegmentSums : Prop :=
  ∀ (s : State) (cu : Cue) (d a b : BitVec 5) (p : BitVec 3) (rnd : BitVec 2) (o : Bool), rnd.toNat < 2 →
    let mode := if rnd = 0 then Mode.rne else Mode.rtz
    let val := fun (vs : List VReg) (i : Nat) => elem 32 (vs.getD 0 VReg.zero).data i
    let key := fun (vs : List VReg) (i : Nat) => elem 32 (vs.getD 1 VReg.zero).data i
    let on := fun (u : State) (i : Nat) => decide (i < 128) && (u.core.live.pred p).getLsbD i
    let run := fun (vs : List VReg) (u : State) (i : Nat) =>
      if on u i = true ∧ ¬(0 < i ∧ on u (i - 1) = true ∧ key vs (i - 1) = key vs i) then
        (((List.range 128).map (i + ·)).takeWhile fun j => on u j && key vs j == key vs i).map (val vs)
      else []
    let ordered := fun (xs : List Nat) =>
      let q := xs.foldl (fun (acc : FVal × Flags) x =>
        let r := roundOp fp32 mode (acc.1.add (fp32.decode x))
        (fp32.decode r.1, acc.2 ||| r.2)) (.fin false 0 0, 0)
      ((fp32.round .rne q.1).1, q.2)
    (RunsVec s (.vsegsum cu d a b 0 p rnd true) 0x3E cu 2 [] [a, b] [d] fun vs u =>
      (u.putReg d ⟨pack 32 ((List.range 128).map fun i => (ordered (run vs u i)).1), side7F⟩).orFlags
        ((List.range 128).foldl (fun f i => f ||| (ordered (run vs u i)).2) 0)) ∧
    (RunsVec s (.vsegsum cu d a b 3 p 0 o) 0x3E cu 2 [] [a, b] [d] fun vs u =>
      u.putReg d ⟨pack 32 ((List.range 128).map fun i =>
        (((run vs u i).map (signedOf 32)).foldl (· + ·) 0 % 2 ^ 32).toNat), side7F⟩)

/-- Online softmax (R175, R176): the state of each group of `smx.step` and its probabilities, and the quotients and products of
`smx.fin`. -/
def Obligations.OnlineSoftmax : Prop :=
  ∀ (s : State) (cu : Cue) (d a b j : BitVec 5) (p lg : BitVec 3) (init bf scl : Bool),
    let pf := if bf then bf16 else fp32
    let g := 2 ^ lg.toNat
    let inf := FVal.inf true
    (2 ≤ lg.toNat → ∃ (grp : List VReg → State → Nat → Nat × Nat × Nat × List Nat) (fl : List VReg → State → Flags),
      (RunsVec s (.smxStep cu d a b p lg init bf) 0x40 cu 2 [b] [a] [] fun vs u =>
        ((u.putReg d ⟨pack 32 ((List.range (128 / g)).flatMap fun k =>
            [(grp vs u k).1, (grp vs u k).2.1, (grp vs u k).2.2.1, 0]), side7F⟩).putReg (d + 1)
          ⟨pack (if bf then 16 else 32) ((List.range (128 / g)).flatMap fun k => (grp vs u k).2.2.2), side7F⟩).orFlags
            (fl vs u)) ∧
      ∀ (vs : List VReg) (u : State) (k : Nat), k < 128 / g →
        let old := fun (i : Nat) => elem 32 (u.core.live.vreg d).data (4 * k + i)
        let m := if init then inf else fp32.decode (old 0)
        let l := if init then (0 : Nat) else old 1
        let y := (List.range g).map fun i => if (u.core.live.pred p).getLsbD (k * g + i) then
            fp32.decode (roundOp fp32 .rne ((fp32.decode (elem 32 (vs.getD 0 VReg.zero).data (k * g + i))).mul (u.rf b))).1
          else inf
        let mn := y.foldl FVal.max m
        let bad := (m :: y).any fun v => v.isNan || v == FVal.inf false
        let r := grp vs u k
        (bad = true → r = (0x7FC00000, 0x7FC00000, 0x7FC00000, List.replicate g (pf.nanCode.getD 0)) ∧
          fl vs u &&& flagNV = flagNV) ∧
        (bad = false → mn = inf → r.1 = 0xFF800000 ∧ r.2.1 = (fp32.round .rne (fp32.decode l)).1 ∧ r.2.2.1 = 0x3F800000 ∧
          r.2.2.2 = List.replicate g 0) ∧
        (bad = false → mn ≠ inf →
          let c := (exp2Round fp32 .rne (m.add mn.neg).1).1
          let q := y.map fun v => (exp2Round pf .rne (v.add mn.neg).1).1
          let add := fun (x z : FVal) => fp32.decode (roundOp fp32 .rne (x.add z)).1
          let lc := (roundOp fp32 .rne ((fp32.decode l).mul (fp32.decode c))).1
          r.1 = (fp32.round .rne mn).1 ∧ r.2.2 = (c, q) ∧
            r.2.1 = (roundOp fp32 .rne ((fp32.decode lc).add
              (q.foldl (fun acc x => add acc (pf.decode x)) (.fin false 0 0)))).1)) ∧
    (RunsVec s (.smxFin cu d a b p j scl) 0x41 cu 2 [] [a, b] [d] fun vs u =>
      let st := fun (i : Nat) => fp32.decode (elem 32 (vs.getD 0 VReg.zero).data (4 * j.toNat + i))
      u.putElems d p 32 side7F ((elems 32 (vs.getD 1 VReg.zero).data 128).map fun x =>
        if scl then roundOp fp32 .rne ((fp32.decode x).mul (st 2)) else divRound fp32 .rne (fp32.decode x) (st 1)))

/-- The predicate instructions (R152, R177 to R179), by the bits e[i] below E. -/
def Obligations.PredicateGroup : Prop :=
  ∀ (s : State) (cu : Cue) (d a b : BitVec 5) (t p : BitVec 3) (lut : BitVec 4) (ty : VTy),
    let u := opened s cu
    let A := u.core.live.pred (a.setWidth 3)
    let G := u.core.live.pred p
    let E := ty.count
    (Ready s 0x42 cu 0 0 [] → ∃ w : BitVec 1024,
      exec (.plogic cu d a b p lut) s = .next (closed (u.modLive fun l => l.setPred (d.setWidth 3) w) 2 cu) ∧
      ∀ i, i < 1024 → w.getLsbD i = (lut.getLsbD (2 * b2n (A.getLsbD i) +
        b2n ((u.core.live.pred (b.setWidth 3)).getLsbD i)) && G.getLsbD i)) ∧
    (Typed s t allTypes ty → s.core.live.drains = [] →
      (Ready s 0x43 cu 0 0 [] → exec (.pany cu d a t p) s =
        .next (closed (u.wc (d.setWidth 2) ((List.range E).any fun i => A.getLsbD i && G.getLsbD i)) 1 cu)) ∧
      (Ready s 0x44 cu 0 0 [] → exec (.pall cu d a t p) s =
        .next (closed (u.wc (d.setWidth 2) ((List.range E).all fun i => A.getLsbD i || !G.getLsbD i)) 1 cu)) ∧
      (Ready s 0x45 cu 0 0 [d] → exec (.pcnt cu d a t p) s =
        .next (closed (u.ws d (BitVec.ofNat 32 ((List.range E).filter fun i => A.getLsbD i && G.getLsbD i).length)) 1 cu)) ∧
      (Ready s 0x46 cu 0 0 [d] → exec (.pfirst cu d a t p) s =
        .next (closed (u.ws d (match (List.range E).find? fun i => A.getLsbD i && G.getLsbD i with
          | some i => BitVec.ofNat 32 i
          | none => 0xFFFFFFFF)) 1 cu)) ∧
      (Ready s 0x47 cu 0 0 [a] → ∃ w : BitVec 1024,
        exec (.psetn cu d a t p) s = .next (closed (u.modLive fun l => l.setPred (d.setWidth 3) w) 1 cu) ∧
        ∀ i, w.getLsbD i = true ↔ i < (u.rs a).toNat ∧ i < E ∧ G.getLsbD i = true))


/-! ### The matrix engine (R180 to R184, R205 to R220) -/

/-- `sp.stat` and `sp.plain` (R207 to R210): what they check, the codes and scales written, the marks, and the frame. -/
def Obligations.MatrixStationary : Prop :=
  (∀ (s : State) (cu : Cue) (d a b : BitVec 5) (m0 : BitVec 6) (mc : BitVec 7) (fs fb F : BitVec 4) (scl alm S : Bool),
    Ready s 0x48 cu 0 0 [a, b] → fb = 8 ∨ fb = 9 → m0.toNat + mc.toNat ≤ 64 → statPairs F.toNat fb = true →
    (alm = false → F = fs ∧ S = scl) →
    (alm = true → almSm s.almNow.2 < 8 ∧ F.toNat = almB s.almNow.2 ∧ S = (almSm s.almNow.2).testBit 1) →
    let u := opened s cu
    let l := u.core.live
    let fmt := if fb = 8 then BFmt.mxi8 else BFmt.mxi4
    let nm := if fb = 8 then 256 else 512
    let src := (u.rs a).toNat
    let ssrc := (u.rs b).toNat
    let size := 256 * nm * fmtW F / 8
    let i := Instr.spStat cu d a b m0 mc fs fb scl alm
    let dst := fun (m : Nat) => m0.toNat ≤ m ∧ m < m0.toNat + mc.toNat
    let ranged := src % 32 = 0 ∧ src + mc.toNat * size ≤ 2 ^ 22 ∧ (S = true → ssrc + 8 * nm * mc.toNat ≤ 2 ^ 22)
    (src % 32 ≠ 0 → exec i s = .next (u.raise ⟨0x12, u.rs a, 0⟩)) ∧
    (ranged → (∃ m k, dst m ∧ l.mark m = some k ∧ k.group ≠ d.toNat) →
      ∃ m, dst m ∧ exec i s = .next (u.raise ⟨0x17, d.setWidth 32, BitVec.ofNat 32 m⟩)) ∧
    (ranged → (∀ m k, dst m → l.mark m = some k → k.group = d.toNat) →
      (∀ m k, l.mark m = some k → k.group = d.toNat → k.fmt = fmt) →
      (∀ m j, dst m → j < mc.toNat → (src + j * size = 65536 * m ∧ m = m0.toNat + j ∧ size = 65536) ∨
        src + (j + 1) * size ≤ 65536 * m ∨ 65536 * (m + 1) ≤ src + j * size) →
      (S = true → ssrc + 8 * nm * mc.toNat ≤ 65536 * m0.toNat ∨ 65536 * (m0.toNat + mc.toNat) ≤ ssrc) →
      (∀ m, dst m → s.declared m = some (d.toNat, fmt) ∨
        (s.declared m = none ∧ ∀ c, s.scene = some c → ∀ x ∈ c.stats, x.2.2.2 ≠ d.toNat)) → l.pass = none → l.spDrains = [] →
      ∃ v : Live, exec i s = .next (closed (u.setLive v) 2 cu) ∧
        v = { l with scratch := v.scratch, scales := v.scales, marks := v.marks, winOvf := v.winOvf, winCnt := v.winCnt,
                     window := v.window, winBad := v.winBad } ∧
        (∀ m, dst m → v.mark m = some ⟨d.toNat, fmt⟩) ∧ (∀ m, ¬dst m → v.mark m = l.mark m) ∧
        (∀ x, ¬(65536 * m0.toNat ≤ x ∧ x < 65536 * (m0.toNat + mc.toNat)) → v.scratch.get x = l.scratch.get x) ∧
        (∀ x, ¬(4096 * m0.toNat ≤ x ∧ x < 4096 * (m0.toNat + mc.toNat)) → v.scales.get x = l.scales.get x) ∧
        (∀ j kb n k, j < mc.toNat → kb < 8 → n < nm → k < 32 →
          let code := fun (k : Nat) => l.scratch.elem (fmtW F) (src + j * size) ((32 * kb + k) * nm + n)
          let sc := if S then (l.scratch.get (ssrc + j * (8 * nm) + kb * nm + n)).toNat else 0x7F
          let r := deriveBlock fb (List.replicate 32 Mode.rne) ((List.range 32).map fun k => (decodeCode F (code k)).scale sc)
          v.scratch.elem (fmtW fb) (65536 * (m0.toNat + j)) ((32 * kb + k) * nm + n) =
            (if F = fb then code k else r.2.1.getD k 0) % 2 ^ fmtW fb ∧
          (v.scales.get (4096 * (m0.toNat + j) + kb * nm + n)).toNat = if F = fb then sc else r.1))) ∧
  (∀ (s : State) (cu : Cue) (d : BitVec 5) (m0 : BitVec 6) (mc : BitVec 7) (g : Bool), Ready s 0x49 cu 0 0 [] →
    let u := opened s cu
    let l := u.core.live
    let named := fun (m : Nat) => if g then ∃ k, l.mark m = some k ∧ k.group = d.toNat
      else m0.toNat ≤ m ∧ m < m0.toNat + mc.toNat
    ((∃ m, named m ∧ s.declared m ≠ none) → ∃ m k, named m ∧ s.declared m = some k ∧
      exec (.spPlain cu d m0 mc g) s = .next (u.raise ⟨0x17, BitVec.ofNat 32 k.1, BitVec.ofNat 32 m⟩)) ∧
    ((∀ m, named m → s.declared m = none) → l.pass = none →
      ∃ v : Live, exec (.spPlain cu d m0 mc g) s = .next (closed (u.setLive v) 2 cu) ∧
        v = { l with marks := v.marks, winOvf := v.winOvf, winCnt := v.winCnt, window := v.window, winBad := v.winBad } ∧
        (∀ m, named m → v.mark m = none) ∧ (∀ m, ¬named m → v.mark m = l.mark m)))

/-- `mm.feed` and `mm.pass` (R102 to R104, R181, R211 to R215): the vectors that enter the row buffer; the tile elements and the
tile status of a pass whose vectors are present; a pass that still lacks vectors takes those it finds; and the waits that are
hopeless. -/
def Obligations.MatrixFeedAndPass : Prop :=
  (∀ (s : State) (cu : Cue) (d a b : BitVec 5) (fs F : BitVec 4) (as alm S : Bool) (w n : BitVec 3),
    (alm = false → F = fs ∧ S = (as && fmtScaled fs)) →
    (alm = true → almSm s.almNow.2 < 8 ∧ (almA s.almNow.2 ≤ 10 ∨ almA s.almNow.2 = 12) ∧ F.toNat = almA s.almNow.2 ∧
      S = ((almSm s.almNow.2).testBit 0 && fmtScaled F)) → w.toNat < 5 →
    let i := Instr.mmFeed cu d a b fs as alm w n
    let W := [4, 6, 8, 12, 16].getD w.toNat 0
    let k := n.toNat + 1
    let fed := fun (u v : Live) (vals : Nat → Nat → FVal) => ∃ vs : List AVec, vs.length = k ∧
      (∀ j, j < k → Aligned W (vals j) (vs.getD j ⟨0, [], [], []⟩)) ∧
      v = { u with rowbuf := u.rowbuf ++ vs, winOvf := u.winOvf || decide (256 ≤ u.winCnt), winCnt := min 256 (u.winCnt + 1),
                   window := if u.winCnt < 256 then u.window ++ [.feed vs] else u.window }
    (Ready s 0x4A cu 0 0 [a, b] → d = 0 →
      let u := opened s cu
      let sc := (u.rs a).toNat
      let ss := (u.rs b).toNat
      (sc % 32 ≠ 0 → exec i s = .next (u.raise ⟨0x12, u.rs a, 0⟩)) ∧
      (sc % 32 = 0 → sc + k * 256 * fmtW F / 8 ≤ 2 ^ 22 → (S = true → ss + 8 * k ≤ 2 ^ 22) →
        (8 < s.core.live.rowbuf.length + k → s.core.live.pass = none → exec i s = .next (u.raise ⟨8, 4, 0⟩)) ∧
        (s.core.live.rowbuf.length + k ≤ 8 → s.core.live.pass = none → s.core.live.spDrains = [] →
          ∃ v : Live, exec i s = .next (closed (u.setLive v) 2 cu) ∧ fed u.core.live v fun j e =>
            let x := decodeCode F (s.core.live.scratch.elem (fmtW F) sc (256 * j + e))
            if S then x.scale (s.core.live.scratch.get (ss + 8 * j + e / 32)).toNat else x))) ∧
    (d ≠ 0 → s.core.live.rowbuf.length + k ≤ 8 → s.core.live.pass = none → ∀ (es : List VReg) (u : State),
      VecReady s 0x4A cu [a, b] (List.replicate ((k * 256 * fmtW F / 8 + 511) / 512) d) [] es u →
      ∃ v : Live, exec i s = .next (closed (u.setLive v) 2 cu) ∧ fed u.core.live v fun j e =>
        let per := 4096 / fmtW F
        let r := es.getD ((256 * j + e) / per) VReg.zero
        let x := decodeCode F (elem (fmtW F) r.data ((256 * j + e) % per))
        if S then x.scale (elem 8 r.side ((256 * j + e) % per / 32)) else x)) ∧
  (∀ (s : State) (cu : Cue) (d a : BitVec 5) (kd w : BitVec 3) (nv row0 : BitVec 5) (f : Bool) (first count : Nat) (fmt : BFmt),
    Ready s 0x4B cu 0 0 [] → d.toNat < 8 → w.toNat < 5 → row0.toNat + nv.toNat < 32 →
    let u := opened s cu
    let l := u.core.live
    let i := Instr.mmPass cu d a kd w nv row0 f
    let W := [4, 6, 8, 12, 16].getD w.toNat 0
    let K := 2 ^ kd.toNat
    let rows := nv.toNat + 1
    let per := match fmt with
      | .mxi8 => 1
      | .mxi4 => 2
    let T := count / K * per
    ((∀ m k, l.mark m = some k → k.group ≠ a.toNat) → exec i s = .next (u.raise ⟨0x17, a.setWidth 32, 64⟩)) ∧
    (0 < count → (∀ m, (first ≤ m ∧ m < first + count) ↔ l.mark m = some ⟨a.toNat, fmt⟩) →
      (∀ m k, l.mark m = some k → k.group = a.toNat → k.fmt = fmt) → count % K = 0 → d.toNat + T ≤ 8 →
      (l.pass = none → (∃ v ∈ l.rowbuf.take (rows * K), v.w ≠ W) →
        exec i s = .next (u.raise ⟨0x17, a.setWidth 32, BitVec.ofNat 32 first⟩)) ∧
      (l.pass ≠ none → exec i s = .next (u.raise ⟨8, 4, 0⟩)) ∧
      (l.pass = none → l.spDrains = [] → (∀ v ∈ l.rowbuf.take (rows * K), v.w = W) → rows * K ≤ l.rowbuf.length →
        let vec := fun (r c : Nat) => l.rowbuf.getD (r * K + c) ⟨0, [], [], []⟩
        let blocks := fun (q r c : Nat) => (List.range (8 * K)).map fun b =>
          innerSum l fmt (vec r (b / 8)) (first + q / per * K + b / 8) (b % 8) (256 * (q % per) + c)
        let add := fun (x : Nat × Bool × Bool × Bool) (p : FVal) =>
          let y := (roundOp fp32 .rne ((fp32.decode x.1).add p)).1
          (y, x.2.1, x.2.2.1 || (fp32.decode y).isInf, x.2.2.2 || (fp32.decode y).isNan)
        let close := fun (x : (Nat × Bool × Bool × Bool) × Option (Int × Int × Nat)) => match x.2 with
          | some (y, e, _) => add x.1 (FVal.ofInt y e)
          | none => x.1
        let grow := fun (x : Nat × Bool × Bool × Bool) (y e : Int) (n : Nat) =>
          ((x.1, x.2.1 || decide (2 ^ 23 - 1 < y) || decide (y < -(2 ^ 23 - 1)), x.2.2),
            some (max (-(2 ^ 23 - 1)) (min (2 ^ 23 - 1) y), e, n))
        let final := fun (q r c : Nat) =>
          let x0 := ((l.tileAt (d.toNat + q) (row0.toNat + r) c).toNat, false, false, false)
          if f then
            close ((blocks q r c).foldl (fun st b => match b, st.2 with
              | none, _ => (add (close st) .nan, none)
              | some (y, e), some (y', e', n) =>
                if e' = e ∧ n < 8 then grow st.1 (y' + y) e (n + 1) else grow (close st) y e 1
              | some (y, e), none => grow st.1 y e 1) (x0, none))
          else (blocks q r c).foldl (fun x b => match b with
            | none => add x .nan
            | some (y, e) => add x (FVal.ofInt y e)) x0
        ∃ v : Live, exec i s = .next (closed (u.setLive v) 2 cu) ∧
          v = { l with em := { l.em with retire := v.em.retire }, tok := v.tok, told := v.told, tiles := v.tiles, accst := v.accst, pass := none,
                       rowbuf := l.rowbuf.drop (rows * K), winOvf := v.winOvf, winCnt := v.winCnt, window := v.window,
                       winBad := v.winBad, winMacros := v.winMacros } ∧
          (∀ q r c, q < T → r < rows → c < 256 →
            v.tileAt (d.toNat + q) (row0.toNat + r) c = BitVec.ofNat 32 (final q r c).1) ∧
          (∀ t r c, t < 8 → r < 32 → c < 256 →
            ¬(d.toNat ≤ t ∧ t < d.toNat + T ∧ row0.toNat ≤ r ∧ r < row0.toNat + rows) → v.tileAt t r c = l.tileAt t r c) ∧
          (∀ t k, t < 8 → k < 4 → (v.accst.getLsbD (4 * t + k) = true ↔ l.accst.getLsbD (4 * t + k) = true ∨
            ∃ q r c, q < T ∧ r < rows ∧ c < 256 ∧ t = d.toNat + q ∧
              [(final q r c).2.1, (final q r c).2.2.1, (final q r c).2.2.2, false].getD k false = true))) ∧
      (l.pass = none → l.spDrains = [] → (∀ v ∈ l.rowbuf.take (rows * K), v.w = W) → l.rowbuf.length < rows * K →
        ∃ (v : Live) (p : PassRun), exec i s = .next (issued (u.setLive v) 2 cu) ∧ v.pass = some p ∧ v.rowbuf = [] ∧
          p.rows * K + p.part.length = l.rowbuf.length ∧ p.part.length < K)))

/-- `mm.tile`, `mm.zero`, `mm.rd` and `mm.drain` (R183, R184, R217, R220, R227): tiles zeroed and the marker set, a tile and its
status cleared, one element read, and rows converted into the scratchpad or into lq3. A drain to the scratchpad issues with its writes,
one or more to each bank, still to be made; they give its bytes in whatever order the banks receive them; and one of them at a time is
made, in issue order at each bank and none at a bank that the pass under way reads, and the drain completes with the last of them. -/
def Obligations.MatrixTilesAndDrain : Prop :=
  (∀ (s : State) (cu : Cue) (d : BitVec 5) (n : BitVec 3), Ready s 0x4C cu 0 0 [] →
    let u := opened s cu
    let l := u.core.live
    (l.pass ≠ none → exec (.mmTile cu d n) s = .next (u.raise ⟨8, 4, 0⟩)) ∧
    (l.pass = none → ∃ v : Live, exec (.mmTile cu d n) s = .next (closed (u.setLive v) 1 cu) ∧
      v = { l with tiles := v.tiles, winCur := d.setWidth 3, winCv := true, winCnt := 0, winOvf := false,
                   winSet := (d.toNat, n.toNat + 1), window := [], retained := l.rowbuf, winBad := false, winMacros := [] } ∧
      ∀ t r c, r < 32 → c < 256 →
        v.tileAt t r c = if d.toNat ≤ t ∧ t ≤ d.toNat + n.toNat then 0 else l.tileAt t r c)) ∧
  (∀ (s : State) (cu : Cue) (d : BitVec 5), Ready s 0x4D cu 0 0 [] → d.toNat < 8 →
    let u := opened s cu
    let l := u.core.live
    (∀ p, l.pass = some p → p.hits d.toNat = true → exec (.mmZero cu d) s = .next (u.raise ⟨8, 4, 0⟩)) ∧
    (l.pass = none → ∃ v : Live, exec (.mmZero cu d) s = .next (closed (u.setLive v) 1 cu) ∧
      v = { l with tiles := v.tiles, accst := v.accst, winOvf := v.winOvf, winCnt := v.winCnt, window := v.window,
                   winBad := v.winBad } ∧
      (∀ t r c, r < 32 → c < 256 → v.tileAt t r c = if t = d.toNat then 0 else l.tileAt t r c) ∧
      ∀ k, v.accst.getLsbD k = (l.accst.getLsbD k && !(decide (4 * d.toNat ≤ k) && decide (k < 4 * d.toNat + 3))))) ∧
  (∀ (s : State) (cu : Cue) (d a b : BitVec 5) (tile : BitVec 3) (row : BitVec 5) (col : BitVec 8) (imm : Bool),
    Ready s 0x4F cu 0 0 [d, a, b] → s.core.live.pass = none →
    let u := opened s cu
    let r := if imm then row.toNat else (u.rs a).toNat
    let c := if imm then col.toNat else (u.rs b).toNat
    exec (.mmRd cu d a b tile row col imm) s = .next (closed (u.ws d (if r < 32 ∧ c < 256 then
      s.core.live.tileAt tile.toNat r c else 0)) 2 cu)) ∧
  (∀ (s : State) (cu : Cue) (d a b : BitVec 5) (tile : BitVec 3) (fd F : BitVec 4) (rnd : BitVec 2) (ds alm D : Bool)
      (row0 nr : BitVec 5), Ready s 0x4E cu 0 0 [a, b] →
    (alm = false → F = fd ∧ D = (ds && fmtScaled fd)) →
    (alm = true → almSm s.almNow.2 < 8 ∧ (almOut s.almNow.2 ≤ 10 ∨ almOut s.almNow.2 = 12 ∨ almOut s.almNow.2 = 13) ∧
      F.toNat = almOut s.almNow.2 ∧ D = ((almSm s.almNow.2).testBit 2 && fmtScaled F)) → s.core.live.pass = none →
    let u := opened s cu
    let l := u.core.live
    let i := Instr.mmDrain cu d a b tile fd rnd ds alm row0 nr
    let k := nr.toNat + 1
    let w := fmtW F
    let dc := (u.rs a).toNat
    let dsc := (u.rs b).toNat
    let bits := fun (r c : Nat) => (l.tileAt tile.toNat (row0.toNat + r) c).toNat
    let blk := fun (r kb : Nat) => deriveBlock F
      ((List.range 32).map fun x => modeOf rnd u.seed u.eng.ridx 2 (256 * r + (32 * kb + x)))
      ((List.range 32).map fun x => fp32.decode (bits r (32 * kb + x)))
    let code := fun (r c : Nat) => if F = 0 then bits r c else if D then (blk r (c / 32)).2.1.getD (c % 32) 0
      else (convert F (modeOf rnd u.seed u.eng.ridx 2 (256 * r + c)) (fp32.decode (bits r c))).1
    let scale := fun (r kb : Nat) => if D then (blk r kb).1 else 0x7F
    let ridx := if rnd = 2 then l.em.ridx + BitVec.ofNat 32 (256 * k) else l.em.ridx
    let frame := fun (v : Live) => v = { l with
      em := { l.em with ridx := ridx, retire := v.em.retire }, tok := v.tok, told := v.told, lq := v.lq,
      drains := v.drains, spDrains := v.spDrains, winOvf := v.winOvf, winCnt := v.winCnt, window := v.window, winBad := v.winBad }
    (d = 0 →
      (dc % 32 ≠ 0 → exec i s = .next (u.raise ⟨0x12, u.rs a, 0⟩)) ∧
      (dc % 32 = 0 → dc + 32 * w * k ≤ 2 ^ 22 → (fmtScaled F = true → dsc + 8 * k ≤ 2 ^ 22) →
        (fmtScaled F = true → dc + 32 * w * k ≤ dsc ∨ dsc + 8 * k ≤ dc) →
        ∃ (v : Live) (parts : List (Nat × List Byte)), exec i s = .next (issued (u.setLive v) 2 cu) ∧ frame v ∧ v.lq = l.lq ∧
          v.drains = l.drains ∧ v.spDrains = l.spDrains ++ [⟨l.seq, parts⟩] ∧
          (∀ p ∈ parts, 0 < p.2.length ∧ p.1 / 65536 = (p.1 + p.2.length - 1) / 65536) ∧
          ∀ q : List (Nat × List Byte), q.Perm parts →
            let m := q.foldl (fun m p => m.write p.1 p.2) l.scratch
            (∀ r c, r < k → c < 256 → m.elem w dc (256 * r + c) = code r c % 2 ^ w) ∧
            (fmtScaled F = true → ∀ r kb, r < k → kb < 8 → (m.get (dsc + 8 * r + kb)).toNat = scale r kb) ∧
            (∀ x, ¬(dc ≤ x ∧ x < dc + 32 * w * k) → ¬(fmtScaled F = true ∧ dsc ≤ x ∧ x < dsc + 8 * k) →
              m.get x = l.scratch.get x))) ∧
    (d ≠ 0 → l.drains = [] →
      let n := (32 * w * k + 511) / 512
      let m := min n (8 - (l.loadQ 3).length)
      let per := 4096 / w
      ∃ (v : Live) (es : List VReg), es.length = n ∧ frame v ∧ v.spDrains = l.spDrains ∧
        exec i s = .next (if m = n then closed (u.setLive v) 2 cu else issued (u.setLive v) 2 cu) ∧
        v.loadQ 3 = l.loadQ 3 ++ (es.take m).map (fun r => ⟨0, true, r, none, none, none⟩) ∧
        (∀ q, q ≠ 3 → v.loadQ q = l.loadQ q) ∧ v.drains = (if m = n then [] else [(l.seq, es.drop m)]) ∧
        (∀ r c, r < k → c < 256 →
          elem w (es.getD ((256 * r + c) / per) VReg.zero).data ((256 * r + c) % per) = code r c % 2 ^ w) ∧
        (∀ j x, j < n → x < 32 → elem 8 (es.getD j VReg.zero).side x =
          if fmtScaled F = true ∧ x < per / 32 ∧ j * (per / 32) + x < 8 * k then
            scale ((j * (per / 32) + x) / 8) ((j * (per / 32) + x) % 8) else 0x7F))) ∧
  (∀ (s : State), s.core.live.drainReady ≠ [] →
    let l := s.core.live
    let all := l.spDrains.flatMap fun d => d.parts.map fun p => (d.seq, p)
    ∃ (y : Nat × Nat × List Byte) (pre post : List (Nat × Nat × List Byte)) (t : State), all = pre ++ y :: post ∧
      (∀ z ∈ pre, ∀ m n, m < z.2.2.length → n < y.2.2.length → (z.2.1 + m) / 4 ≠ (y.2.1 + n) / 4) ∧ l.passReads y.2.1 = false ∧
      exec (.instructionComplete .m) s = .next t ∧ t.core.live.scratch = l.scratch.write y.2.1 y.2.2 ∧
      t.core.live.spDrains = (l.spDrains.map fun d => if d.seq = y.1 then { d with parts := d.parts.erase y.2 } else d).filter
        (fun d => !d.parts.isEmpty) ∧
      ((∀ d ∈ t.core.live.spDrains, d.seq ≠ y.1) → ∀ r ∈ t.core.live.em.retire, r.seq = y.1 → r.done = true) ∧
      (∀ e, e ≠ .m → t.core.live.eng e = s.core.live.eng e) ∧ t.mem = s.mem)

/-! ### The scratchpad and the bank engine (R108, R221 to R228, R296, R299) -/

/-- `ld.sp`, `st.sp`, `lqskip` and `alm.w` (R108, R221, R296): the checks of an offset, the entry loaded, the command that a store
gives to its banks, the entries discarded, and the almanac entry written. TVAL0 of SPADDR, the low half of the access's own offset, is
the model's choice, as the spec does not say which part of it (log 38). -/
def Obligations.ScratchpadAccess : Prop :=
  (∀ (s : State) (cu : Cue) (q base : BitVec 5) (off : BitVec 9), Ready s 0x50 cu 0 0 [] → 28 ≤ q.toNat →
    let u := opened s cu
    let l := u.core.live
    let o := u.ra base + off.signExtend 64 * 512
    let i := Instr.ldSp cu q base off
    let k := q.toNat - 28
    (o.toNat % 64 ≠ 0 → exec i s = .next (u.raise ⟨0x12, o.extractLsb' 0 32, o.extractLsb' 32 32⟩)) ∧
    (o.toNat % 64 = 0 → 4194304 - 512 < o.toNat → exec i s = .next (u.raise ⟨0x16, o.extractLsb' 0 32, 0⟩)) ∧
    (o.toNat % 64 = 0 → o.toNat ≤ 4194304 - 512 → 8 ≤ (l.loadQ k).length → exec i s = .next (u.stall (.lqRoom k))) ∧
    (o.toNat % 64 = 0 → o.toNat ≤ 4194304 - 512 → (l.loadQ k).length < 8 →
      ∃ (es : List LEntry) (x : BitVec 4096),
        exec i s = .next (closed (u.setLive (l.setLoadQ k (es ++ [⟨l.seq, true, ⟨x, side7F⟩, none, none, none⟩]))) 1 cu) ∧
        es.length = (l.loadQ k).length ∧ ((∀ e ∈ l.loadQ k, e.filled = false → e.seq ≠ l.seq) → es = l.loadQ k) ∧
        ∀ n, n < 512 → elem 8 x n = (l.scratch.get (o.toNat + n)).toNat)) ∧
  (∀ (s : State) (cu : Cue) (base : BitVec 5) (off : BitVec 9), Ready s 0x51 cu 0 0 [base] →
    let u := opened s cu
    let l := u.core.live
    let o := u.rs base + off.signExtend 32 * 512
    let i := Instr.stSp cu base off
    let touched := fun (j : Nat) => j < 64 ∧ o.toNat < 65536 * (j + 1) ∧ 65536 * j < o.toNat + 512
    (o.toNat % 64 ≠ 0 → exec i s = .next (u.raise ⟨0x12, o, 0⟩)) ∧
    (o.toNat % 64 = 0 → 4194304 - 512 < o.toNat → exec i s = .next (u.raise ⟨0x16, o, 0⟩)) ∧
    (o.toNat % 64 = 0 → o.toNat ≤ 4194304 - 512 → l.storeQ 3 = [] → exec i s = .next (u.stall (.sqEntry 3 1))) ∧
    (∀ e es, o.toNat % 64 = 0 → o.toNat ≤ 4194304 - 512 → l.storeQ 3 = e :: es → (∀ j, touched j → (l.fifo j).length < 8) →
      ∃ v : Live, exec i s = .next (issued (u.setLive v) 1 cu) ∧
        v = { l.setStoreQ 3 es with bankFifo := v.bankFifo, bankLeft := v.bankLeft } ∧
        (∀ j, touched j → v.fifo j = l.fifo j ++ [⟨l.seq, i, o, 0, 0, 0, 0, e.data⟩]) ∧
        (∀ j, ¬touched j → v.fifo j = l.fifo j))) ∧
  (∀ (s : State) (cu : Cue) (d : BitVec 5) (n : BitVec 2) (es rest : List LEntry), Ready s 0x72 cu 0 0 [] → 28 ≤ d.toNat →
    s.core.live.loadQ (d.toNat - 28) = es ++ rest → es.length = n.toNat + 1 → (∀ e ∈ es, e.filled = true) →
    exec (.lqskip cu d n) s =
      .next (closed ((opened s cu).setLive ((opened s cu).core.live.setLoadQ (d.toNat - 28) rest)) 1 cu)) ∧
  (∀ (s : State) (cu : Cue) (a b : BitVec 5) (e : BitVec 4) (ri : Bool), Ready s 0x7B cu 0 0 [a, b] →
    let u := opened s cu
    let k := if ri then (u.rs b).toNat % 16 else e.toNat
    ∃ x : Vector Word 16, exec (.almW cu a b e ri) s = .next (closed (u.modLive fun l => { l with alm := x }) 2 cu) ∧
      vget x k 0 = u.rs a ∧ ∀ j, j ≠ k → vget x j 0 = vget s.core.live.alm j 0)

/-- The issue of the bank commands (R95, R222, R223, R299): ALIGN and SPADDR in register order, the wait for a slot in every bank, and
the command that enters the FIFO of each of its banks. That ALIGN of every register comes before SPADDR of any is the model's choice
(log 38). -/
def Obligations.BankCommands : Prop :=
  (∀ (s : State) (cu : Cue) (d a b k : BitVec 5) (nb : BitVec 6) (ft fs : BitVec 4) (len : BitVec 11) (rnd op : BitVec 2)
      (acc o : Bool),
    let u := opened s cu
    let l := u.core.live
    let L := len.toNat + 1
    let count := nb.toNat + 1
    let n := fun (w : Nat) => L * (256 / w)
    let enters := fun (i : Instr) (opc : BitVec 7) (a b k : BitVec 5) (rnd : BitVec 2) (w dal dlen : Nat)
        (srcs : List (Word × Nat × Nat)) =>
      Ready s opc cu 0 0 [d, a, b, k] →
      let dv := u.rs d
      let f := dv.toNat / 65536 % 64
      let odd := fun (r : Word × Nat × Nat) => r.1.toNat % 65536 % r.2.1 ≠ 0
      let far := fun (r : Word × Nat × Nat) => 65536 ≤ r.1.toNat ∨ 65536 < r.1.toNat % 65536 + r.2.2
      let dfar := 2 ^ 22 ≤ dv.toNat ∨ 64 < f + count ∨ 65536 < dv.toNat % 65536 + dlen
      let mine := fun (j : Nat) => f ≤ j ∧ j < f + count
      (∀ pre r post, (dv, dal, dlen) :: srcs = pre ++ r :: post → (∀ x ∈ pre, ¬odd x) → odd r →
        exec i s = .next (u.raise ⟨0x12, r.1, 0⟩)) ∧
      ((∀ x ∈ (dv, dal, dlen) :: srcs, ¬odd x) →
        (dfar → exec i s = .next (u.raise ⟨0x16, dv, 0⟩)) ∧
        (¬dfar →
          (∀ pre r post, srcs = pre ++ r :: post → (∀ x ∈ pre, ¬far x) → far r → exec i s = .next (u.raise ⟨0x16, r.1, 0⟩)) ∧
          ((∀ x ∈ srcs, ¬far x) →
            ((∃ j, mine j ∧ 8 ≤ (l.fifo j).length) →
              exec i s = .next (u.stall (.bankRoom ((List.range count).map fun j => f + j)))) ∧
            ((∀ j, mine j → (l.fifo j).length < 8) →
              ∃ v : Live, exec i s = .next (issued (u.setLive v) 2 cu) ∧
                v = { l with eb := { l.eb with ridx := if rnd = 2 then l.eb.ridx + BitVec.ofNat 32 (n w * count) else l.eb.ridx },
                             bankFifo := v.bankFifo, bankLeft := l.bankLeft ++ [(l.seq, count)] } ∧
                (∀ j, mine j → v.fifo j = l.fifo j ++ [⟨l.seq, i, dv, u.rs a, u.rs b, u.rs k, l.eb.ridx, 0⟩]) ∧
                (∀ j, ¬mine j → v.fifo j = l.fifo j)))))
    let w := fmtW ft
    let src := fun (r : BitVec 5) => (u.rs r, 32, 32 * L)
    enters (.bkAdd cu d a b nb ft len rnd) 0x52 a b 0 rnd w 32 (32 * L) [src a, src b] ∧
    enters (.bkMul cu d a b nb ft len rnd) 0x53 a b 0 rnd w 32 (32 * L) [src a, src b] ∧
    enters (.bkFma cu d a b nb ft len rnd) 0x54 a b 0 rnd w 32 (32 * L) [src a, src b] ∧
    enters (.bkMax cu d a b nb ft len) 0x55 a b 0 0 w 32 (32 * L) [src a, src b] ∧
    enters (.bkMin cu d a b nb ft len) 0x56 a b 0 0 w 32 (32 * L) [src a, src b] ∧
    enters (.bkScale cu d a nb ft len rnd k) 0x57 a 0 k rnd w 32 (32 * L) [src a] ∧
    enters (.bkExpsum cu d a b nb ft len rnd k o) 0x58 a b k rnd w 32 (32 * L) [src a, (u.rs b, 4, 4)] ∧
    enters (.bkRed cu d a nb ft len rnd op acc o) 0x59 a 0 0 rnd w 4 4 [src a] ∧
    enters (.bkCvt cu d a nb ft len rnd fs) 0x5A a 0 0 rnd (max (fmtW fs) w) 32 (n (max (fmtW fs) w) * w / 8)
      [(u.rs a, 32, n (max (fmtW fs) w) * fmtW fs / 8)] ∧
    enters (.bkFill cu d nb ft len k) 0x5B 0 0 k 0 w 32 (32 * L) []) ∧
  (∀ (s : State) (cu : Cue) (d a : BitVec 5) (len : BitVec 11), Ready s 0x5C cu 0 0 [d, a] →
    let u := opened s cu
    let l := u.core.live
    let i := Instr.bkCopy cu d a len
    let n := 32 * (len.toNat + 1)
    let x := u.rs d
    let y := u.rs a
    let in_ := fun (z : Word) (j : Nat) => z.toNat < 65536 * (j + 1) ∧ 65536 * j < z.toNat + n
    (x.toNat % 32 ≠ 0 → exec i s = .next (u.raise ⟨0x12, x, 0⟩)) ∧
    (x.toNat % 32 = 0 → y.toNat % 32 ≠ 0 → exec i s = .next (u.raise ⟨0x12, y, 0⟩)) ∧
    (x.toNat % 32 = 0 → y.toNat % 32 = 0 →
      (4194304 < x.toNat + n → exec i s = .next (u.raise ⟨0x16, x, 0⟩)) ∧
      (x.toNat + n ≤ 4194304 → 4194304 < y.toNat + n → exec i s = .next (u.raise ⟨0x16, y, 0⟩)) ∧
      (x.toNat + n ≤ 4194304 → y.toNat + n ≤ 4194304 → (∀ j, in_ x j ∨ in_ y j → (l.fifo j).length < 8) →
        ∃ v : Live, exec i s = .next (issued (u.setLive v) 2 cu) ∧
          v = { l with bankFifo := v.bankFifo, bankLeft := l.bankLeft ++ [(l.seq, 1)] } ∧
          (∀ j, in_ x j ∨ in_ y j → v.fifo j = l.fifo j ++ [⟨l.seq, i, x, y, 0, 0, 0, 0⟩]) ∧
          (∀ j, ¬(in_ x j ∨ in_ y j) → v.fifo j = l.fifo j))))

/-- A bank performs the command at the head of its FIFO (R224, R225, R228, R299): the elements written, with the sources in place
or clear of the destination; the bytes outside the destination stay; the command leaves the FIFO and completes with its last
part. At a macro of a group it is performed together at every macro of the group that it writes, once it heads the FIFO of each. A
command that would write a macro which the pass under way has begun to read, its first row formed, waits. That an ordered sum begins at +0 is the
model's choice (log 38). -/
def Obligations.BankPerform : Prop :=
  ∀ (s : State) (j : Nat) (c : BankCmd) (rest : List BankCmd), j < 64 → s.core.live.fifo j = c :: rest →
    let l := s.core.live
    let od := fun (k : Nat) => 65536 * k + c.dv.toNat % 65536
    let oa := fun (k : Nat) => 65536 * k + c.av.toNat % 65536
    let ob := fun (k : Nat) => 65536 * k + c.bv.toNat % 65536
    let rel := fun (k : Nat) => k - c.dv.toNat / 65536 % 64
    let joins := fun (k : Nat) => k = j ∨ (k < 64 ∧ (∃ x ∈ l.fifo k, x.seq = c.seq) ∧
      ∃ a b, l.mark j = some a ∧ l.mark k = some b ∧ a.group = b.group)
    let alone := ∀ k, joins k → k = j
    let copies := ∃ cu d a len, c.instr = .bkCopy cu d a len
    let heads := copies ∨ ∀ k, joins k → ∃ x xs, l.fifo k = x :: xs ∧ x.seq = c.seq
    let at_ := fun (m : Scratch) (w base i : Nat) => m.elem w base i
    let apart := fun (x n y m : Nat) => x + n ≤ y ∨ y + m ≤ x
    let fits := fun (n m k : Nat) => alone ∨ (c.dv.toNat % 65536 + n ≤ 65536 ∧ c.av.toNat % 65536 + m ≤ 65536 ∧
      c.bv.toNat % 65536 + k ≤ 65536)
    let performs := fun (lo hi : Nat → Nat) (r : Nat → Scratch → Prop) =>
      ∃ (v : Live) (f : Nat) (js : List Nat), js.Nodup ∧ (∀ k, k ∈ js ↔ joins k) ∧ exec (.bankCommandStart j) s = .next ({ s with free := f }.setLive v) ∧
        v = { l with scratch := v.scratch, bankFifo := v.bankFifo, bankLeft := v.bankLeft, winBad := v.winBad,
                     eb := { l.eb with retire := v.eb.retire }, tok := v.tok, told := v.told } ∧
        v.fifo j = rest ∧ (∀ k, k < 64 → v.fifo k = if k ∈ js then (l.fifo k).drop 1 else l.fifo k) ∧
        (∀ k, assoc v.bankLeft k = if k = c.seq then
            ((assoc l.bankLeft k).bind fun n => if n ≤ js.length then none else some (n - js.length))
          else assoc l.bankLeft k) ∧
        (∀ x, (∀ k, joins k → ¬(lo k ≤ x ∧ x < hi k)) → v.scratch.get x = l.scratch.get x) ∧ ∀ k, joins k → r k v.scratch
    (∀ p, l.pass = some p → 0 < p.rows → (∃ k, joins k ∧ p.reads k = true) → ¬copies →
      exec (.bankCommandStart j) s = .next s) ∧
    (¬heads → exec (.bankCommandStart j) s = .next s) ∧
    (heads → (∀ p, l.pass = some p → p.rows = 0) →
      (∀ cu d a b nb ft len rnd, ft ∈ [0, 1, 2, 12, 13] →
        let n := (len.toNat + 1) * (256 / fmtW ft)
        let size := 32 * (len.toNat + 1)
        let arith := fun (i : Instr) (rnd : BitVec 2) (ff : FVal → FVal → FVal → FVal × Bool) (fi : Int → Int → Int → Int) =>
          c.instr = i → fits size size size → (oa j = od j ∨ apart (oa j) size (od j) size) →
          (ob j = od j ∨ apart (ob j) size (od j) size) →
          performs od (fun k => od k + size) fun k m => ∀ x, x < n →
            let A := at_ l.scratch (fmtW ft) (oa k) x
            let B := at_ l.scratch (fmtW ft) (ob k) x
            let D := at_ l.scratch (fmtW ft) (od k) x
            at_ m (fmtW ft) (od k) x = match (bankTy ft).ieee? with
              | some f => (roundOp f (modeOf rnd s.seed c.ridx 3 (rel k * n + x)) (ff (f.decode A) (f.decode B) (f.decode D))).1 %
                  2 ^ fmtW ft
              | none => (fi (signedOf (fmtW ft) A) (signedOf (fmtW ft) B) (signedOf (fmtW ft) D) % 2 ^ fmtW ft).toNat
        arith (.bkAdd cu d a b nb ft len rnd) rnd (fun x y _ => x.add y) (fun x y _ => x + y) ∧
        arith (.bkMul cu d a b nb ft len rnd) rnd (fun x y _ => x.mul y) (fun x y _ => x * y) ∧
        arith (.bkFma cu d a b nb ft len rnd) rnd (fun x y z => x.fma y z) (fun x y z => x * y + z) ∧
        arith (.bkMax cu d a b nb ft len) 0 (fun x y _ => (x.max y, false)) (fun x y _ => max x y) ∧
        arith (.bkMin cu d a b nb ft len) 0 (fun x y _ => (x.min y, false)) (fun x y _ => min x y)) ∧
      (∀ cu d a b nb ft len rnd k o f, (ft = 0 ∨ ft = 1) → (bankTy ft).ieee? = some f → rnd.toNat < 2 →
        c.instr = .bkExpsum cu d a b nb ft len rnd k o →
        let n := (len.toNat + 1) * (256 / fmtW ft)
        let size := 32 * (len.toNat + 1)
        let mode := if rnd = 1 then Mode.rtz else Mode.rne
        let e := fun (k x : Nat) =>
          (exp2Round f mode ((f.decode (at_ l.scratch (fmtW ft) (oa k) x)).add (fp32.decode c.kv.toNat).neg).1).1
        fits size size 4 → (oa j = od j ∨ apart (oa j) size (od j) size) → apart (ob j) 4 (od j) size →
        performs (fun k => min (ob k) (od k)) (fun k => max (ob k + 4) (od k + size)) fun k m =>
          (∀ x, x < n → at_ m (fmtW ft) (od k) x = e k x % 2 ^ fmtW ft) ∧
          (o = true → fp32.decode (at_ m 32 (ob k) 0) = (List.range n).foldl (fun acc x =>
            fp32.decode (roundOp fp32 mode (acc.add (f.decode (at_ m (fmtW ft) (od k) x)))).1)
            (fp32.decode (at_ l.scratch 32 (ob k) 0)))) ∧
      (∀ cu d a nb ft len rnd k f, ft ∈ [0, 1, 2] → (bankTy ft).ieee? = some f → c.instr = .bkScale cu d a nb ft len rnd k →
        let n := (len.toNat + 1) * (256 / fmtW ft)
        let size := 32 * (len.toNat + 1)
        fits size size 0 → (oa j = od j ∨ apart (oa j) size (od j) size) → performs od (fun k => od k + size) fun k m => ∀ x, x < n →
          at_ m (fmtW ft) (od k) x = (roundOp f (modeOf rnd s.seed c.ridx 3 (rel k * n + x))
            ((f.decode (at_ l.scratch (fmtW ft) (oa k) x)).mul (fp32.decode c.kv.toNat))).1 % 2 ^ fmtW ft) ∧
      (∀ cu d a nb ft len op acc o, ft = 13 → op.toNat < 3 → c.instr = .bkRed cu d a nb ft len 0 op acc o →
        fits 4 (32 * (len.toNat + 1)) 0 → performs od (fun k => od k + 4) fun k m =>
          let xs := (List.range ((len.toNat + 1) * 8)).map fun x => signedOf 32 (at_ l.scratch 32 (oa k) x)
          let ys := if acc then xs ++ [signedOf 32 (at_ l.scratch 32 (od k) 0)] else xs
          let r := signedOf 32 (at_ m 32 (od k) 0)
          (op = 0 → r = signedOf 32 (ys.foldl (· + ·) 0 % 2 ^ 32).toNat) ∧
          (op = 1 → r ∈ ys ∧ ∀ y ∈ ys, y ≤ r) ∧ (op = 2 → r ∈ ys ∧ ∀ y ∈ ys, r ≤ y)) ∧
      (∀ cu d a nb len acc, c.instr = .bkRed cu d a nb 0 len 0 0 acc true →
        fits 4 (32 * (len.toNat + 1)) 0 → performs od (fun k => od k + 4) fun k m =>
          let xs := (List.range ((len.toNat + 1) * 8)).map fun x => fp32.decode (at_ l.scratch 32 (oa k) x)
          let r := xs.foldl (fun z x => fp32.decode (roundOp fp32 .rne (z.add x)).1) (.fin false 0 0)
          fp32.decode (at_ m 32 (od k) 0) =
            if acc then fp32.decode (roundOp fp32 .rne (r.add (fp32.decode (at_ l.scratch 32 (od k) 0)))).1 else r) ∧
      (∀ cu d a nb ft fs len rnd, c.instr = .bkCvt cu d a nb ft len rnd fs →
        let n := (len.toNat + 1) * (256 / max (fmtW fs) (fmtW ft))
        fits (n * fmtW ft / 8) (n * fmtW fs / 8) 0 → apart (oa j) (n * fmtW fs / 8) (od j) (n * fmtW ft / 8) → 32 ∣ oa j → 32 ∣ od j →
        performs od (fun k => od k + n * fmtW ft / 8) fun k m => ∀ x, x < n →
          at_ m (fmtW ft) (od k) x = (convert ft (modeOf rnd s.seed c.ridx 3 (rel k * n + x))
            (decodeCode fs (at_ l.scratch (fmtW fs) (oa k) x))).1 % 2 ^ fmtW ft) ∧
      (∀ cu d nb ft len kr, c.instr = .bkFill cu d nb ft len kr → fits (32 * (len.toNat + 1)) 0 0 →
        performs od (fun k => od k + 32 * (len.toNat + 1)) fun k m => ∀ x, x < (len.toNat + 1) * (256 / fmtW ft) →
          at_ m (fmtW ft) (od k) x = if ft = 7 then c.kv.toNat % 64 else c.kv.toNat % 2 ^ fmtW ft) ∧
      (∀ cu base off, c.instr = .stSp cu base off → 65536 * j ≤ c.dv.toNat + 511 → c.dv.toNat < 65536 * (j + 1) →
        performs (fun k => max c.dv.toNat (65536 * k)) (fun k => min (c.dv.toNat + 512) (65536 * (k + 1))) fun k m => ∀ x, x < 512 →
          c.dv.toNat + x < 65536 * (k + 1) → 65536 * k ≤ c.dv.toNat + x →
          (m.get (c.dv.toNat + x)).toNat = elem 8 c.data x) ∧
      (∀ cu d a len, c.instr = .bkCopy cu d a len →
        let n := 32 * (len.toNat + 1)
        let banks := fun (k : Nat) => (c.dv.toNat < 65536 * (k + 1) ∧ 65536 * k < c.dv.toNat + n) ∨
          (c.av.toNat < 65536 * (k + 1) ∧ 65536 * k < c.av.toNat + n)
        ((∃ k, k < 64 ∧ banks k ∧ ∀ x xs, l.fifo k = x :: xs → x.seq ≠ c.seq) → exec (.bankCommandStart j) s = .next s) ∧
        ((∀ k, k < 64 → banks k → ∃ x xs, l.fifo k = x :: xs ∧ x.seq = c.seq) → apart c.av.toNat n c.dv.toNat n →
          ∃ v : Live, exec (.bankCommandStart j) s = .next (s.setLive v) ∧
            (∀ k, k < 64 → v.fifo k = if banks k then (l.fifo k).drop 1 else l.fifo k) ∧
            (∀ x, x < n → v.scratch.get (c.dv.toNat + x) = l.scratch.get (c.av.toNat + x)) ∧
            (∀ x, ¬(c.dv.toNat ≤ x ∧ x < c.dv.toNat + n) → v.scratch.get x = l.scratch.get x))))

/-! ### Global memory (R201, R240 to R250, R264 to R282) -/

/-- The checks of a global access on one page (R241, R256, R277, R340, R342), in their order, and the piece that passes them; a
failed check gives the translation that it had found, if any. -/
def Obligations.AccessChecks : Prop :=
  ∀ (s : State) (w : Want) (va : DWord) (n align : Nat), 0 < n → va.toNat % 4096 + n ≤ 4096 →
    let r := s.range w va n align
    let trap := fun (code : Nat) (ts : List Trans) => Checked.trap ⟨code, va.extractLsb' 0 32, va.extractLsb' 32 32⟩ ts
    (2 ^ 56 ≤ va.toNat → r = trap 0x13 []) ∧
    (va.toNat < 2 ^ 56 →
      (va.toNat % align ≠ 0 → r = trap 0x12 []) ∧
      (va.toNat % align = 0 → ∀ c, s.ctxAt s.ctxId = some c →
        (s.translate s.core.num s.ctxId va.toNat = none → r = trap 0x10 []) ∧
        (∀ t, s.translate s.core.num s.ctxId va.toNat = some t →
          let pa := BitVec.ofNat 52 (t.pa + (va.toNat - t.va))
          let page := BitVec.ofNat 64 (va.toNat / 4096 * 4096)
          let told := (page, 16 * s.core.num + w.who)
          let here := paSpace pa = 0 ∨ (paSpace pa = 1 ∧ paPeer pa = c.self)
          (w.write = true → t.w = false → t.cow = true → told ∉ c.cowRefused → r = .cow page [t]) ∧
          ((if w.write then t.w = false ∧ (t.cow = false ∨ told ∈ c.cowRefused) else t.r = false) → r = trap 0x11 [t]) ∧
          (w.write = true → t.w = true → here → s.pairRefuses (paOff pa / 4096) = true → r = trap 0x11 [t]) ∧
          ((if w.write then t.w = true else t.r = true) → (w.write = true → here → s.pairRefuses (paOff pa / 4096) = false) →
            let refused := paSpace pa = 3 ∨ (paSpace pa ≠ 2 ∧ pa.getLsbD 43 = true) ∨ (paSpace pa = 0 ∧ paPeer pa ≠ 0) ∨
              (paSpace pa = 1 ∧ c.fabric.length ≤ paPeer pa) ∨ (w.noAlias = true ∧ paSpace pa ≠ 2 ∧ paOpc pa ≠ 0) ∨
              (w.noHost = true ∧ paSpace pa = 2) ∨ (w.noPeer = true ∧ paSpace pa = 1)
            (refused → r = trap 0x13 [t]) ∧
            (¬refused → r = .ok [⟨va, pa, n, 0, if paSpace pa = 2 then 0 else t.sm, t.key⟩] [t])))))

/-- The issue of the global memory instructions of A whose checks pass (R240 to R250, R275, R276, R280, R297): what each pops,
reserves and enters into the list of accesses, behind a release at the scope of an atomic, a reduction or a `strel`; a check
that fails is raised, with only TLBs, counts and answered copy-on-write requests changed beside it, and a full queue is waited for.
The order of the addresses of an indexed access follows log 29. For the copies the model chooses (log 38): ALIGN of a length or a stride
has its value as TVAL0 and 0 as TVAL1, and comes after the source and the destination, in the order of the lengths and strides. -/
def Obligations.GlobalIssue : Prop :=
  ∀ (s : State) (cu : Cue) (q base idx v cr nr rows ss ds : BitVec 5) (off : BitVec 9) (hint f4 es qn : BitVec 2) (sh : BitVec 5)
      (sc op : BitVec 3) (dst : BitVec 4) (o : Bool),
    let u := opened s cu
    let l := u.core.live
    let ea := fun (unit : Nat) => u.ra base + off.signExtend 64 * BitVec.ofNat 64 unit
    let k := q.toNat - 28
    let acc := fun (n : Nat) (kd : AccKind) (left : Bool) => (⟨n, .a, kd, left, false, 0, false, none, none, none, l.known .a⟩ : Access)
    let rel := if sc = 0 then [] else [acc l.seq (.release sc.toNat none) true]
    let seq := if sc = 0 then l.seq else l.seq + 1
    let enters := fun (i : Instr) (len : Nat) (x : State) (f : Live → Live) (j : List Access) (n : Nat) =>
      exec i s = .next (issued (x.modLive fun l => { f l with acc := l.acc ++ j, seq := n }) len cu)
    let entry : LEntry := ⟨l.seq, false, ⟨0, side7F⟩, none, none, none⟩
    let stops := fun (i : Instr) (t : Trap) => ∃ y : State, exec i s = .next (u.raiseFrom y t) ∧
      y = { u with core := { u.core with tlb := y.core.tlb, pmc := y.core.pmc }, clusTlb := y.clusTlb, ctxs := y.ctxs } ∧
      (t.code ≠ 0x11 → y.ctxs = u.ctxs)
    let loads := fun (i : Instr) (opc : BitVec 7) (k len : Nat) (ck : Checked) (scaled : Bool) (f : Live → Live) (whole : Bool) =>
      Ready s opc cu 0 0 [] →
        (8 ≤ (l.loadQ k).length → exec i s = .next (u.stall (.lqRoom k))) ∧
        ((l.loadQ k).length < 8 →
          (∀ t ts, ck = .trap t ts → stops i t) ∧
          (∀ ps x, Passes u ck ps x → enters i len x (fun l => (f l).setLoadQ k (l.loadQ k ++ [entry]))
            [acc l.seq (.load k ps scaled hint whole) true] l.seq))
    let stores := fun (i : Instr) (opc : BitVec 7) (k : Nat) (ck : Checked) (rel : List Access) (n : Nat)
        (jobs : VReg → Piece → List Job) =>
      Ready s opc cu 0 0 [] →
        (l.storeQ k = [] → exec i s = .next (u.stall (.sqEntry k 1))) ∧
        (∀ e rest, l.storeQ k = e :: rest →
          (∀ t ts, ck = .trap t ts → stops i t) ∧
          (∀ ps x, Passes u ck ps x → enters i 1 x (fun l => l.setStoreQ k rest)
            (rel ++ [acc n (.write (ps.flatMap (jobs e))) false]) n))
    let els := fun (e : VReg) (n : Nat) => (List.range 128).filterMap fun i =>
      let x : Word := BitVec.ofNat 32 (elem 32 e.data i)
      if x = 0x80000000 then none else some (n * i, ea 4 + x.signExtend 64 <<< sh.toNat)
    let elCheck := fun (w : Want) (n : Nat) (e : VReg) => u.checkElems u.core.num u.ctxId w n (els e n)
    let want := fun (w : Bool) => ({ write := w, noAlias := true, noHost := decide (sc.toNat < 3), noPeer := decide (sc ≠ 4) } : Want)
    let atom : Want := { write := true, noAlias := true, noHost := true, noPeer := decide (sc ≠ 4) }
    let size := 2 ^ es.toNat
    let holds := fun (i : Instr) (opc : BitVec 7) (uses : List (BitVec 5)) (n : Nat) (cmp : Option Word) (y : Word) =>
      Ready s opc cu 0 0 (q :: uses) → ∀ p x, Passes u (u.range atom (ea 4) 4 4) [p] x →
        exec i s = .next ((x.modLive fun l => { l with
          acc := l.acc ++ rel ++ [acc seq (.atomic p n cmp y q) false], seq := seq + 1,
          ea := { l.ea with phase := 1, phaseSeq := seq } }).stall .external)
    (28 ≤ q.toNat →
      loads (.ld cu q base hint off) 0x60 k 1 (u.range { write := false } (ea 512) 512 64) false id true ∧
      loads (.lds cu q base hint off) 0x61 k 1 (u.range { write := false, noAlias := true } (ea 512) 512 64) true id true ∧
      stores (.st cu q base off) 0x62 k (u.range { write := true } (ea 512) 512 64) [] l.seq (fun e => storeJobs e true) ∧
      stores (.sts cu q base f4 off) 0x63 k (u.range { write := true, noAlias := true } (ea 512) 512 64) [] l.seq
        (fun e p => [stsJob e f4 p]) ∧
      (28 ≤ idx.toNat → ∀ e rest, l.storeQ (idx.toNat - 28) = e :: rest →
        loads (.gather cu q base hint off idx es sh) 0x64 k 2 (elCheck { write := false, noAlias := decide (size < 4) } size e)
          false (fun l => l.setStoreQ (idx.toNat - 28) rest) false) ∧
      (28 ≤ idx.toNat → idx ≠ q → Ready s 0x65 cu 0 0 [] → ∀ e rest d drest ps x, l.storeQ (idx.toNat - 28) = e :: rest →
        l.storeQ k = d :: drest → Passes u (elCheck { write := true, noAlias := decide (size < 4) } size e) ps x →
          enters (.scatter cu q base off idx es sh true) 2 x
            (fun l => (l.setStoreQ k drest).setStoreQ (idx.toNat - 28) rest)
            [acc l.seq (.write (ps.map fun p => if p.alias then .rmw p (paOpc p.pa) true (d.word p.off)
              else .write p true (d.bytes p.off p.len) (plainScales p))) false] l.seq ∧
          ∃ js f, enters (.scatter cu q base off idx es sh false) 2 { x with free := f }
            (fun l => (l.setStoreQ k drest).setStoreQ (idx.toNat - 28) rest) [acc l.seq (.write js) false] l.seq ∧
            let jobs := ps.map fun p => if p.alias then Job.rmw p (paOpc p.pa) false (d.word p.off)
              else .write p true (d.bytes p.off p.len) (plainScales p)
            js.Perm jobs ∧ js.map Job.pa = jobs.map Job.pa) ∧
      (Ready s 0x6B cu 0 0 [] → ∀ d drest, l.storeQ k = d :: drest →
        (∀ ps x, Passes u (u.range atom (ea 4) 512 4) ps x → enters (.red cu q base off idx op true false sh sc true) 2 x
          (fun l => l.setStoreQ k drest) (rel ++ [acc seq (.reduce (ps.flatMap fun p => (List.range (p.len / 4)).map fun i =>
            .rmw (p.part (4 * i) 4) op.toNat true (d.word (p.off + 4 * i)))) false]) seq) ∧
        (28 ≤ idx.toNat → idx ≠ q → ∀ e rest ps x, l.storeQ (idx.toNat - 28) = e :: rest →
          Passes u (elCheck atom 4 e) ps x → enters (.red cu q base off idx op true true sh sc true) 2 x
            (fun l => (l.setStoreQ k drest).setStoreQ (idx.toNat - 28) rest)
            (rel ++ [acc seq (.reduce (ps.map fun p => .rmw p op.toNat true (d.word p.off))) false]) seq))) ∧
    (Ready s 0x6B cu 0 0 [q] → ∀ p x, Passes u (u.range atom (ea 4) 4 4) [p] x →
      enters (.red cu q base off idx op false false sh sc o) 2 x id
        (rel ++ [acc seq (.reduce [.rmw p op.toNat o (u.rs q)]) false]) seq) ∧
    loads (.ldacq cu sc qn base hint off) 0x70 qn.toNat 1 (u.range (want false) (ea 64) 64 64) false id true ∧
    stores (.strel cu sc qn base off) 0x71 qn.toNat (u.range (want true) (ea 64) 64 64) rel seq (fun e => storeJobs e false) ∧
    holds (.atOp cu q base off v op sc) 0x69 [v] op.toNat none (u.rs v) ∧
    holds (.cas cu q base off cr nr sc) 0x6A [cr, nr] 0 (some (u.rs cr)) (u.rs nr) ∧
    (Ready s 0x66 cu 0 0 [] → ∃ y : State, exec (.pf cu q base hint off) s = .next (closed y 1 cu) ∧
      y = { u with core := { u.core with l1 := y.core.l1, tlb := y.core.tlb, pmc := y.core.pmc }, l2 := y.l2, clusTlb := y.clusTlb }) ∧
    (let dv := vget l.a dst.toNat 0
     let copies := fun (i : Instr) (opc : BitVec 7) (uses : List (BitVec 5)) (lens : List Word) (len rws : Nat) (a b : Int) =>
      Ready s opc cu 0 0 uses →
        ((ea 64).toNat < 2 ^ 56 → (ea 64).toNat % 64 ≠ 0 →
          exec i s = .next (u.raise ⟨0x12, (ea 64).extractLsb' 0 32, (ea 64).extractLsb' 32 32⟩)) ∧
        ((ea 64).toNat < 2 ^ 56 → (ea 64).toNat % 64 = 0 → dv.toNat < 2 ^ 56 → dv.toNat % 64 = 0 →
          (∀ pre x post, lens = pre ++ x :: post → (∀ y ∈ pre, y.toNat % 64 = 0) → x.toNat % 64 ≠ 0 →
            exec i s = .next (u.raise ⟨0x12, x, 0⟩)) ∧
          ((∀ y ∈ lens, y.toNat % 64 = 0) → u.chanLoad q.toNat < 4 →
            exec i s = .next (closed (u.modLive fun l => { l with acc := l.acc ++ [acc l.seq (.copy q.toNat
              ⟨l.seq, ea 64, dv, len, rws, a, b, 0, 0, none, none, false⟩) false] }) 2 cu)))
     copies (.cpy cu q base off dst cr) 0x67 [cr] [u.rs cr] (u.rs cr).toNat 1 0 0 ∧
     copies (.cpy2d cu q base off dst cr rows ss ds) 0x68 [cr, rows, ss, ds] [u.rs cr, u.rs ss, u.rs ds] (u.rs cr).toNat
      (u.rs rows).toNat (u.rs ss).toInt (u.rs ds).toInt)

/-- The performance of global accesses (R201, R245 to R250, R256, R264 to R267, R280, R346): an operation leaves its core; a
load's bytes come, a store's are written with their holds, a reduction and an atomic change their word, a copy moves one
sector, a release waits for the writes of A that precede it or that tokens or a semaphore order before it (R273, log 32), advances the
generations and at `.grp` waits for the peers' homes, and a peer's access and answer are taken. The order of writes and the holds of
waiting writes follow logs 6 and 29. -/
def Obligations.GlobalPerform : Prop :=
  ∀ (s : State) (a : Access) (p : Piece), 
    (∀ b ∈ s.core.live.acc, b.seq = a.seq → b = a) →
    let l := s.core.live
    let lo := paOff p.pa
    let newWord := fun (op : Nat) (m v : Word) =>
      if op = 0 then v else if op = 1 then BitVec.ofNat 32 (roundOp fp32 .rne ((fp32.decode m.toNat).add (fp32.decode v.toNat))).1
      else if op = 2 then m + v else if op = 3 then (if v.slt m then v else m) else if op = 4 then (if m.slt v then v else m)
      else if op = 5 then m &&& v else if op = 6 then m ||| v else m ^^^ v
    let word := fun (s : State) (x : Nat) => (memAt s (x + 3)) ++ (memAt s (x + 2)) ++ (memAt s (x + 1)) ++ memAt s x
    let quietly := a.waits = 0 ∧ a.conf = none ∧ a.keyr = none ∧ a.protr = none ∧ a.sent = false ∧ a.lost = false ∧ a.eng = .a
    let ended := fun (t : State) => (∀ b, b ∈ t.core.live.acc ↔ b ∈ l.acc ∧ b.seq ≠ a.seq)
    let written := fun (t : State) (bs : List Byte) => bs.length = p.len →
      (∀ x, memAt t x = if lo ≤ x ∧ x < lo + p.len then bs.getD (x - lo) 0 else memAt s x)
    let held := fun (t : State) (hold : Bool) => ∀ g, assoc t.holds g =
      if hold = true ∧ g ∈ granules lo p.len then some ⟨s.me, s.ctxId, s.gensOf s.me⟩ else assoc s.holds g
    (∀ e, l.acc.find? (fun b => decide (b.eng = e) && !b.left) = some a →
      (∀ js, a.kind = .write js → ∃ t, exec (.heldOperationLeave e) s = .next t ∧
        t.core.live = { l with acc := l.acc.map fun b => if b.seq = a.seq then { b with left := true } else b } ∧ t.mem = s.mem) ∧
      (∀ js, a.kind = .reduce js → ∃ t, exec (.heldOperationLeave e) s = .next t ∧
        t.core.live.ea.s = l.ea.s ∧ ∀ r ∈ t.core.live.ea.retire, r.seq = a.seq → r.done = true) ∧
      (∀ ch c, ch < 8 → a.kind = .copy ch c → ∃ t, exec (.heldOperationLeave e) s = .next t ∧
        t.copyHead ch = some ((s.copyHead ch).getD c) ∧ ended t)) ∧
    (l.firstAcc .a = some a → quietly →
      (∀ q hint whole, a.kind = .load q [p] false hint whole → AtHand s p → p.off + p.len ≤ 512 → q < 4 →
        ∃ t, exec .globalLoadPerform s = .next t ∧ t.mem = s.mem ∧ ended t ∧
          ∀ e, l.loadQ q = [e] → e.seq = a.seq → e.filled = false → e.poison = none → e.mmx = none → e.refused = none →
            e.val = ⟨0, side7F⟩ → ∃ v, t.core.live.loadQ q = [{ e with filled := true, val := ⟨v, side7F⟩ }] ∧
            ∀ x, x < 512 → elem 8 v x =
              if p.off ≤ x ∧ x < p.off + p.len then (memAt s (lo + (x - p.off))).toNat else 0) ∧
      (∀ bs hold, a.kind = .write [.write p hold bs []] → a.left = true → AtHand s p → lo + p.len ≤ 2 ^ 40 → 0 < p.len →
        bs.length = p.len → ∃ t, exec .globalWritePerform s = .next t ∧ written t bs ∧ held t hold ∧ ended t ∧ t.poison = s.poison ∧
          t.secScale = s.secScale) ∧
      (∀ op hold v, a.kind = .reduce [.rmw p op hold v] → a.left = true → AtHand s p → p.len = 4 → lo % 4 = 0 → op < 8 →
        ∃ t, exec .reductionPerform s = .next t ∧
          word t lo = newWord op (word s lo) v ∧ (∀ x, x < lo ∨ lo + 4 ≤ x → memAt t x = memAt s x) ∧ held t hold ∧ ended t) ∧
      (∀ op cmp v d, a.kind = .atomic p op cmp v d → a.left = true → AtHand s p → p.len = 4 → lo % 4 = 0 → op < 8 →
        ∃ t, exec .atomicPerform s = .next t ∧
          word t lo = (match cmp with
            | none => newWord op (word s lo) v
            | some c => if word s lo = c then v else word s lo) ∧
          (∀ x, x < lo ∨ lo + 4 ≤ x → memAt t x = memAt s x) ∧ ended t ∧ t.holds = s.holds ∧
          (l.ea.started = true → l.ea.phase = 1 → l.ea.phaseSeq = a.seq →
            ((∃ cu base off r sc, l.ea.fetched = .atOp cu d base off r (BitVec.ofNat 3 op) sc) ∨
              ∃ cu base off c n sc, l.ea.fetched = .cas cu d base off c n sc) →
            t.core.live.ea.pc = l.ea.pc + 2 ∧ t.core.live.ea.started = false ∧
            ∀ r, t.core.live.ea.sreg r = if r = d ∧ r ≠ 0 then word s lo else l.ea.sreg r))) ∧
    (∀ e k, l.firstAcc e = some a → a.kind = .release k none →
      (∃ x ∈ l.acc, x.eng = .a ∧ if a.eng = .a then x.seq < a.seq else x.seq < l.told.floor ∨ x.seq ∈ a.known) →
      exec (.generationAdvance e) s = .next s) ∧
    (∀ e k, l.firstAcc e = some a → a.kind = .release k none → k ≤ 4 → s.covered a = true →
      ∃ t, exec (.generationAdvance e) s = .next t ∧ t.mem = s.mem ∧
        (k < 4 ∨ s.livePeers = [] → ended t) ∧
        (k = 4 → s.livePeers ≠ [] → ∃ b ∈ t.core.live.acc, b.seq = a.seq ∧ b.kind = .release 4 (some s.livePeers) ∧ b.sent = true) ∧
        ∀ i, i < 4 → vget t.core.gens i 0 = vget s.core.gens i 0 + if i < k then 1 else 0) ∧
    (∀ k n peers ans, l.acc.find? (·.sent) = some a → a.kind = .release k (some (n :: peers)) → s.linked s.ctxId n = true →
      ∃ t, exec (.remoteResponse ans) s = .next t ∧ t.mem = s.mem ∧
        (peers = [] → ended t) ∧ (peers ≠ [] → ∃ b ∈ t.core.live.acc, b.seq = a.seq ∧ b.kind = .release k (some peers))) ∧
    (∀ ch c pd u v, ch < 8 → s.copyHead ch = some c → c.sent = none → c.got = none → l.acc = [] → c.row < c.rows → c.off < c.len →
      (∀ w, s.core.ending ≠ some (.image w)) → s.host.hostBias = [] →
      s.copyPiece ch false c.srcVa = .inr (u, p) → u.copyPiece ch true c.dstVa = .inr (v, pd) → p.len = 64 → pd.len = 64 →
      lo % 64 = 0 → paOff pd.pa % 64 = 0 → AtHand v p → AtHand v pd → pd.alias = false →
      ∃ t, exec (.copySectorTransfer ch) s = .next t ∧
        (∀ x, memAt t x = if paOff pd.pa ≤ x ∧ x < paOff pd.pa + 64 then memAt s (lo + (x - paOff pd.pa)) else memAt s x) ∧
        (vget t.core.chans ch ⟨0, []⟩).cwp = (vget s.core.chans ch ⟨0, []⟩).cwp + 64) ∧
    (∀ q rest hint bs e, l.acc.find? (·.sent) = some a → s.mayHear (s.sentPeer a) = true → a.kind = .load q (p :: rest) false hint true → q < 4 →
      p.off + p.len ≤ 512 → bs.length = p.len → l.loadQ q = [e] → e.seq = a.seq → e.filled = false → e.val = ⟨0, side7F⟩ →
      ∃ t v, exec (.remoteResponse (.done bs)) s = .next t ∧ t.core.live.loadQ q = [{ e with val := ⟨v, side7F⟩ }] ∧
        ∀ x, x < 512 → elem 8 v x = if p.off ≤ x ∧ x < p.off + p.len then (bs.getD (x - p.off) 0).toNat else 0) ∧
    (∀ ctx c peer core gens key off n, s.ctxAt ctx = some c → peer < c.fabric.length → peer ≠ c.self → peer ∉ c.lost → s.linked ctx peer = true →
      off + n ≤ 2 ^ 40 → 0 < n →
      (s.keyBound key.toNat ctx = false → ∃ t, exec (.peerAccess ctx peer core gens key (.read off n)) s = .next t ∧
        t.notices = s.notices ++ [.peerAnswer ctx peer (.keyRefused 0)] ∧ t.mem = s.mem) ∧
      (s.keyBound key.toNat ctx = true → s.waitingOn off n = false → s.needSnoop (snoopPeer ctx peer) off n = [] →
        (∀ k ∈ sectorsOf off n, s.poisoned k = false) → (∀ g ∈ granules off n, assoc s.holds g = none) →
        ∃ t, exec (.peerAccess ctx peer core gens key (.read off n)) s = .next t ∧ t.mem = s.mem ∧
          t.notices = s.notices ++ [.peerAnswer ctx peer (.done (s.homeBytes key off n ++
            scaleBytes ((sectorsOf off n).map s.scalesOf)))]))

/-! ### Ordering, semaphores and channel waits (R36, R273, R274, R278, R360 to R366) -/

/-- Fences, `drain`, semaphore instructions and `cwait` (R36, R273, R274, R278, R360 to R366): when each completes at issue, what
it enters into the list of accesses, the refused selectors, when the store completes a wait, the value that a signal leaves and the acts
that it makes ready,
and the yield of an engine that waits, whose act takes its slot of the act store then. That a woken act enters the pool of every die is
log 25. -/
def Obligations.OrderingAndSemaphores : Prop :=
  (∀ (s : State) (cu : Cue) (a b d : BitVec 5) (sc ch : BitVec 3) (imm : BitVec 26) (i : Bool),
    let u := opened s cu
    let l := u.core.live
    let acc := fun (n : Nat) (kd : AccKind) (left : Bool) => (⟨n, s.cur, kd, left, false, 0, false, none, none, none, l.known s.cur⟩ : Access)
    let fence := fun (i : Instr) => Ready s 0x6E cu 0 0 [] → s.eng.retire = [] →
      exec i s = .next (if sc = 0 then closed u 1 cu
        else issued (u.modLive fun l => { l with acc := l.acc ++ [acc l.seq (.release sc.toNat none) true] }) 1 cu)
    (Ready s 0x6E cu 0 0 [] → s.eng.retire = [] → exec (.fenceAcq cu sc) s = .next (closed u 1 cu)) ∧
    fence (.fenceRel cu sc) ∧ fence (.fenceAr cu sc) ∧
    (Ready s 0x6E cu 0 0 [] → s.eng.retire ≠ [] → s.cur ≠ .m →
      exec (.fenceRel cu sc) s = .next (u.stall (if s.cur = .b then .earlier else .external))) ∧
    (Ready s 0x6F cu 0 0 [] →
      let w := s.begun (b2n cu.wp) (b2n cu.wn) true
      (s.eng.retire = [] → s.core.live.acc = [] → (∀ j, j < 64 → s.core.live.fifo j = []) →
        (∀ c, c < 8 → (vget s.core.chans c ⟨0, []⟩).queue = []) →
        (∀ q, q < 4 → s.core.live.loadQ q = [] ∧ s.core.live.storeQ q = []) → s.core.live.pass = none →
        s.core.live.drains = [] → s.core.live.spDrains = [] → exec (.drain cu) s = .next (closed w 1 cu)) ∧
      (s.cur ≠ .m → s.core.live.acc ≠ [] → exec (.drain cu) s = .next (w.stall .drain))) ∧
    (∀ (set : Bool),
      let sel := u.rs a
      let i := if set then Instr.semSigSet cu a b sc else Instr.semSig cu a b sc
      let rmt := sel.getLsbD 18
      let peer := sel.toNat / 4096 % 64
      let good := sel.toNat < 2 ^ 19 ∧ (rmt = false → peer = 0) ∧ (rmt = true → peer < s.groupSize ∧ sc = 4)
      let seq := if sc = 0 then l.seq else l.seq + 1
      Ready s 0x7C cu 0 0 [a, b] →
        (¬good → exec i s = .next (u.raise ⟨0x13, sel, 0⟩)) ∧
        (good → exec i s = .next (issued (u.modLive fun l => { l with
          acc := l.acc ++ (if sc = 0 then [] else [acc l.seq (.release sc.toNat none) true]) ++ [acc seq (.semSig sel set (u.rs b)) false],
          seq := seq }) 1 cu))) ∧
    (let w := s.begun (b2n cu.wp) (b2n cu.wn) true
     let sel := w.rs a
     let v := if i then imm.setWidth 32 else w.rs b
     Ready s 0x7D cu 0 0 (if i then [a] else [a, b]) →
      (4096 ≤ sel.toNat → exec (.semWait cu a b sc imm i) s = .next (w.raise ⟨0x13, sel, 0⟩)) ∧
      (sel.toNat < 4096 →
        (v = 0 → exec (.semWait cu a b sc imm i) s = .next (closed w 2 cu)) ∧
        (v ≠ 0 → exec (.semWait cu a b sc imm i) s = .next (((w.modLive fun l => { l with
          acc := l.acc ++ [acc l.seq (.hub (.semWait sel.toNat v)) false], seq := l.seq + 1 }).modEng fun x =>
            { x with phase := 1, phaseSeq := w.core.live.seq }).stall .external)))) ∧
    (s.eng.started = true → s.eng.phase = 2 → s.core.live.pendReg = [] →
      exec (.semWait cu a b sc imm i) s = .next (closed s 2 cu)) ∧
    (Ready s 0x7E cu 0 0 [d, a] → (u.rs a).toNat < 4096 →
      exec (.semRd cu d a sc) s = .next (issued (u.modLive fun l => { l with
        acc := l.acc ++ [acc l.seq (.hub (.semRd (u.rs a).toNat d)) false],
        pendReg := if d = 0 then l.pendReg else l.pendReg ++ [(s.cur, d)] }) 1 cu)) ∧
    (Ready s 0x7F cu 0 0 [a] →
      let cwp := (vget s.core.chans ch.toNat ⟨0, []⟩).cwp
      ((cwp - u.rs a).toNat < 2 ^ 31 ∨ s.chanLoad ch.toNat = 0 → exec (.cwait cu a ch) s = .next (closed u 1 cu)) ∧
      (¬((cwp - u.rs a).toNat < 2 ^ 31 ∨ s.chanLoad ch.toNat = 0) → exec (.cwait cu a ch) s = .next (u.stall .external)))) ∧
  (∀ (s : State) (e : Engine) (a : Access) (n : Nat) (v : Word), s.core.live.firstWait e = some a →
    a.kind = .hub (.semWait n v) → a.left = true → a.sent = false → a.eng = e →
    (s.semVal s.ctxId n < v → exec (.hubOperationPerform e) s = .next s) ∧
    (v ≤ s.semVal s.ctxId n → ∃ t, exec (.hubOperationPerform e) s = .next t ∧ t.mem = s.mem ∧
      (∀ b, b ∈ t.core.live.acc ↔ b ∈ s.core.live.acc ∧ b.seq ≠ a.seq) ∧
      ((s.core.live.eng e).started = true → (s.core.live.eng e).phase = 1 → (s.core.live.eng e).phaseSeq = a.seq →
        t.core.live.eng e = { s.core.live.eng e with phase := 2 }))) ∧
  (∀ (s : State) (e : Engine) (a : Access) (sel v : Word) (set : Bool) (c : Ctx), 
    s.core.live.firstAcc e = some a → a.kind = .semSig sel set v → a.left = true → a.sent = false → a.eng = e →
    s.ctxAt s.ctxId = some c → sel.getLsbD 18 = false →
    let num := sel.toNat % 4096
    let x := Sparse.get 0 c.sems num
    let n : Word := if set then v else BitVec.ofNat 32 (min (x.toNat + v.toNat) (2 ^ 32 - 1))
    ∃ (t : State) (c' : Ctx), exec (.semSignalPerform e) s = .next t ∧ t.ctxAt s.ctxId = some c' ∧
      (∀ k, Sparse.get 0 c'.sems k = if k = num then n else Sparse.get 0 c.sems k) ∧
      (∀ b, b ∈ t.core.live.acc ↔ b ∈ s.core.live.acc ∧ b.seq ≠ a.seq) ∧
      (∀ w, w ∈ t.waiters ↔ w ∈ s.waiters ∧ ¬(w.1.ctx = s.ctxId ∧ w.2.1 = num ∧ w.2.2 ≤ n)) ∧
      (∀ w ∈ s.waiters, w.1.ctx = s.ctxId → w.2.1 = num → w.2.2 ≤ n → ∀ d, d < 4 →
        (w.1.record.prio, PoolItem.act w.1) ∈ vget t.pools d []) ∧ t.mem = s.mem) ∧
  (∀ (s : State) (e : Engine),
    (s.semWaitOf e = none → exec (.semWaitYieldTest e) s = .next s) ∧
    (∀ w, s.semWaitOf e = some w → s.running = true →
      exec (.semWaitYieldTest e) s = .next (if s.rival = true ∧ s.slotFree = true then
        { s with core := { s.core with act := s.core.act.map fun a => { a with slot := s.slotOf a }, ending := some (.image (some w)) } }
      else s)))

/-! ### The hub: counters, the fault log, collectives, the curtain's instructions (R254, R255, R302 to R309, R370, R378 to R390) -/

/-- The instructions of the hub, what the hub does with the operations that it holds, and collectives with the words that each kind
leaves (R201, R254, R255, R284, R302 to R305, R307 to R309, R329, R370, R378, R381, R384, R389, R390). The model's choices: ctr.rd
counts itself among the issued instructions (log 3); reason 4 of `prot.set` is checked against the areas of every context (log 16); a
collective's reasons are checked in the order 5, 2, 1, 6, 3, 4, 7, its output then waits for what it needs, and a member of a broadcast
that is not the root reads none of its input (log 18). -/
def Obligations.HubInstructions : Prop :=
  (∀ (s : State) (cu : Cue) (d a b n sr ur : BitVec 5) (fn root : BitVec 6) (w kind : BitVec 2) (w3 op : BitVec 3)
      (g pb set : BitVec 4) (hi st tst wt dg o paired stall : Bool) (c : Ctx), s.ctxAt s.ctxId = some c →
    let u := opened s cu
    let l := u.core.live
    let acc := fun (n : Nat) (kd : AccKind) (left : Bool) => (⟨n, s.cur, kd, left, false, 0, false, none, none, none, l.known s.cur⟩ : Access)
    let waitsFor := fun (l : Live) => if d = 0 then l.pendReg else l.pendReg ++ [(s.cur, d)]
    let asks := fun (i : Instr) (len : Nat) (op : HubOp) => exec i s = .next (issued (u.modLive fun l =>
      { l with acc := l.acc ++ [acc l.seq (.hub op) false], pendReg := waitsFor l }) len cu)
    let releases := fun (i : Instr) (len : Nat) (op : HubOp) => exec i s = .next (issued (u.modLive fun l =>
      { l with acc := l.acc ++ [acc l.seq (.release 3 none) true, acc (l.seq + 1) (.hub op) false], seq := l.seq + 1,
               pendReg := waitsFor l }) len cu)
    let word := fun (e : Option FLog) (k : Nat) => match e with
      | none => (0 : Word)
      | some e => [e.hdr, e.tval0, e.tval1, e.seq, e.core, e.scene, e.pcax, e.pcmb].getD k 0
    let half := fun (x : DWord) => if hi then x.extractLsb' 32 32 else x.extractLsb' 0 32
    (Ready s 0x17 cu 0 0 [d] → ∃ x : Word,
      exec (.ctrRd cu d n hi fn) s = .next (closed { u.ws d x with free := s.free + 1 } 1 cu) ∧
      (s.core.detlvl ≠ 0 → fn.toNat ∈ [1, 2, 4, 6, 7, 8, 16] → x = 0) ∧
      (s.core.detlvl = 0 ∨ fn.toNat ∉ [1, 2, 4, 6, 7, 8, 16] →
        (fn = 1 → n.toNat < 4 → x = half (l.eng ([Engine.a, .x, .m, .b].getD n.toNat .a)).issued) ∧
        (fn = 2 → x = half ((vget s.core.chans n.toNat ⟨0, []⟩).cwp.setWidth 64)) ∧
        (fn = 3 → x = match assoc c.groups n.toNat with
          | some g => half (g.cr.setWidth 64)
          | none => 0) ∧
        (fn = 4 → x = match assoc c.prot n.toNat with
          | some p => half (p.undop.setWidth 64)
          | none => 0) ∧
        (fn = 5 → x = match assoc c.reps n.toNat with
          | some r => half (r.lgen.setWidth 64)
          | none => 0) ∧
        (fn = 6 → 1 ≤ n.toNat → x = half (vget s.core.gens (n.toNat - 1) 0)) ∧
        (fn = 7 → x = half (BitVec.ofNat 64 s.core.ups)) ∧ (fn = 8 → x = half (BitVec.ofNat 64 s.core.cor)) ∧
        (fn = 9 → x = half (BitVec.ofNat 64 (vget s.edie n.toNat 0))) ∧
        (fn = 10 → x = half (BitVec.ofNat 64 (vget c.ectx n.toNat 0))) ∧
        (fn = 11 → x = half (BitVec.ofInt 64 (vget c.credit n.toNat 0))) ∧
        (fn = 16 → (n.toNat < 6 ∨ 10 ≤ n.toNat) → x = half (vget s.core.pmc n.toNat 0)))) ∧
    (Ready s 0x75 cu 0 0 [d] →
      exec (.flogOld cu d w3) s = .next (closed (u.ws d (word c.flog.head? w3.toNat)) 1 cu) ∧
      exec (.flogStat cu d false) s = .next (closed (u.ws d (BitVec.ofNat 32 (c.flog.length + 65536 * c.flogLost))) 1 cu) ∧
      asks (.flogStat cu d true) 1 (.flogStatClr d)) ∧
    (Ready s 0x75 cu 0 0 [d, a] →
      exec (.flogSeq cu d a w3) s = .next (closed (u.ws d (word (c.flog.find? fun e => e.seq == u.rs a) w3.toNat)) 1 cu) ∧
      asks (.flogPop cu d a) 1 (.flogPop (u.rs a) d)) ∧
    (Ready s 0x7A cu 0 0 [d] → ∀ p x, Passes u (u.range { write := false } (u.ra a) 128 128) [p] x →
      exec (.lnch cu d a) s = .next ((x.modLive fun l => { l with
        acc := l.acc ++ [acc l.seq (.release 3 none) true, acc (l.seq + 1) (.hub (.lnchRead p)) true],
        ea := { l.ea with phase := 1, phaseSeq := l.seq + 1 }, seq := l.seq + 2 }).stall .external)) ∧
    (s.eng.started = true → s.cur = .a → s.eng.phase = 2 → (∀ r ∈ s.core.live.pendReg, r.1 = s.cur → r.2 ≠ d) → s.devLoad < 64 →
      exec (.lnch cu d a) s = .next (issued (s.modLive fun l =>
        { l with acc := l.acc ++ [{ (acc l.seq (.hub (.lnch l.record d)) false) with known := l.known .a }],
                 pendReg := waitsFor l }) 1 cu)) ∧
    (Ready s 0x73 cu 0 0 [d, n] →
      ((u.ra a).toNat < 2 ^ 56 → (u.ra a).toNat % 64 ≠ 0 → exec (.colStart cu d a b n kind op set dg root o) s =
        .next (u.raise ⟨0x12, (u.ra a).extractLsb' 0 32, (u.ra a).extractLsb' 32 32⟩)) ∧
      ((u.ra a).toNat < 2 ^ 56 → (u.ra a).toNat % 64 = 0 → (u.ra b).toNat < 2 ^ 56 → (u.ra b).toNat % 64 = 0 →
        (16 ≤ s.colLoad → exec (.colStart cu d a b n kind op set dg root o) s = .next (u.stall .external)) ∧
        (s.colLoad < 16 → releases (.colStart cu d a b n kind op set dg root o) 2
          (.colStart (u.ra a) (u.ra b) (u.rs n).toNat kind op set.toNat dg root.toNat o d)))) ∧
    (Ready s 0x74 cu 0 0 [d, a] →
      let x := (c.colStat.take 256).find? fun x => x.id == u.rs a
      (∀ y, x = some y → y.st = 0 → tst = false → exec (.colWait cu d a tst) s = .next (u.stall .external)) ∧
      (∀ y, x = some y → (tst = true ∨ y.st = 1) → y.st < 2 →
        exec (.colWait cu d a tst) s = .next (closed (u.ws d (BitVec.ofNat 32 y.st)) 1 cu)) ∧
      (∀ y, x = some y → y.st = 2 → y.reason < 256 →
        exec (.colWait cu d a tst) s = .next (closed (u.ws d (BitVec.ofNat 32 (2 + 256 * y.reason))) 1 cu)) ∧
      (x = none → exec (.colWait cu d a tst) s = .next (closed (u.ws d 3) 1 cu))) ∧
    (Ready s 0x5D cu 0 0 [d] → releases (.curtPrep cu d g) 1 (.curtPrep g.toNat d)) ∧
    (Ready s 0x5E cu 0 0 [d] →
      (assoc c.groups g.toNat = none →
        exec (.curtWait cu d st tst g) s = .next (closed (u.ws d (if st then 15 else 0)) 1 cu)) ∧
      (∀ x, assoc c.groups g.toNat = some x →
        (tst = true ∨ x.st ∈ [CState.open_, .halted, .beyond] →
          exec (.curtWait cu d st tst g) s = .next (closed (u.ws d (if st then s.stateWord s.ctxId g.toNat x else x.cr)) 1 cu) ∧
          (s.stateWord s.ctxId g.toNat x).toNat % 16 = x.st.num) ∧
        (tst = false → x.st ∉ [CState.open_, .halted, .beyond] →
          exec (.curtWait cu d st tst g) s = .next (u.stall .external)))) ∧
    (Ready s 0x5F cu 0 0 [d, a] →
      let x := (c.colStat.take 256).find? fun x => x.id == u.rs a
      let reads := fun (v : Word) => exec (.digRd cu d a wt false w) s = .next (closed { u.ws d v with free := s.free + 1 } 1 cu)
      let outs := fun (v : Word) => exec (.digRd cu d a wt true w) s = .next (closed (u.ws d v) 1 cu)
      (x = none → reads 0 ∧ outs 6) ∧
      (∀ y, x = some y → y.dg = false → reads 0 ∧ outs 5) ∧
      (∀ y, x = some y → y.dg = true → (y.st ≠ 0 → reads (y.digest.extractLsb' (32 * w.toNat) 32)) ∧ (∃ v, reads v) ∧
        (y.out = 0 → wt = true → exec (.digRd cu d a wt true w) s = .next (u.stall .external)) ∧
        (0 < y.out → y.out < 8 → outs (BitVec.ofNat 32 (y.out + 256 * y.cls + 65536 * y.kp + 16777216 * y.fmin))))) ∧
    (Ready s 0x6C cu 0 0 [sr, ur] →
      let i := Instr.protSet cu d a b g pb sr ur paired stall
      let arg : ProtArgs := ⟨d, u.ra a, if paired then 0 else u.ra b, vget l.a pb.toNat 0, (u.rs sr).toNat, (u.rs ur).toNat,
        g.toNat, paired, stall⟩
      let refuses := fun (k : Nat) => exec i s = .next (u.raise ⟨0x18, d.setWidth 32, BitVec.ofNat 32 k⟩)
      let walks := fun (k : Nat) => ∃ y : State, exec i s = .next (u.raiseFrom y ⟨0x18, d.setWidth 32, BitVec.ofNat 32 k⟩) ∧
        y = { u with core := { u.core with tlb := y.core.tlb, pmc := y.core.pmc }, clusTlb := y.clusTlb }
      let two := arg.rgn.toNat % 65536 ≠ 0 ∨ (paired = false ∧ arg.und.toNat % 65536 ≠ 0) ∨ arg.par.toNat % 65536 ≠ 0 ∨
        arg.units = 0 ∨ (paired = true ∧ arg.units % 2 = 1) ∨ (paired = false ∧ arg.undUnits = 0)
      (assoc c.prot d.toNat ≠ none → refuses 1) ∧
      (assoc c.prot d.toNat = none →
        (two → refuses 2) ∧
        (¬two → assoc c.groups g.toNat = none → refuses 5) ∧
        (¬two → ∀ grp, assoc c.groups g.toNat = some grp →
          (u.areas arg grp = none → walks 3) ∧
          (∀ r v p, u.areas arg grp = some (r, v, p) →
            let pages := r.map (·.1) ++ v.map (·.1) ++ p.map (·.1)
            let host := fun (k : Nat) => u.needSnoop (snoopCore s.core.num) (4096 * k) 4096
            let filled := r.map (·.1) ++ p.map (·.1)
            ((∃ k ∈ pages, k ∈ s.guarded) → walks 4) ∧
            ((∃ x ∈ r, ∃ y ∈ v ++ p, x.1 = y.1) ∨ (∃ x ∈ v, ∃ y ∈ p, x.1 = y.1) → walks 4) ∧
            (pages.Nodup → (∀ k ∈ pages, k ∉ s.guarded) → grp.st ≠ .open_ → walks 6) ∧
            (pages.Nodup → (∀ k ∈ pages, k ∉ s.guarded) → grp.st = .open_ → (∃ k ∈ filled, host k ≠ []) →
              ∃ y : State, exec i s = .next (y.stall .external) ∧ (∀ k ∈ filled, ∀ x ∈ host k, x ∈ y.host.snoops) ∧
                y = { u with host := { u.host with snoops := y.host.snoops, pledged := y.host.pledged } }) ∧
            (pages.Nodup → (∀ k ∈ pages, k ∉ s.guarded) → grp.st = .open_ → (∀ k ∈ filled, host k = []) →
              ∃ (t : State) (c' : Ctx) (e : Prot), exec i s = .next (closed t 2 cu) ∧ t.ctxAt s.ctxId = some c' ∧
                assoc c'.prot d.toNat = some e ∧ e.rgn = r.map (·.1) ∧ e.und = v.map (·.1) ∧ e.par = p.map (·.1) ∧
                e.paired = paired ∧ e.stall = stall ∧ e.cg = g.toNat ∧ e.cur = false ∧ e.ucnt = 0 ∧
                (∀ x, memAt t x = if (x / 4096 ∈ r.map (·.1) ∨ x / 4096 ∈ p.map (·.1)) then 0 else memAt s x)))))) ∧
    (Ready s 0x6D cu 0 0 [] →
      (assoc c.prot d.toNat = none → exec (.protClr cu d) s = .next (u.raise ⟨0x18, d.setWidth 32, 1⟩)) ∧
      (∀ p, assoc c.prot d.toNat = some p →
        (s.groupOpen s.ctxId p.cg = false → exec (.protClr cu d) s = .next (u.raise ⟨0x18, d.setWidth 32, 6⟩)) ∧
        (s.groupOpen s.ctxId p.cg = true → ∃ (t : State) (c' : Ctx), exec (.protClr cu d) s = .next (closed t 1 cu) ∧
          t.ctxAt s.ctxId = some c' ∧ assoc c'.prot d.toNat = none ∧
          ∀ x, x / 4096 ∉ p.und → x / 4096 ∉ p.par → x / 64 ∉ p.deferred.map (·.sector) → memAt t x = memAt s x)))) ∧
  (∀ (s : State) (e : Engine) (a : Access) (op : HubOp) (c : Ctx), s.core.live.firstWait e = none →
    s.core.live.firstAcc e = some a → a.kind = .hub op → a.left = true → a.sent = false → s.ctxAt s.ctxId = some c →
    let l := s.core.live
    let returns := fun (d : BitVec 5) (v : Word) (q : State → Ctx → Prop) => ∃ (t : State) (c' : Ctx),
      exec (.hubOperationPerform e) s = .next t ∧ t.ctxAt s.ctxId = some c' ∧ q t c' ∧
      (∀ r, (t.core.live.eng e).sreg r = if r = d ∧ r ≠ 0 ∧ (e, d) ∈ l.pendReg then v else (l.eng e).sreg r) ∧
      (∀ b, b ∈ t.core.live.acc ↔ b ∈ l.acc ∧ b.seq ≠ a.seq) ∧ t.core.live.pendReg = l.pendReg.erase (e, d)
    (∀ n d, op = .semRd n d → returns d (if s.core.detlvl = 0 then Sparse.get 0 c.sems n else 0) fun t c' => c' = c ∧ t.mem = s.mem) ∧
    (∀ q d, op = .flogPop q d → returns d (if ∃ x ∈ c.flog, x.seq = q then 1 else 0) fun t c' =>
      t.mem = s.mem ∧ ∀ x, x ∈ c'.flog ↔ x ∈ c.flog ∧ x.seq ≠ q) ∧
    (∀ d, op = .flogStatClr d → returns d (BitVec.ofNat 32 (c.flog.length + 65536 * c.flogLost)) fun _ c' =>
      c' = { c with flogLost := 0 }) ∧
    (∀ bs d, op = .lnch bs d → c.devQ.length < 64 → returns d (BitVec.ofNat 32 c.devTail) fun _ c' =>
      c' = { c with devQ := c.devQ ++ [bs], devTail := c.devTail + 1 }) ∧
    (∀ g d, op = .curtPrep g d →
      (assoc c.groups g = none → returns d 4 fun _ c' => c' = c) ∧
      (∀ x, assoc c.groups g = some x →
        (x.st = .halted ∨ x.st = .beyond → returns d 3 fun _ c' => c' = c) ∧
        (x.st ∈ [CState.prep, .staged, .commit, .exchange, .rollback] → returns d 2 fun _ c' => c' = c) ∧
        (x.st = .open_ → 0 < x.dpend → returns d 1 fun _ c' => c' = c) ∧
        (x.st = .open_ → x.dpend = 0 → x.dbad = true → returns d 17 fun _ c' => c' = c) ∧
        (x.st = .open_ → x.dpend = 0 → x.dbad = false → x.lost = 0 → returns d 0 fun t c' =>
          t.mem = s.mem ∧ ∃ y, assoc c'.groups g = some y ∧ y.st ∈ [CState.prep, .staged, .commit]))) ∧
    (∀ inp out n kind o set dg root ord d, op = .colStart inp out n kind o set dg root ord d → dg = false →
      (16 ≤ c.colQ.length → exec (.hubOperationPerform e) s = .next s) ∧ (c.colQ.length < 16 → returns d c.colNext fun t c' => t.mem = s.mem ∧ c'.colNext = (if c.colNext + 1 = 0 then 1 else c.colNext + 1) ∧
        ∃ pos, c'.colQ = c.colQ ++ [⟨c.colNext, inp, out, n, kind, o, set, dg, root, ord, pos, none⟩]))) ∧
  (∀ (s : State) (ctx set : Nat) (c : Ctx) (q : ColDesc) (peers : List ColPeer) (far : ColFar), s.ctxAt ctx = some c →
    (c.colQ.find? fun x => x.set == set) = some q → (∀ x ∈ c.colQ, x.id = q.id → x = q) →
    let i := Instr.collectivePerform ctx set peers far
    let faults := fun (k reason : Nat) =>
      (∀ y, s.outputWait ctx q k = some y → exec i s = .next y ∧ y.mem = s.mem ∧ y.core = s.core) ∧
      (s.outputWait ctx q k = none → ∃ (t : State) (c' : Ctx), exec i s = .next t ∧
        t.ctxAt ctx = some c' ∧ (∀ x, x ∈ c'.colQ ↔ x ∈ c.colQ ∧ x ≠ q) ∧
        ∀ y ∈ c'.colStat, y.id = q.id → y.st = 2 ∧ y.reason = reason ∧ y.digest = 0)
    (assoc c.reps set = none → faults 1 5) ∧
    (∀ r, assoc c.reps set = some r →
      let k := r.cfg.k
      ((∃ m ∈ r.cfg.mem, m ∈ c.lost) → faults k 2) ∧
      ((∀ m ∈ r.cfg.mem, m ∉ c.lost) → (∃ m ∈ r.cfg.mem, m ≠ c.self ∧ s.linked ctx m = false) → exec i s = .next s) ∧
      ((∀ m ∈ r.cfg.mem, m ∉ c.lost) → (∀ m ∈ r.cfg.mem, m ≠ c.self → s.linked ctx m = true) →
        (∀ w, q.away = some w →
          (w.told = false → (∃ p ∈ w.peers, p ∈ c.lost) → faults k 3) ∧
          ((∀ p ∈ w.peers, p ∉ c.lost) → (∀ p ∈ w.peers, s.linked ctx p = true) →
            (w.told = false → ∀ x, far.refused = some x → faults k x) ∧
            (w.told = false → far.refused = none → ∃ (t : State) (c' : Ctx), exec i s = .next t ∧ t.mem = s.mem ∧
              t.ctxAt ctx = some c' ∧ { q with away := some { w with told := true } } ∈ c'.colQ ∧
              ∀ j, j < 4 → vget t.colGens j 0 = vget s.colGens j 0 + if j < 3 then 1 else 0) ∧
            (w.told = true → ∃ (t : State) (c' : Ctx), exec i s = .next t ∧ t.mem = s.mem ∧ t.ctxAt ctx = some c' ∧
              (∀ x, x ∈ c'.colQ ↔ x ∈ c.colQ ∧ x ≠ q) ∧ ∀ y ∈ c'.colStat, y.id = q.id → y.st = 1))) ∧
        (q.away = none →
          (peers.length + 1 ≠ k → exec i s = .next s) ∧
          (peers.length + 1 = k →
            ((∃ p ∈ peers, p.fault = true) → faults k 2) ∧
            ((∀ p ∈ peers, p.fault = false) →
              ((∃ p ∈ peers, ¬(p.kind = q.kind ∧ p.op = q.op ∧ p.count = q.count ∧ p.dg = q.dg ∧ p.ordered = q.ordered ∧
                p.root = q.root)) → faults k 1) ∧
              ((∀ p ∈ peers, p.kind = q.kind ∧ p.op = q.op ∧ p.count = q.count ∧ p.dg = q.dg ∧ p.ordered = q.ordered ∧
                p.root = q.root) →
                let bad := 2 ^ 26 < q.count ∨ (q.kind = 2 ∧ q.count % k ≠ 0) ∨ (q.kind = 3 ∧ k ≤ q.root)
                let self := r.cfg.self
                let reads := ¬(q.kind = 3 ∧ q.root ≠ self)
                let m := if q.kind = 1 then k * q.count else if q.kind = 2 then q.count / k else q.count
                let near := fun (p : Piece) (n : Nat) => p.len = 4 * n ∧ p.off = 0 ∧ s.route ctx p.pa = .here ∧
                  s.waitingOn (paOff p.pa) p.len = false ∧ (∀ g ∈ granules (paOff p.pa) p.len, assoc s.holds g = none) ∧
                  ∀ x ∈ sectorsOf (paOff p.pa) p.len, s.regionAt (x / 64) = none ∧ x ∉ s.poison ∧ s.deferredAt x = none ∧
                    ∀ y z, assoc s.secKey x = some (y, z) → z = s.material p.key
                (bad → faults k 6) ∧
                (¬bad → self < k → 0 < q.count → q.dg = false → far.refused = none → far.flips = [] → s.host.hostBias = [] →
                  ∀ pin po ts, s.colCheck ctx q.id true q.out (4 * m) = .ok [po] ts → near po m →
                  (reads → (∃ us, s.colCheck ctx q.id false q.inp (4 * q.count) = .ok [pin] us) ∧ near pin q.count) →
                  let word := fun (a : Nat) => memAt s (a + 3) ++ memAt s (a + 2) ++ memAt s (a + 1) ++ memAt s a
                  let part := fun (j e : Nat) => if j = self then word (paOff pin.pa + 4 * e)
                    else (((peers.map ColPeer.words).insertIdx self []).getD j []).getD e 0
                  let newWord := fun (x v : Word) =>
                    if q.op = 0 then v
                    else if q.op = 1 then BitVec.ofNat 32 (roundOp fp32 .rne ((fp32.decode x.toNat).add (fp32.decode v.toNat))).1
                    else if q.op = 2 then x + v else if q.op = 3 then (if v.slt x then v else x)
                    else if q.op = 4 then (if x.slt v then v else x) else if q.op = 5 then x &&& v
                    else if q.op = 6 then x ||| v else x ^^^ v
                  let red := fun (e : Nat) => (List.range (k - 1)).foldl (fun x j => newWord x (part (j + 1) e)) (part 0 e)
                  let result := fun (e : Nat) => if q.kind = 0 then red e else if q.kind = 1 then part (e / q.count) (e % q.count)
                    else if q.kind = 2 then red (q.count * self / k + e) else part q.root e
                  ∃ (t : State) (c' : Ctx), exec i s = .next t ∧ t.ctxAt ctx = some c' ∧
                    (∀ y ∈ c'.colStat, y.id = q.id → y.st = 1) ∧ (∀ x, x ∈ c'.colQ ↔ x ∈ c.colQ ∧ x ≠ q) ∧
                    (∀ x, x < paOff po.pa ∨ paOff po.pa + 4 * m ≤ x → memAt t x = memAt s x) ∧
                    (q.kind = 1 ∨ q.kind = 3 ∨ q.ordered = true ∨ q.op ≠ 1 → ∀ e, e < m → ∀ j, j < 4 →
                      memAt t (paOff po.pa + 4 * e + j) = (result e).extractLsb' (8 * j) 8))))))))) ∧
  (∀ (s : State) (ctx set pos member : Nat) (dig : BitVec 128) (c : Ctx) (x : ColStat) (r : Replica), s.ctxAt ctx = some c →
    (c.colStat.find? fun y => y.set == set && y.pos == pos && y.out == 0) = some x → assoc c.reps set = some r →
    member < r.cfg.k → member ≠ r.cfg.self → r.cfg.mem.getD member 0 ∉ c.lost → x.st = 0 → (∀ y ∈ c.colStat, y.id = x.id → y = x) →
    (s.linked ctx (r.cfg.mem.getD member 0) = false → exec (.digestMessage ctx set pos member dig) s = .next s) ∧
    (s.linked ctx (r.cfg.mem.getD member 0) = true → ∃ (t : State) (c' : Ctx), exec (.digestMessage ctx set pos member dig) s = .next t ∧ t.ctxAt ctx = some c' ∧
      c'.colStat = c.colStat.map fun y => if y.id = x.id then { y with digests := assocSet y.digests member dig } else y))

/-! ### Acts on a core (R17 to R22, R30, R124, R292, R293, R319, R322 to R333) -/

/-- The instructions of acts, and what follows them at the core (R17, R18, R30, R124, R213, R292, R293, R326 to R328, R331): claims
of `act.next`; the read of `act.spawn` and the act it enters; the rendezvous of `cue`, `act.yield` and `act.end` with their
mismatch; what a cue point clears, keeps and, for an act that is to suspend, writes back; the deadlock of the greatest set of
engines that hold one another blocked; and the delivery of a slow result that is due. The model's choices: which blocked set a deadlock
names (log 10); that slowResultDelivery comes only while X has started nothing and has no back edge to decide, as the 14th counted
instruction starts (log 11); that a child of a cancelled launch is dropped once its record has been read, and that a ready act enters the
pool of every die (log 25). -/
def Obligations.ActInstructions : Prop :=
  (∀ (s : State) (cu : Cue) (d a b : BitVec 5), Ready s 0x77 cu 0 0 [d, a, b] → (d ≠ b ∨ d = 0) →
    let u := opened s cu
    let claims := fun (first count : Word) (cur : Word) => ∃ t, exec (.actNext cu d a b) s = .next (closed t 1 cu) ∧
      (∀ r, t.rs r = if r = 0 then 0 else if r = b then count else if r = d then first else u.rs r) ∧
      t.core.actCur = cur ∧ t.core.actCeil = s.core.actCeil ∧ t.eng.claims = s.eng.claims + 1 ∧ t.mem = s.mem
    ((s.core.claims.find? fun x => x.1 == s.cur && x.2.1 == s.eng.claims) = none →
      ∀ k : Word, k.toNat = min (u.rs a).toNat (s.core.actCeil - s.core.actCur).toNat →
        claims s.core.actCur k (s.core.actCur + k)) ∧
    (∀ x, (s.core.claims.find? fun x => x.1 == s.cur && x.2.1 == s.eng.claims) = some x →
      claims x.2.2.1 x.2.2.2 s.core.actCur)) ∧
  (∀ (s : State) (cu : Cue) (a : BitVec 5), Ready s 0x76 cu 0 0 [] →
    let u := opened s cu
    let ck := u.range { write := false } (u.ra a) 64 64
    let acc := fun (n : Nat) (kd : AccKind) (left : Bool) => (⟨n, .a, kd, left, false, 0, false, none, none, none, u.core.live.known .a⟩ : Access)
    (∀ t ts, ck = .trap t ts → ∃ y : State, exec (.actSpawn cu a) s = .next (u.raiseFrom y t) ∧
      y = { u with core := { u.core with tlb := y.core.tlb, pmc := y.core.pmc }, clusTlb := y.clusTlb, ctxs := y.ctxs } ∧
      (t.code ≠ 0x11 → y.ctxs = u.ctxs)) ∧
    (∀ p x, Passes u ck [p] x → ∀ (j : List Access) (n : Nat),
      (s.spawnScope = 0 → j = [] ∧ n = u.core.live.seq) →
      (s.spawnScope ≠ 0 → j = [acc u.core.live.seq (.release s.spawnScope none) true] ∧ n = u.core.live.seq + 1) →
      exec (.actSpawn cu a) s = .next ((x.modLive fun l => { l with
        acc := l.acc ++ j ++ [acc n (.hub (.spawn p)) false], ea := { l.ea with phase := 1, phaseSeq := n },
        seq := n + 1 }).stall .external))) ∧
  (∀ (s : State) (acc : Access) (p : Piece) (a0 : Act) (c : Ctx) (cu : Cue) (r : BitVec 5), 
    s.core.live.firstWait .a = none → s.core.live.firstAcc .a = some acc → acc.kind = .hub (.spawn p) → acc.left = true →
    acc.sent = false → s.core.act = some a0 → s.ctxAt a0.ctx = some c → AtHand s p → s.core.live.ea.started = true →
    s.core.live.ea.phase = 1 → s.core.live.ea.phaseSeq = acc.seq → s.core.live.ea.fetched = .actSpawn cu r →
    let b := s.childOf a0 (s.homeBytes p.key (paOff p.pa) p.len)
    let child := { b with slot := s.freeStoreSlot a0.ctx }
    let counts := fun (t : State) (f : Launch → Launch) => t.launches = s.launches.map fun l => if l.id = a0.launch then f l else l
    let nowhere := fun (t : State) => t.core.wings = s.core.wings ∧ t.pools = s.pools ∧ t.mem = s.mem
    ∃ t, exec (.hubOperationPerform .a) s = .next t ∧ t.core.live.ea.started = false ∧
      t.core.live.ea.pc = s.core.live.ea.pc + 1 ∧ (∀ x, x ∈ t.core.live.acc ↔ x ∈ s.core.live.acc ∧ x.seq ≠ acc.seq) ∧
      (c.badRecord b.record = true → nowhere t ∧ counts t fun l => { l with bad := l.bad + 1 }) ∧
      (c.badRecord b.record = false → s.cancelledOf a0 = true → nowhere t ∧ counts t fun l => { l with dropped := l.dropped + 1 }) ∧
      (c.badRecord b.record = false → s.cancelledOf a0 = false → (counts t fun l => { l with open_ := l.open_ + 1 }) ∧
        (s.core.wings.length < 16 → t.core.wings = child :: s.core.wings ∧ t.pools = s.pools) ∧
        (16 ≤ s.core.wings.length → t.core.wings = s.core.wings ∧
          ∀ d, d < 4 → vget t.pools d [] = vget s.pools d [] ++ [(b.record.prio, .act child)]) ∧
        (s.freeStoreSlot a0.ctx = none → t.mem = s.mem) ∧
        (∀ k, s.freeStoreSlot a0.ctx = some k → s.slotAt a0.ctx k % 64 = 0 → ∀ x, memAt t x =
          if s.slotAt a0.ctx k ≤ x ∧ x < s.slotAt a0.ctx k + 64 then b.record.bytes.getD (x - s.slotAt a0.ctx k) 0 else memAt s x))) ∧
  (∀ (s : State) (cu : Cue) (n : BitVec 13) (i : Instr) (op : BitVec 7) (x : Nat),
    ((i = .cue cu n ∧ op = 0x02 ∧ x = n.toNat) ∨ (i = .actYield cu ∧ op = 0x78 ∧ x = 0x2000) ∨
      (i = .actEnd cu ∧ op = 0x79 ∧ x = 0x2001)) →
    Ready s op cu 0 0 [] → s.eng.slots = 0 →
    let u := s.begun (b2n cu.wp) (b2n cu.wn) true
    let others := fun (y : Option Nat) => ∀ f, f ≠ s.cur → (s.core.live.eng f).rend = none ∨ (s.core.live.eng f).rend = y
    (s.cur = .m → s.core.live.pass ≠ none → exec i s = .next (u.raise ⟨8, 4, 0⟩)) ∧
    ((s.cur = .m → s.core.live.pass = none) →
      (others (some x) → exec i s = .next ((u.modEng fun y => { y with rend := some x, phase := 1 }).stall (.rendezvous x))) ∧
      (∀ m, m ≠ x → others (some m) → (∃ f, f ≠ s.cur ∧ (s.core.live.eng f).rend = some m) →
        exec i s = .next (u.raise ⟨7, BitVec.ofNat 32 x, BitVec.ofNat 32 m⟩)))) ∧
  (∀ (s : State) (k : Scene) (n : Nat), s.running = true → n < 0x2000 → s.actScene = some k → s.noCopies = true →
    (∀ e, (s.core.live.eng e).rend = some n ∧ (s.core.live.eng e).retire = []) →
    let l := s.core.live
    let passes := fun (t : State) =>
      t.core.act = s.core.act ∧ t.core.lastCue = n ∧ t.mem = s.mem ∧ (∀ c, c < 8 → (vget t.core.chans c ⟨0, []⟩).cwp = 0) ∧
      let v := t.core.live
      (∀ e, (v.eng e).pc = (k.starts n).getD e.idx 0 ∧ (v.eng e).rend = none ∧
        (∀ j, (v.eng e).flag j = false ∧ (v.eng e).target j = 0 ∧ ((v.eng e).level j).act = false) ∧
        ∀ r, (∀ m ∈ k.liveMap n, m.extractLsb' 14 2 = 1 → engineOf (m.extractLsb' 12 2).toNat = e → m.extractLsb' 0 5 ≠ r) →
          (v.eng e).sreg r = 0) ∧
      (∀ m ∈ k.liveMap n, v.readLive m = l.readLive m) ∧ v.fpflags = l.fpflags ∧
      ((k.rangesAt n).Pairwise (fun x y => x.1 + x.2 ≤ y.1) →
        ∀ r ∈ k.rangesAt n, ∀ x, r.1 ≤ x → x < r.1 + r.2 → v.scratch.get x = l.scratch.get x) ∧
      v.v = Vector.replicate 28 VReg.zero ∧ (∀ q, q < 8 → vget v.p q 0 = 0) ∧ v.tiles = [] ∧ v.accst = 0 ∧
      (∀ q, v.loadQ q = [] ∧ v.storeQ q = [] ∧ v.tokens q = 0) ∧ v.rowbuf = [] ∧ v.window = []
    (s.core.yieldMark = false → s.core.request = none → ∃ t, exec .cuePointPass s = .next t ∧ passes t ∧ t.core.ending = none) ∧
    (s.core.yieldMark = true ∨ s.core.request ≠ none →
      (s.quiet = true → s.slotFree = true → ∃ t, exec .cuePointPass s = .next t ∧ passes t ∧ t.core.ending = some (.suspend n)) ∧
      (s.quiet = false ∨ s.slotFree = false → exec .cuePointPass s = .next s))) ∧
  (∀ (s : State) (a : Act) (k : Scene) (n slot : Nat), s.core.ending = some (.suspend n) → s.core.act = some a → s.actScene = some k →
    s.slotOf a = some slot → s.slotAt a.ctx slot % 64 = 0 → s.spent = true → s.chansIdle = true →
    (∀ x ∈ s.core.live.acc, x.eng = .a → x.left = true) →
    let l := s.core.live
    let rec' := { a.record with cueix := BitVec.ofNat 16 n, lo := s.core.actCur, hi := s.core.actCeil,
                                live := (k.liveMap n).map l.readLive }
    let leaves := fun (t : State) => ∃ b : Act, t.core.act = none ∧
      (∀ d, d < 4 → (b.record.prio, PoolItem.act b) ∈ vget t.pools d []) ∧ b.ctx = a.ctx ∧ b.launch = a.launch ∧
      b.num = a.num ∧ b.home = s.core.num ∧ b.slot = some slot ∧ b.record = rec' ∧
      b.image = .cue l.fpflags s.core.num l.scratch l.scales ∧
      ∀ x, x < 64 → memAt t (s.slotAt a.ctx slot + x) = rec'.bytes.getD x 0
    (s.core.releasing = none → max 3 s.rsc ≠ 4 ∨ s.livePeers = [] → ∃ t, exec (.heldOperationLeave .a) s = .next t ∧ leaves t ∧
      ∀ i, i < 3 → vget t.core.gens i 0 = vget s.core.gens i 0 + 1) ∧
    (s.core.releasing = none → max 3 s.rsc = 4 → s.livePeers ≠ [] → ∃ t, exec (.heldOperationLeave .a) s = .next t ∧
      t.core.act = s.core.act ∧ t.mem = s.mem ∧ t.core.releasing = some s.livePeers ∧
      ∀ i, i < 4 → vget t.core.gens i 0 = vget s.core.gens i 0 + 1) ∧
    (s.core.releasing = some [] → ∃ t, exec (.heldOperationLeave .a) s = .next t ∧ leaves t)) ∧
  (∀ (s : State), s.running = true → (∀ e, (s.core.live.eng e).rend = some 0x2000 ∧ ∃ cu, (s.core.live.eng e).fetched = .actYield cu) →
    ∃ t, exec .actYieldRendezvous s = .next t ∧ t.core.yieldMark = true ∧ t.core.request = none ∧ t.core.act = s.core.act ∧
      t.mem = s.mem ∧ t.cur = s.cur ∧
      ∀ e, (t.core.live.eng e).rend = none ∧ (t.core.live.eng e).started = false ∧
        (t.core.live.eng e).pc = (s.core.live.eng e).pc + 1 ∧
        ∀ r, (t.core.live.eng e).sreg r = (s.core.live.eng e).sreg r) ∧
  (∀ (s : State) (a : Act), s.running = true → s.core.act = some a → s.quiet = true →
    (∀ e, (s.core.live.eng e).rend = some 0x2001 ∧ (s.core.live.eng e).retire = []) →
    let inner := match s.launchAt a.launch with
      | some l => l.record.innerScope
      | none => 0
    let scope := max s.rsc inner
    let ends := fun (t : State) => t.core.act = none ∧ t.core.wings = s.core.wings ∧ t.mem = s.mem ∧
      t.launches = s.launches.map fun l =>
        if l.id = a.launch then { l with ended := l.ended + 1, open_ := l.open_ - 1 } else l
    (s.core.releasing = none → scope ≠ 4 ∨ s.livePeers = [] → ∃ t, exec .actEndRendezvous s = .next t ∧ ends t ∧
      ∀ i, i < 4 → vget t.core.gens i 0 = if i < scope then vget s.core.gens i 0 + 1 else vget s.core.gens i 0) ∧
    (s.core.releasing = none → scope = 4 → s.livePeers ≠ [] → ∃ t, exec .actEndRendezvous s = .next t ∧
      t.core.act = s.core.act ∧ t.mem = s.mem ∧ t.core.releasing = some s.livePeers) ∧
    (∀ x xs, s.core.releasing = some (x :: xs) → exec .actEndRendezvous s = .next s) ∧
    (s.core.releasing = some [] → ∃ t, exec .actEndRendezvous s = .next t ∧ ends t)) ∧
  (∀ (s : State),
    let closed_ := fun (D : List Engine) => ∀ f ∈ D, match s.blocked f with
      | some (.anyOf w) => ∀ g ∈ w, g ∈ D
      | some (.allOf w) => ∃ g ∈ w, g ∈ D
      | none => False
    ((∀ D, closed_ D → D = []) → exec .deadlock s = .next s) ∧
    (∀ D e, closed_ D → (∀ D', closed_ D' → ∀ f ∈ D', f ∈ D) → e ∈ D → (∀ f ∈ D, e.idx ≤ f.idx) →
      ∃ mask : Word, exec .deadlock s = .next (s.take e ⟨8, mask, 0⟩) ∧
        mask.toNat < 16 ∧ ∀ f, mask.getLsbD f.idx = true ↔ f ∈ D)) ∧
  (∀ (s : State), (s.core.live.ex.started = true ∨ s.core.live.ex.backEdge ≠ none → exec .slowResultDelivery s = .next s)) ∧
  (∀ (s : State) (r : Slow), s.core.live.ex.started = false → s.core.live.ex.backEdge = none → (s.core.live.slow.filter fun x => decide (x.left ≤ 1)) = [r] →
    ∃ t, exec .slowResultDelivery s = .next t ∧ t.core.live.fpflags = s.core.live.fpflags ||| r.flags ∧
      (∀ n, t.core.live.ex.sreg n = if n = r.dst ∧ n ≠ 0 then r.val else s.core.live.ex.sreg n) ∧
      (∀ x, x ∈ t.core.live.slow ↔ x ∈ s.core.live.slow ∧ 1 < x.left) ∧
      (∀ f, f ≠ .x → t.core.live.eng f = s.core.live.eng f) ∧ t.mem = s.mem)

/-- The events of acts and cores (R19, R20, R22, R200, R202, R317, R319, R322, R324, R325, R331, R332, R347, R348, R385): what a
placement gives a core that starts or resumes an act, and what becomes of a bad record; a full image, and who asks for one; the
answers to a thief; an upset and the counts of errors; and the replacement of a core. The model's choices: that a full image leaves memory
beyond the record and the header of its slot unchanged (log 8); how much of the past an upset can undo (log 20); that a ready act enters
the pool of every die, that refused steals count at the victim, and which core the draw of a thief names (log 25); and the two uses of a
replacement (log 28). -/
def Obligations.ActEvents : Prop :=
  (∀ (s : State) (a : Act) (x : PoolItem) (c : Ctx) (k : Scene), s.idleCore s.core.num = true →
    s.pick s.core.num = some (.single a x) → s.ctxAt a.ctx = some c →
    let n := a.record.cueix.toNat
    let runs := fun (t : State) => exec .actPlacement s = .next t ∧ t.mem = s.mem ∧ ∃ b, t.core.act = some b ∧ b.record = a.record ∧
      b.ctx = a.ctx ∧ b.launch = a.launch ∧ b.num = a.num ∧ t.core.actCur = a.record.lo ∧ t.core.actCeil = a.record.hi ∧
      t.core.detlvl = a.record.det ∧ t.core.claims = [] ∧ t.core.request = none ∧ t.core.ending = none ∧
      (s.core.scene ≠ some (a.ctx, k.id) → ∀ e i, (t.core.live.eng e).word i = (k.streams.getD e.idx []).getD i 0)
    (c.sceneOf a.record.scene = some k → c.badRecord a.record = false → (∀ o l ch m y, a.image ≠ .full o l ch m y) →
      ∃ t, runs t ∧ t.core.lastCue = n ∧
        (∀ e, (t.core.live.eng e).pc = (k.starts n).getD e.idx 0 ∧ (t.core.live.eng e).rend = none ∧
          (t.core.live.eng e).stopped = false ∧ (t.core.live.eng e).retire = []) ∧
        (liveMapOk (k.liveMap n) = true → ∀ (i : Nat) m w, (k.liveMap n)[i]? = some m → a.record.live[i]? = some w → m ≠ 0 →
          t.core.live.readLive m = w) ∧
        (a.image = .none → t.core.live.fpflags = 0 ∧ ((k.rangesAt n).Pairwise (fun x y => x.1 + x.2 ≤ y.1) →
          ∀ r ∈ k.rangesAt n, ∀ y, r.1 ≤ y → y < r.1 + r.2 → t.core.live.scratch.get y = 0)) ∧
        (∀ f o m z, a.image = .cue f o m z → t.core.live.fpflags = f ∧
          ((k.rangesAt n).Pairwise (fun x y => x.1 + x.2 ≤ y.1) →
            ∀ r ∈ k.rangesAt n, ∀ y, r.1 ≤ y → y < r.1 + r.2 → t.core.live.scratch.get y = m.get y))) ∧
    (c.sceneOf a.record.scene = some k → c.badRecord a.record = false → ∀ o l ch m y, a.image = .full o l ch m y →
      ∃ t, runs t ∧ t.core.lastCue = m ∧ t.core.yieldMark = y ∧ t.core.chans = ch ∧ t.core.live.v = l.v ∧ t.core.live.a = l.a ∧
        t.core.live.scratch = l.scratch ∧ t.core.live.tiles = l.tiles ∧ t.core.live.tok = l.tok ∧ t.core.live.slow = l.slow ∧
        ∀ e, (t.core.live.eng e).pc = (l.eng e).pc ∧ (t.core.live.eng e).rend = (l.eng e).rend ∧
          (t.core.live.eng e).started = (l.eng e).started ∧ ∀ r, (t.core.live.eng e).sreg r = (l.eng e).sreg r) ∧
    (c.badRecord a.record = true → ∀ y, x = .act y → ∃ t, exec .actPlacement s = .next t ∧ t.core.act = none ∧ t.mem = s.mem ∧
      t.launches = s.launches.map fun l => if l.id = a.launch then { l with bad := l.bad + 1, open_ := l.open_ - 1 } else l)) ∧
  (∀ (s : State) (l : Launch) (acts : List (Act × Nat)), s.idleCore s.core.num = true → s.pick s.core.num = some (.all l acts) →
    ∃ t, exec .actPlacement s = .next t ∧
      ∀ d p x, (p, x) ∈ vget t.pools d [] → x ≠ .gen l.id ∧ ∀ a, x = .act a → a.launch ≠ l.id) ∧
  (∀ (s : State) (a : Act) (ws : List Act), s.core.wings = a :: ws → s.eligibleAct a s.core.num = true →
    (∀ x ∈ vget s.pools (dieOf s.core.num) [], x.1 ≤ a.record.prio) → s.pick s.core.num = some (.single a (.act a))) ∧
  (∀ (s : State) (a : Act), s.core.act = some a →
    (s.running = true → s.core.request = some true →
      exec .fullImageSuspension s = .next { s with core := { s.core with ending := some (.image none) } }) ∧
    (∀ slot, s.slotOf a = some slot → s.slotAt a.ctx slot % 64 = 0 → s.saveable = true →
      s.core.releasing = some [] ∨ (s.core.releasing = none ∧ (max 3 s.rsc ≠ 4 ∨ s.livePeers = [])) →
      let rec' := { a.record with cueix := BitVec.ofNat 16 s.core.lastCue, lo := s.core.actCur, hi := s.core.actCeil }
      let place := s.slotAt a.ctx slot
      let saves := fun (w : Option (Nat × Word)) (t : State) (b : Act) => exec .fullImageSuspension s = .next t ∧ t.core.act = none ∧
        (∀ x, x < 64 → memAt t (place + x) = rec'.bytes.getD x 0) ∧
        (∀ x, x < place ∨ place + 128 ≤ x → memAt t x = memAt s x) ∧ b.record = rec' ∧ b.slot = some slot ∧
        b.image = .full s.core.num (s.core.live.unwait w) s.core.chans s.core.lastCue s.core.yieldMark ∧ b.home = s.core.num ∧
        b.ctx = a.ctx ∧ b.launch = a.launch ∧ b.num = a.num
      (s.core.ending = some (.image none) →
        ∃ t b, saves none t b ∧ ∀ d, d < 4 → (b.record.prio, PoolItem.act b) ∈ vget t.pools d []) ∧
      (∀ n v, s.core.ending = some (.image (some (n, v))) → (∃ e, s.core.live.semAcc e = some (n, v)) →
          s.semVal a.ctx n < v →
        ∃ t b, saves (some (n, v)) t b ∧ t.waiters = s.waiters ++ [(b, n, v)]) ∧
      (∀ n v, s.core.ending = some (.image (some (n, v))) → v ≤ s.semVal a.ctx n ∨ (∀ e, s.core.live.semAcc e ≠ some (n, v)) →
        ∃ t b, saves (some (n, v)) t b ∧ ∀ d, d < 4 → (b.record.prio, PoolItem.act b) ∈ vget t.pools d [])) ∧
    (s.running = true → (s.core.request ≠ none →
        exec .regionExpiry s = .next { s with core := { s.core with ending := some (.image none) } }) ∧
      (s.core.request = none → exec .regionExpiry s = .next s)) ∧
    (∀ hard, s.core.ending = none → ∃ t, exec (.intermissionRequest hard) s = .next t ∧ t.mem = s.mem ∧
      (s.core.request = none → t.core = { s.core with request := some hard }) ∧ (s.core.request ≠ none → t.core = s.core) ∧
      ((∀ l, s.launchAt a.launch = some l → l.record.cor = false) → s.core.request = none →
        t = { s with core := { s.core with request := some hard } }))) ∧
  (∀ (s : State) (die prio : Nat),
    let cores := fun (x : Nat × PoolItem) => s.allCores.filter fun c => dieOf c.num == die && c.act.isSome && s.wouldRun c.num x.2
    ((∀ x ∈ vget s.pools die [], x.1 = prio → ∀ c ∈ cores x, ∀ a, c.act = some a → prio ≤ a.record.prio) →
      exec (.priorityWaitExpiry die prio) s = .next s) ∧
    (∀ pre x post, vget s.pools die [] = pre ++ x :: post → x.1 = prio →
      (∀ y ∈ pre, y.1 = prio → ∀ c ∈ cores y, ∀ a, c.act = some a → prio ≤ a.record.prio) →
      (∃ c ∈ cores x, ∃ a, c.act = some a ∧ a.record.prio < prio) →
      ∃ c a, exec (.priorityWaitExpiry die prio) s = .next (s.onCore c.num fun s => s.ask false) ∧ c ∈ cores x ∧ c.act = some a ∧
        a.record.prio < prio ∧ ∀ d ∈ cores x, ∀ b, d.act = some b →
          a.record.prio < b.record.prio ∨ (a.record.prio = b.record.prio ∧ a.placed ≤ b.placed))) ∧
  (∀ (s : State) (thief : Nat), thief < 160 → s.idleCore thief = true → (s.coreAt thief).resting = false →
    s.pick thief = none → thief ≠ s.core.num → (s.coreAt thief).num = thief →
    s.victimOf thief (s.coreAt thief).attempts (s.coreAt thief).stealsLeft = s.core.num →
    let s1 := s.modCore thief (Core.asked (s.toAsk thief (s.coreAt thief).stealsLeft))
    let starts := fun (a : Act) (u : State) (rec' : ActRec) => ∀ c, s.ctxAt a.ctx = some c → c.badRecord rec' = false →
      ∃ b, (u.coreAt thief).act = some b ∧ b.record = rec' ∧ b.ctx = a.ctx ∧ b.launch = a.launch ∧ b.num = a.num
    let refuses := ∃ u, exec (.stealRequest thief) s = .next u ∧ u.core = { s.core with
        pmc := vset s.core.pmc 11 (vget s.core.pmc 11 0 + 1) } ∧ (u.coreAt thief).attempts = (s.coreAt thief).attempts + 1 ∧
      (u.coreAt thief).act = none
    (s.core.request ≠ none ∨ s.core.ending ≠ none ∨ s.core.num ∈ s.replacing → refuses) ∧
    (s.busyVictim = false →
      (∀ ws a l, s.core.wings = ws ++ [a] → s.launchAt a.launch = some l → l.unstealable = false →
        s1.eligibleAct a thief = true → ∃ u, exec (.stealRequest thief) s = .next u ∧ u.core.wings = ws ∧
          u.core.act = s.core.act ∧ u.core.actCeil = s.core.actCeil ∧ starts a u a.record) ∧
      (∀ a l, s.core.wings = [] → s.core.act = some a → s.launchAt a.launch = some l →
        let r := (s.core.actCeil - s.core.actCur).toNat
        (l.unstealable = true ∨ r < 2 ∨ s.core.actCeil.toNat ≤ s.core.actCur.toNat → refuses) ∧
        (l.unstealable = false → s.core.actCur.toNat < s.core.actCeil.toNat → 2 ≤ r →
          s1.eligibleAct { a with spawned := false } thief = true →
          let mid := s.core.actCur + BitVec.ofNat 32 ((r + 1) / 2)
          ∃ u, exec (.stealRequest thief) s = .next u ∧ u.core.actCeil = mid ∧ u.core.actCur = s.core.actCur ∧
            u.core.act = s.core.act ∧ u.core.wings = [] ∧
            starts a u { a.origin with lo := mid, hi := s.core.actCeil })))) ∧
  (∀ (s : State), (s.core.resting = true →
      exec .stealRestExpiry s = .next { s with core := { s.core with resting := false, stealsLeft := 16 } }) ∧
    (s.core.resting = false → exec .stealRestExpiry s = .next s)) ∧
  (∀ (s : State) (back : Nat), ∃ t, exec (.upsetReport back) s = .next t ∧ t.mem = s.mem ∧ t.core.ups = s.core.ups + 1 ∧
    vget t.core.pmc 12 0 = vget s.core.pmc 12 0 + 1 ∧ t.core.actCur = s.core.actCur ∧ t.core.actCeil = s.core.actCeil ∧
    (s.core.lasting = true ∨ 2 ≤ s.core.ups → t.core.lasting = true) ∧
    (s.core.live.replayable = true → ∀ k, s.core.ring[min back (s.core.ring.length - 1)]? = some k →
      t.core.live = (if k.live.replayable = true then k.live.replay else k.live) ∧ t.core.halt = k.halt ∧
      t.core.yieldMark = k.yieldMark ∧ t.core.lastCue = k.lastCue ∧
      t.core.ending = if s.core.cancelled = true then s.core.ending else k.ending) ∧
    (s.core.live.replayable = false → s.core.act ≠ none → t.core.act = s.core.act ∧ t.core.ending ≠ none)) ∧
  (∀ (s : State),
    (s.core.cor < 1023 → exec .correctedSramError s = .next { s with core := { s.core with cor := s.core.cor + 1 } }) ∧
    (1023 ≤ s.core.cor → ∃ t, exec .correctedSramError s = .next t ∧
      t.core = { s.core with cor := s.core.cor + 1, lasting := true }) ∧
    exec (.countingWindowEnd none) s = .next { s with core := { s.core with ups := 0, cor := 0 } } ∧
    ∀ k, ∃ t, exec (.countingWindowEnd (some k)) s = .next t ∧ t.core = s.core ∧ t.mem = s.mem ∧
      ∀ x, x ∈ t.stackCor ↔ x ∈ s.stackCor ∧ x.1 / 512 ≠ k) ∧
  (∀ (s : State) (p : Nat), s.core.num < 160 →
    let n := s.core.num
    let die := dieOf n
    (s.core.act ≠ none → s.core.ending = none → ∀ phys, ∃ t, exec (.coreReplacement phys) s = .next t ∧
      t.placeable n = false ∧ t.core.ending = some (.image none) ∧ t.core.act = s.core.act) ∧
    (s.core.act = none → p < 44 → (die, p) ∉ s.retired → (∀ i, i < 40 → s.physOf (40 * die + i) ≠ p) →
      ∃ t, exec (.coreReplacement (some p)) s = .next t ∧ t.physOf n = p ∧ t.placeable n = true ∧
        (die, s.physOf n) ∈ t.retired ∧ t.core.live = Live.reset ∧ t.core.gens = s.core.gens ∧ t.mem = s.mem ∧
        Notice.status 0 ∈ t.notices) ∧
    (s.core.act = none → (∀ q, q < 44 → (die, q) ∈ s.retired ∨ ∃ i, i < 40 ∧ s.physOf (40 * die + i) = q) →
      ∃ t, exec (.coreReplacement none) s = .next t ∧ t.available n = false ∧ Notice.noUnderstudy n ∈ t.notices ∧ t.mem = s.mem))

/-! ### Launches (R25, R31 to R33, R38, R41, R310 to R318, R354) -/

/-- The events of launches (R31 to R33, R38, R41, R310 to R316, R354): rings, doorbells and slots; what the launch fetcher does
with the record that it takes next, by its kind; start barriers; and completion entries, with the answer of a peer that owns one.
Readings of the manual: log 25. -/
def Obligations.LaunchEvents : Prop :=
  (∀ (s : State) (q ctx cls size base : Nat) (tail : Word),
    (q < 4096 ∧ s.ring q = none ∧ s.ctxAt ctx ≠ none ∧ cls < 4 ∧ 4 ≤ size ∧ size ≤ 16 →
      ∃ (t : State) (r : Ring), exec (.ringRegistration q ctx cls size base) s = .next (t.status 0) ∧ t.ring q = some r ∧ r.ctx = ctx ∧ r.cls = cls ∧
        r.size = size ∧ r.base = base ∧ r.head = 0 ∧ r.tail = 0 ∧ r.halted = false ∧ t.mem = s.mem) ∧
    (¬(q < 4096 ∧ s.ring q = none ∧ s.ctxAt ctx ≠ none ∧ cls < 4 ∧ 4 ≤ size ∧ size ≤ 16) →
      exec (.ringRegistration q ctx cls size base) s = .next (s.status 3)) ∧
    (s.host.up = false ∨ s.host.retraining = true ∨ s.host.lost = true ∨ 4096 ≤ q → exec (.doorbell q tail) s = .next s) ∧
    (s.host.up = true → s.host.retraining = false → s.host.lost = false → q < 4096 → ∀ r, s.ring q = some r →
      ∃ t, exec (.doorbell q tail) s = .next t ∧ t.host.releases = s.host.releases ++ [s.order] ∧ t.mem = s.mem ∧
        Sparse.get 0 t.bells q = tail ∧
        (tail = r.tail → t.rings = s.rings) ∧
        (tail ≠ r.tail → 2 ^ r.size < (tail - r.head).toNat →
          t.ring q = some { r with tail := tail, halted := true } ∧ Notice.ringHalted q ∈ t.notices) ∧
        (tail ≠ r.tail → (tail - r.head).toNat ≤ 2 ^ r.size →
          ∃ x, t.ring q = some x ∧ x.tail = tail ∧ x.head = r.head ∧ x.halted = r.halted)) ∧
    (∀ r, s.ring q = some r →
      (s.mapped q = true → r.head = r.tail → exec (.slotIdleExpiry q) s = .next { s with slots := s.slots.filter fun t => t.q != q }) ∧
      (r.head ≠ r.tail → exec (.slotIdleExpiry q) s = .next s) ∧
      (s.mapped q = true → r.head ≠ r.tail → r.halted = false →
        ∃ t, exec (.slotWaitExpiry q) s = .next t ∧ t.ring q = some { r with urgent := true } ∧ t.slots = s.slots)) ∧
    (∀ k m, let minOf := fun j => if j = k then m else vget s.classMin j 0
      (k < 4 ∧ m ≤ 256 ∧ minOf 0 + minOf 1 + minOf 2 + minOf 3 ≤ 256 →
        ∃ t : State, exec (.priorityClassWrite k m) s = .next (t.status 0) ∧ ∀ j, j < 4 → vget t.classMin j 0 = minOf j) ∧
      (¬(k < 4 ∧ m ≤ 256 ∧ minOf 0 + minOf 1 + minOf 2 + minOf 3 ≤ 256) →
        exec (.priorityClassWrite k m) s = .next (s.status 3)))) ∧
  (∀ (s : State) (q : Nat),
    (s.nextMapped ≠ some q → exec (.slotMapping q) s = .next s) ∧
    (s.nextMapped = some q → s.slots.length < 256 →
      exec (.slotMapping q) s = .next { s with slots := s.slots ++ [⟨q, s.order⟩], order := s.order + 1 }) ∧
    (s.nextMapped = some q → 256 ≤ s.slots.length → ∀ b, s.borrowed = some b → b.q ≠ q →
      ∃ t, exec (.slotMapping q) s = .next t ∧ t.mapped q = true ∧ t.mapped b.q = false ∧
        ∀ r, s.ring b.q = some r → ∃ x, t.ring b.q = some x ∧ x.head = r.head ∧ x.tail = r.tail) ∧
    (∀ r, (s.rings.map (·.1)).Nodup → s.slots.length < 256 → s.nextMapped = some q → s.ring q = some r →
      (∀ k, k < 4 → s.below k = false) → ∀ x ∈ s.rings, x.2.cls < 4 → x.2.unread = true → s.mapped x.1 = false →
        x.2.cls ≤ r.cls ∧ (x.2.cls = r.cls → r.pendAt ≤ x.2.pendAt))) ∧
  (∀ (c : Ctx) (r : LaunchRec),
    (r.formed = false → c.launchStatus r = 7) ∧
    (r.formed = true →
      ((∀ k, c.sceneOf r.scene = some k → k.retiring = true ∨ k.cues.length ≤ r.cueix) → c.launchStatus r = 8) ∧
      (∀ k, c.sceneOf r.scene = some k → k.retiring = false → r.cueix < k.cues.length →
        (k.feat &&& ~~~Config.caps ≠ 0 → c.launchStatus r = 1) ∧
        (k.feat &&& ~~~Config.caps = 0 →
          (k.promise = false ∧ c.level ≠ 0 → c.launchStatus r = 2) ∧
          (k.promise = true ∨ c.level = 0 → c.launchStatus r = if r.hierOk c then 0 else 4))))) ∧
  (∀ (s : State) (src : LaunchSrc) (r : LaunchRec), s.nextSource = some src → s.recordAt src = some r →
    let ctx := s.srcCtx src
    let s1 := s.takeRecord src
    let kindOf := fun (i : Instr) => (i = .launch src ∧ (r.kind = 0 ∨ 4 ≤ r.kind)) ∨ (i = .level src ∧ r.kind = 1) ∨
      (i = .fence src ∧ r.kind = 2) ∨ (i = .cancel src ∧ r.kind = 3)
    let done := fun (t : State) (code : Nat) => ∃ l, t.launches = s.launches ++ [l] ∧ l.src = src ∧ l.seq = s.srcSeq src ∧
      l.ctx = ctx ∧ l.record = r ∧ l.status = code ∧ l.toYield = [] ∧ l.open_ = 0 ∧ l.barrier = false ∧ t.pools = s.pools
    let who := srcNum src
    (∀ i x ts, kindOf i → s.doneCheck ctx (hubWho 2 who) r = .trap x ts →
      exec i s = .next ((s.forgetAsks ctx (hubWaiter 2 who)).haltSource src)) ∧
    (∀ ps ts, s.doneCheck ctx (hubWho 2 who) r = .ok ps ts → ∀ c, s1.ctxAt ctx = some c →
      (r.kind = 0 ∨ 4 ≤ r.kind →
        (c.launchStatus r ≠ 0 → ∃ t, exec (.launch src) s = .next t ∧ done t (c.launchStatus r)) ∧
        (c.launchStatus r = 0 → ∀ lo hi, (r.rpl = false → lo = 0 ∧ hi = r.acts) →
          (r.rpl = true → ∀ x, assoc c.reps r.arg = some x → lo = x.cfg.self * r.inner 0 ∧ hi = (x.cfg.self + 1) * r.inner 0) →
          lo < hi → (r.rpl = true → assoc c.reps r.arg ≠ none) →
          (r.cor = true → 160 < hi - lo → ∃ t, exec (.launch src) s = .next t ∧ done t 3) ∧
          (r.cor = true → hi - lo ≤ 160 → ∃ (t : State) (l : Launch), exec (.launch src) s = .next t ∧
            t.launches = s.launches ++ [l] ∧ l.record = r ∧ l.seq = s.srcSeq src ∧
            ∃ binds : List (Nat × Nat × Nat),
              let homes := (binds.filter fun b => b.1 == 0).map fun b => b.2.2
              let room := fun (p : Place) => (p.cores.filter fun n => s.available n && !s.reserved.contains n).length
              (r.domain 0 < 3 → ∀ j, lo ≤ j → j < hi → ∃ k, (0, r.instOf j 0, k) ∈ binds) ∧
              (l.status = if (if 3 ≤ r.domain 0 then hi - lo ≤ room .chip
                else ∀ k ∈ homes, homes.count k * r.inner 0 ≤ room ⟨r.domain 0, k⟩) then 0 else 3) ∧
              (l.status = 3 → l.open_ = 0 ∧ l.toYield = []) ∧
              (l.status = 0 → l.open_ = hi - lo ∧ l.toYield = [(lo, hi)] ∧ l.binds = binds ∧
                ∀ j n, (8, j, n) ∈ binds → s.available n = true ∧ n ∉ s.reserved ∧ ∀ i, (8, i, n) ∈ binds → i = j)) ∧
          (r.cor = false → ∃ (t : State) (l : Launch), exec (.launch src) s = .next t ∧ t.launches = s.launches ++ [l] ∧ l.id = s.nextLaunch ∧
            l.src = src ∧ l.seq = s.srcSeq src ∧ l.ctx = ctx ∧ l.record = r ∧ l.status = 0 ∧ l.det = c.level ∧
            l.toYield = [(lo, hi)] ∧ l.open_ = hi - lo ∧ l.barrier = r.rpl ∧ l.cancelled = false ∧ l.binds = [] ∧
            (∀ d, d < 4 → vget t.pools d [] = vget s.pools d [] ++ [(r.prio, .gen l.id)]) ∧ t.mem = s.mem ∧
            ∀ x c', r.rpl = true → assoc c.reps r.arg = some x → t.ctxAt ctx = some c' → ∀ m ∈ x.cfg.mem, m ≠ c.self → m ∈ c'.traffic))) ∧
      (r.kind = 1 → ∃ t, exec (.level src) s = .next t ∧ done t (if r.bare then 0 else 7) ∧ ∃ c', t.ctxAt ctx = some c' ∧
        c'.level = if r.bare then BitVec.ofNat 2 r.arg else c.level) ∧
      (r.kind = 2 → ∃ t, exec (.fence src) s = .next t ∧ done t (if r.bare then 0 else 7)) ∧
      (r.kind = 3 →
        let named := s1.launches.find? fun l => l.src == src && l.seq == r.scene && l.status == 0 && decide (0 < l.open_)
        (named = none ∨ r.bare = false → ∃ t, exec (.cancel src) s = .next t ∧ done t 7) ∧
        (∀ l, named = some l → r.bare = true → (∀ x ∈ s.parked, x.2.num = x.1) → ∃ (t : State) (x : Launch), exec (.cancel src) s = .next t ∧
          t.holding = s.holding ++ [(src, l.id, x)] ∧ x.status = 0 ∧ x.open_ = 0 ∧ x.seq = s.srcSeq src ∧ x.src = src ∧
          (∀ y ∈ t.launches, y.id = l.id → y.cancelled = true ∧ y.toYield = []) ∧
          (∀ d p y, (p, y) ∈ vget t.pools d [] → y ≠ .gen l.id ∧ ∀ a, y = .act a → a.launch ≠ l.id) ∧
          (∀ w ∈ t.waiters, w.1.launch ≠ l.id) ∧ (∀ a ∈ t.core.wings, a.launch ≠ l.id) ∧
          (∀ a, s.core.act = some a → a.launch = l.id → t.core.act = none ∨ t.core.ending ≠ none))))) ∧
  (∀ (s : State) (src : LaunchSrc),
    (∀ r, s.recordAt src = some r → r.kind = 2 → (∃ l ∈ s.launches, l.src = src) → exec (.fence src) s = .next s) ∧
    (∀ h, (s.holding.find? fun h => h.1 == src) = some h →
      ((∀ c ∈ s.allCores, ∀ a, c.act = some a → a.launch ≠ h.2.1) →
        exec (.cancelComplete src) s =
          .next { s with holding := s.holding.filter fun x => x.1 != src, launches := s.launches ++ [h.2.2] }) ∧
      ((∃ c ∈ s.allCores, ∃ a, c.act = some a ∧ a.launch = h.2.1) → exec (.cancelComplete src) s = .next s))) ∧
  (∀ (s : State) (id : Nat) (gens : List Word) (l : Launch), s.launchAt id = some l →
    let linked := ∀ c, s.ctxAt l.ctx = some c → ∀ m ∈ c.barrierPeers l.record, s.linked l.ctx m = true
    let refuses := fun (lost : Bool) (code : Nat) => ∃ t, exec (.startBarrier id gens lost) s = .next t ∧
      (∀ x ∈ t.launches, x.id = id → x.status = code ∧ x.toYield = [] ∧ x.open_ = 0 ∧ x.barrier = false) ∧
      ∀ d p, (p, PoolItem.gen id) ∉ vget t.pools d []
    (l.barrier = true → refuses true 5) ∧
    (l.barrier = true → gens.length + 1 < l.record.count 0 ∨ ¬linked → exec (.startBarrier id gens false) s = .next s) ∧
    (l.barrier = true → l.record.count 0 ≤ gens.length + 1 → linked → (∃ g ∈ gens, g ≠ l.record.gen) → refuses false 6) ∧
    (l.barrier = true → l.record.count 0 ≤ gens.length + 1 → linked → (∀ g ∈ gens, g = l.record.gen) →
      ∃ t, exec (.startBarrier id gens false) s = .next t ∧ (∀ x ∈ t.launches, x.id = id → x.barrier = false) ∧
        t.pools = s.pools ∧ ∀ c r, s.ctxAt l.ctx = some c → assoc c.reps l.record.arg = some r →
          ∃ c' r', t.ctxAt l.ctx = some c' ∧ assoc c'.reps l.record.arg = some r' ∧ r'.lgen = l.record.gen)) ∧
  (∀ (s : State) (id : Nat) (l : Launch), s.launchAt id = some l → l.barrier = false → l.doneWritten = false →
    let leaves := fun (t : State) => t.launches = s.launches.filter fun x => x.id != id
    let bytes : List Byte := [BitVec.ofNat 8 (if l.cancelled = true ∧ l.status = 0 then 9 else l.status), 0, 0, 0] ++
      bytesOfNat 4 l.seq.toNat ++ bytesOfNat 4 l.ended ++ bytesOfNat 4 l.faulted ++ bytesOfNat 4 l.bad ++
      bytesOfNat 4 l.dropped ++ [0, 0, 0, 0] ++ [1, 0, 0, 0]
    (l.open_ ≠ 0 ∨ l.away ≠ none → exec (.launchCompletion id) s = .next s) ∧
    (l.open_ = 0 → l.away = none →
      (∀ x ts, s.doneCheck l.ctx (hubWho 1 id) l.record = .trap x ts → ∃ t, exec (.launchCompletion id) s = .next t ∧ leaves t ∧
        Notice.doneUnwritten id ∈ t.notices ∧ t.mem = s.mem) ∧
      (∀ p ps ts n, s.doneCheck l.ctx (hubWho 1 id) l.record = .ok (p :: ps) ts → s.route l.ctx p.pa = .peer n →
        ∃ t, exec (.launchCompletion id) s = .next t ∧ t.mem = s.mem ∧
          t.outbox = s.outbox ++ [Msg.request l.ctx n 255 [] p.key (.entry (rangeOff p.pa) bytes)] ∧
          t.launches = s.launches.map fun x => if x.id = id then { x with away := some n } else x) ∧
      (∀ p ps ts, s.doneCheck l.ctx (hubWho 1 id) l.record = .ok (p :: ps) ts → s.route l.ctx p.pa = .here → paOff p.pa % 32 = 0 →
        s.regionAt (paOff p.pa / 4096) = none → s.deferredAt (paOff p.pa / 64) = none → paOff p.pa / 64 ∉ s.poison →
        (∀ c m, assoc s.secKey (paOff p.pa / 64) = some (c, m) → m = s.material p.key) →
        ∃ t, exec (.launchCompletion id) s = .next t ∧ leaves t ∧
          ∀ x, memAt t x = if paOff p.pa ≤ x ∧ x < paOff p.pa + 32 then bytes.getD (x - paOff p.pa) 0 else memAt s x))) ∧
  (∀ (s : State) (l : Launch) (ans : RemoteAns), (∀ a ∈ s.core.live.acc, a.sent = false) → s.core.releasing = none →
    (∀ ch c, ch < 8 → s.copyHead ch = some c → c.sent = none) → s.entryAway = some l → s.launchAt l.id = some l →
    ∃ t, exec (.remoteResponse ans) s = .next t ∧ (t.launches = s.launches.filter fun x => x.id != l.id) ∧ t.mem = s.mem ∧
      t.notices = match ans with
        | .done _ => s.notices
        | _ => s.notices ++ [Notice.doneUnwritten l.id])

/-! ### The curtain (R349 to R351, R371 to R378, R396, R429, R437, R438) -/

/-- The events of coding groups and replica sets (R349 to R351, R371 to R378, R396, R429, R437, R438): configuration; the deltas,
ends of deltas and STAGED messages of a round, with the staging and the commit that they complete; aborts; losses and the exchange
of the survivors; apply, roll-back, reopen; and the rebuild of a lost member. The clauses on the exchange after a loss and on a
removal by V := 0 are the model's readings (logs 22 and 23), and so are the statuses of REBUILD_COMPLETE (log 28). -/
def Obligations.CurtainEvents : Prop :=
  (∀ (s : State) (ctx grp : Nat) (c : Ctx), s.ctxAt ctx = some c →
    (∀ cfg : GroupCfg,
      (c.groupOk grp cfg = true → ∃ (t : State) (g : Group), exec (.codingGroupConfig ctx grp (some cfg)) s = .next (t.status 0) ∧
        t.group ctx grp = some g ∧ g.cfg = cfg ∧ g.st = .open_ ∧ g.cr = 0 ∧ g.lost = 0 ∧ g.deltas = [] ∧ g.dpend = 0 ∧
        g.epoch = 0 ∧ t.mem = s.mem) ∧
      (16 ≤ grp ∨ cfg.n < 4 ∨ 32 < cfg.n ∨ cfg.m < 1 ∨ 4 < cfg.m ∨ cfg.n < cfg.m + 2 ∨ cfg.mem.length ≠ cfg.n ∨ ¬cfg.mem.Nodup ∨
        cfg.mem[cfg.self]? ≠ some c.self ∨ (∃ d, cfg.m < cfg.dom.count d) ∨ (∃ d ∈ cfg.dom, 65536 ≤ d) ∨ (∃ p ∈ c.prot, p.2.cg = grp) →
        exec (.codingGroupConfig ctx grp (some cfg)) s = .next (s.status 3))) ∧
    ((∀ p ∈ c.prot, p.2.cg ≠ grp) → ∃ t : State, exec (.codingGroupConfig ctx grp none) s = .next (t.status 0) ∧
      t.group ctx grp = none) ∧
    (∀ g, s.group ctx grp = some g → g.minority ≠ [] → g.st = .halted → ∃ t : State,
      exec (.codingGroupConfig ctx grp none) s = .next (t.status 0) ∧ t.group ctx grp = none) ∧
    (∀ cfg : ReplicaCfg,
      (c.replicaOk grp cfg = true → (∀ q ∈ c.colQ, q.set ≠ grp) → ∃ (t : State) (c' : Ctx),
        exec (.replicaConfig ctx grp (some cfg)) s = .next (t.status 0) ∧ t.ctxAt ctx = some c' ∧
        assoc c'.reps grp = some ⟨cfg, 0, 0⟩) ∧
      (16 ≤ grp ∨ cfg.k < 2 ∨ 64 < cfg.k ∨ assoc c.groups cfg.cg = none ∨ (∃ q ∈ c.colQ, q.set = grp) →
        exec (.replicaConfig ctx grp (some cfg)) s = .next (s.status 3))) ∧
    ((∀ q ∈ c.colQ, q.set ≠ grp) → ∃ (t : State) (c' : Ctx), exec (.replicaConfig ctx grp none) s = .next (t.status 0) ∧
      t.ctxAt ctx = some c' ∧ assoc c'.reps grp = none)) ∧
  (∀ (s : State) (ctx grp : Nat) (g : Group), s.group ctx grp = some g →
    let all := allMembers g.cfg.n
    let heard := fun (i : Nat) => i < g.cfg.n ∧ i ≠ g.cfg.self ∧ g.lost.getLsbD i = false ∧
      s.linked ctx (g.cfg.mem.getD i 0) = true ∧ ∀ c, s.ctxAt ctx = some c → g.cfg.mem.getD i 0 ∉ c.lost
    let stages := fun (x : Group) => x.st = .prep ∧ x.ackd = true ∧ x.eod = all
    let becomes := fun (t : State) (x : Group) => t.mem = s.mem ∧ (stages x → Msg.staged ctx grp x.round ∈ t.outbox) ∧ ∀ n st,
      (stages x → n = x.notices ||| memberBit g.cfg.self ∧ st = CState.staged) → (¬stages x → n = x.notices ∧ st = x.st) →
      ((st = .prep ∨ st = .staged) ∧ n = all → t.group ctx grp = some { x with notices := n, st := .commit, dec := true }) ∧
      (¬((st = .prep ∨ st = .staged) ∧ n = all) → t.group ctx grp = some { x with notices := n, st := st })
    let rolls := fun (t : State) (x : Group) =>
      (s.unabortable ctx grp = false → t.group ctx grp = some { x with st := .rollback, concluded := some false, concEpoch := x.epoch }) ∧
      (s.unabortable ctx grp = true → t.group ctx grp = some { x with st := .beyond })
    (∀ us : Option (Nat × Nat),
      ((∀ u, us = some u → (g.cfg.dom ++ [u.2]).count u.2 ≤ g.cfg.m ∧ u.2 < 65536) → ∃ t : State,
        exec (.understudyNaming ctx grp us) s = .next (t.status 0) ∧
        t.group ctx grp = some { g with cfg := { g.cfg with us := us } }) ∧
      (∀ u, us = some u → g.cfg.m < (g.cfg.dom ++ [u.2]).count u.2 ∨ 65536 ≤ u.2 →
        exec (.understudyNaming ctx grp us) s = .next (s.status 3))) ∧
    (∀ i, ¬heard i → (∀ e k syms, exec (.delta ctx grp i e k syms) s = .next s) ∧ exec (.deltaAck ctx grp i) s = .next s ∧
      exec (.endOfDeltas ctx grp i) s = .next s ∧ (∀ r, exec (.staged ctx grp i r) s = .next s) ∧
      (∀ r ep d, exec (.exch ctx grp i r ep d) s = .next s) ∧ (∀ r, exec (.abort ctx grp ⟨i, r⟩) s = .next s) ∧
      ∀ d par k syms, exec (.rebuild ctx grp (.share i d par k syms)) s = .next s) ∧
    (∀ i e k syms, heard i → g.eod.getLsbD i = false → g.st = .open_ ∨ g.st = .prep ∨ g.st = .exchange →
      ∃ t, exec (.delta ctx grp i e k syms) s = .next t ∧ t.group ctx grp = some { g with deltas := g.deltas ++ [⟨e, k, syms⟩] } ∧
        t.outbox = s.outbox ++ [.deltaAck ctx grp i] ∧ t.mem = s.mem) ∧
    (∀ i, heard i → g.st = .prep → 0 < g.unacked → ∃ t, exec (.deltaAck ctx grp i) s = .next t ∧
      becomes t { g with unacked := g.unacked - 1, ackd := g.unacked == 1 }) ∧
    (∀ i, heard i → g.eod.getLsbD i = false → g.st = .open_ ∨ g.st = .prep → ∃ t, exec (.endOfDeltas ctx grp i) s = .next t ∧
      becomes t { g with eod := g.eod ||| memberBit i }) ∧
    (∀ i, heard i → g.st = .prep ∨ g.st = .staged → ∃ t, exec (.staged ctx grp i g.round) s = .next t ∧
      becomes t { g with notices := g.notices ||| memberBit i }) ∧
    (∀ i r, heard i → (r = g.round ∧ (g.st = .open_ ∨ g.st = .prep ∨ g.st = .staged) → ∃ t, exec (.abort ctx grp ⟨i, r⟩) s = .next t ∧
        rolls t g ∧ t.mem = s.mem) ∧
      (r ≠ g.round ∨ ¬(g.st = .open_ ∨ g.st = .prep ∨ g.st = .staged) → exec (.abort ctx grp ⟨i, r⟩) s = .next s)) ∧
    (∀ i r (ep : BitVec 16) (d : Bool), heard i →
      (g.st = .exchange → g.epoch.toNat < ep.toNat → exec (.exch ctx grp i r ep d) s = .next s) ∧
      (g.st = .exchange → ep.toNat < g.epoch.toNat → ∃ t, exec (.exch ctx grp i r ep d) s = .next t ∧ t.mem = s.mem ∧
        t.outbox = s.outbox ∧ t.group ctx grp = some { g with dec := g.dec || ((d && r == g.round) || r == g.round + 1) }) ∧
      (g.st = .exchange → ep = g.epoch → ∀ x : Group,
        x = { g with dec := g.dec || ((d && r == g.round) || r == g.round + 1), exch := g.exch ++ [(i, d)] } →
        ∃ t, exec (.exch ctx grp i r ep d) s = .next t ∧ t.mem = s.mem ∧
          ((∃ j ∈ g.others, ∀ y ∈ x.exch, y.1 ≠ j) → t.group ctx grp = some x) ∧
          ((∀ j ∈ g.others, ∃ y ∈ x.exch, y.1 = j) →
            (x.dec = true → t.group ctx grp = some { x with concluded := some true, concEpoch := x.epoch, st := .commit }) ∧
            (x.dec = false → rolls t { x with concluded := some false, concEpoch := x.epoch }))) ∧
      (g.st ≠ .exchange → g.concluded = none ∨ (g.st ≠ .rollback ∧ g.st ≠ .halted) → exec (.exch ctx grp i r ep d) s = .next s) ∧
      (∀ k, g.concluded = some k → g.st = .rollback ∨ g.st = .halted →
        (ep.toNat ≤ g.concEpoch.toNat → exec (.exch ctx grp i r ep d) s = .next s) ∧
        (g.concEpoch.toNat < ep.toNat → ∃ t, exec (.exch ctx grp i r ep d) s = .next t ∧
          t.group ctx grp = some { g with epoch := if g.epoch.toNat < ep.toNat then ep else g.epoch } ∧
          t.outbox = s.outbox ++ [.exch ctx grp i g.round ep k]))) ∧
    (∀ c, s.ctxAt ctx = some c → c.waiting = [] → (∀ p ∈ c.prot, p.2.deferred = []) → g.st = .commit →
      (g.lost = 0 → g.applied = false → g.dbad2 = false → ∃ (t : State) (c' : Ctx) (x : Group),
        exec (.applyDone ctx grp) s = .next t ∧ t.ctxAt ctx = some c' ∧ assoc c'.groups grp = some x ∧ x.st = .open_ ∧
        x.cr = g.cr + 1 ∧ x.notices = 0 ∧ x.eod = 0 ∧ x.deltas = [] ∧ x.dpend = g.dpend2 ∧ x.dec = false ∧ x.lastab = false ∧ assoc c'.minorities grp = none ∧
        (c'.prot = c.prot.map fun p => if p.2.cg = grp then
          (p.1, { p.2 with undo := [], bare := [], ucnt := 0, unab := false, undoLogged := false, cur := if p.2.paired then !p.2.cur else p.2.cur })
          else p) ∧
        (g.deltas = [] → t.mem = s.mem) ∧
        (∀ y p, g.deltas = [y] → ((s.entriesOf ctx grp).find? fun p => p.1 == y.entry) = some p → y.syms.length = 66 →
          t.rawSyms (areaSector p.2.par y.sector) = symAdd (s.rawSyms (areaSector p.2.par y.sector)) y.syms)) ∧
      (g.lost ≠ 0 → g.applied = false → g.concluded = some true → ∃ (t : State) (x : Group),
        exec (.applyDone ctx grp) s = .next t ∧ t.group ctx grp = some x ∧ x.st = .halted ∧ x.cr = g.cr + 1) ∧
      (g.lost ≠ 0 → g.applied = false → g.concluded = none → g.others ≠ [] → ∃ (t : State) (x : Group),
        exec (.applyDone ctx grp) s = .next t ∧ t.group ctx grp = some x ∧ x.st = .exchange ∧ x.cr = g.cr + 1 ∧ x.dec = true ∧
        x.epoch = g.epoch + 1)) ∧
    (∀ c, s.ctxAt ctx = some c → c.waiting = [] → g.st = .rollback → ∃ (t : State) (c' : Ctx) (x : Group),
      exec (.rollbackDone ctx grp) s = .next t ∧ t.ctxAt ctx = some c' ∧ assoc c'.groups grp = some x ∧ x.st = .halted ∧
      x.cr = g.cr ∧ x.lastab = true ∧ x.deltas = [] ∧ x.dpend = 0 ∧ x.dbad = false ∧
      (c'.prot = c.prot.map fun p => if p.2.cg = grp then
        (p.1, { p.2 with undo := [], bare := [], ucnt := 0, unab := false, undoLogged := false, deferred := [] }) else p) ∧
      ((∀ p ∈ s.entriesOf ctx grp, p.2.undo = []) → t.mem = s.mem) ∧
      (∀ p ∈ s.entriesOf ctx grp, ∀ k, k / 256 ∈ p.2.rgn → assoc t.holds k = none) ∧
      (∀ d p r, s.entriesOf ctx grp = [(d, p)] → p.undo = [r] →
        ∀ i, i < 64 → memAt t (64 * r.sector + i) = r.data.extractLsb' (8 * i) 8)) ∧
    ((g.st ≠ .halted ∨ g.lost ≠ 0 → exec (.reopen ctx grp) s = .next (s.status 3)) ∧
     (∀ c, s.ctxAt ctx = some c → c.waiting = [] → (∀ p ∈ c.prot, p.2.deferred = []) → g.st = .halted → g.lost = 0 → g.dbad = false →
      ∃ (t : State) (x : Group), exec (.reopen ctx grp) s = .next t ∧ t.group ctx grp = some x ∧ x.st = .open_ ∧ x.cr = g.cr ∧
        x.concluded = none ∧ x.restart = [] ∧
        (∀ c' r e, t.ctxAt ctx = some c' → (r, e) ∈ c'.reps → r ∈ g.restart → e.count = 0) ∧ ((∀ p ∈ s.entriesOf ctx grp, p.2.paired = false) → t.mem = s.mem))) ∧
    (∀ i u, lowestMember g.lost = some i → g.cfg.us = some u → g.st = .halted →
      (g.rebuilding ≠ some i → ∃ t, exec (.rebuild ctx grp .send) s = .next t ∧ t.mem = s.mem ∧
        t.group ctx grp = some { g with rebuilding := some i } ∧
        t.outbox = s.outbox ++ (s.entriesOf ctx grp).flatMap fun p => s.contributions ctx grp u.1 g i p.1 p.2) ∧
      (g.rebuilding = some i → ∀ c links, s.ctxAt ctx = some c → ∃ (t : State) (c' : Ctx) (x : Group),
        exec (.rebuildComplete ctx grp (.survivor links)) s = .next (t.status 0) ∧ t.ctxAt ctx = some c' ∧ assoc c'.groups grp = some x ∧
        x.cfg.us = none ∧ x.rebuilding = none ∧ x.lost.getLsbD i = false ∧ (∀ j, j ≠ i → x.lost.getLsbD j = g.lost.getLsbD j) ∧
        (∀ j, c'.fabric[j]? = if j = g.cfg.mem.getD i 0 ∧ j < c.fabric.length then some u.1 else c.fabric[j]?) ∧
        (∀ j, c'.routes[j]? = if j = g.cfg.mem.getD i 0 ∧ j < c.routes.length then some links else c.routes[j]?) ∧
        (∀ j, j ∈ c'.lost ↔ j ∈ c.lost ∧ j ≠ g.cfg.mem.getD i 0) ∧
        ∀ k h, assoc c.groups k = some h → ∃ y, assoc c'.groups k = some y ∧ ∀ r, r ∈ y.restart ↔
          r ∈ h.restart ∨ ∃ e, (r, e) ∈ c.reps ∧ e.cfg.cg = k ∧ g.cfg.mem.getD i 0 ∈ e.cfg.mem)) ∧
    (∀ links, (g.st ≠ .halted ∨ g.cfg.us = none ∨ g.rebuilding = none) →
      exec (.rebuildComplete ctx grp (.survivor links)) s = .next (s.status 4)) ∧
    (∀ r (ep : BitVec 16) la, ∃ t x, exec (.rebuildComplete ctx grp (.understudy r ep la)) s = .next (State.status t 0) ∧ t.group ctx grp = some x ∧
      x.st = .halted ∧ x.cr = r ∧ x.epoch = ep ∧ x.lastab = la ∧ x.lost = 0 ∧ x.deltas = [] ∧
      x.cfg.us = none ∧ x.cfg.n = g.cfg.n ∧ x.cfg.m = g.cfg.m ∧ x.cfg.mem = g.cfg.mem ∧ x.cfg.self = g.cfg.self ∧
      (g.cfg.us = none → x.cfg = g.cfg) ∧ ∀ u, g.cfg.us = some u → ∀ j, j < g.cfg.dom.length →
        x.cfg.dom.getD j 0 = if j = g.cfg.self then u.2 else g.cfg.dom.getD j 0) ∧
    (∀ d paired stall rgn und par units undUnits cur, ∃ (t : State) (c' : Ctx) (e : Prot),
      exec (.rebuild ctx grp (.entry d paired stall rgn und par units undUnits cur)) s = .next t ∧ t.ctxAt ctx = some c' ∧
      assoc c'.prot d = some e ∧ e.paired = paired ∧ e.stall = stall ∧ e.cur = cur ∧ e.cg = grp ∧ e.undo = [] ∧ e.ucnt = 0 ∧
      ∀ y, y / 4096 ∈ e.rgn ∨ y / 4096 ∈ e.par → memAt t y = 0) ∧
    (∀ i d p k syms, heard i → ((s.entriesOf ctx grp).find? fun p => p.1 == d) = some (d, p) → syms.length = 66 →
      (∃ t, exec (.rebuild ctx grp (.share i d true k syms)) s = .next t ∧
        t.rawSyms (areaSector p.par k) = symAdd (s.rawSyms (areaSector p.par k)) syms) ∧
      (p.paired = false → ∃ t, exec (.rebuild ctx grp (.share i d false k syms)) s = .next t ∧
        t.rawSyms (areaSector p.rgn k) = symAdd (s.rawSyms (areaSector p.rgn k)) syms))) ∧
  (∀ (s : State) (ctx peer : Nat) (c : Ctx), s.ctxAt ctx = some c →
    (c.fabric.length ≤ peer ∨ peer = c.self ∨ peer ∈ c.lost → exec (.lossPoint ctx peer) s = .next s) ∧
    (peer < c.fabric.length → peer ≠ c.self → peer ∉ c.lost → ∃ (t : State) (c' : Ctx), exec (.lossPoint ctx peer) s = .next t ∧
      t.ctxAt ctx = some c' ∧ peer ∈ c'.lost ∧ peer ∉ c'.lossDue ∧
      ∀ grp i g, c.colQ = [] → c.colStat = [] → c.placesOf peer = [(grp, i)] → assoc c.groups grp = some g →
        g.lost.getLsbD i = false → i ≠ g.cfg.self → i < g.cfg.n → ∃ x, assoc c'.groups grp = some x ∧
          x.lost = g.lost ||| memberBit i ∧
          (g.cfg.m < countMembers x.lost → x.st = .beyond) ∧
          (g.st = .halted → countMembers x.lost ≤ g.cfg.m → x.rebuilding = none) ∧
          (countMembers x.lost ≤ g.cfg.m → (g.st = .commit ∨ g.st = .rollback ∨ g.st = .halted ∨ g.st = .beyond → x.st = g.st) ∧
            (g.st = .open_ ∨ g.st = .prep ∨ g.st = .staged ∨ g.st = .exchange → x.others ≠ [] →
              x.st = .exchange ∧ x.epoch = g.epoch + 1 ∧ x.exch = []))))

/-! ### Tables, stacks and the host port (R7, R8, R235, R238, R239, R258 to R261, R268, R337 to R345, R355 to R358, R392, R393) -/

/-- The events of contexts, scenes, tables and keys, of the stacks, and of the host (R7, R8, R83, R186, R235, R238, R239, R248,
R256, R258, R260, R261, R268, R269, R271, R337 to R345, R355 to R358, R385, R392 to R394). The model's choices: that a correction to a
wrong value counts as one (log 6); the area of a context's act store, which CONTEXT_CREATION names (logs 8 and 28); what CONTEXT_END drops
(log 28); pages copied on a write, the status of a bias flip, and that no copy is granted while a flip waits (log 24); the admin ring (log
26); the status of a load that finds no room (log 27); peer accesses and host accesses at their edges (logs 29 and 31); and that STATE of a
module that is off reads 0 (log 32). -/
def Obligations.HostAndTables : Prop :=
  (∀ (s : State) (ctx : Nat) (va : DWord),
    (∀ t, va.toNat < 2 ^ 56 → s.walk ctx va.toNat = some t → t.covers ctx va.toNat = true → ∃ u, exec (.tlbMissWalk ctx va) s = .next u ∧
      u.mem = s.mem ∧ u.translate s.core.num ctx va.toNat = some t) ∧
    (va.toNat < 2 ^ 56 → s.walk ctx va.toNat = none → exec (.tlbMissWalk ctx va) s = .next s) ∧
    (∀ lo hi, ∃ u : State, exec (.invalidation ctx lo hi) s = .next (u.status 0) ∧ u.mem = s.mem ∧
      let gone := fun (t : Trans) => t.ctx = ctx ∧ t.va < hi ∧ lo < t.va + t.size
      (∀ t, t ∈ u.core.tlb ↔ t ∈ s.core.tlb ∧ ¬gone t) ∧ (∀ t, t ∈ u.clusTlb ↔ t ∈ s.clusTlb ∧ ¬gone t.2) ∧
      ∀ x ∈ u.parked, ∀ t ∈ x.2.tlb, ¬gone t)) ∧
  (∀ (s : State) (ctx : Nat) (va : DWord) (c : Ctx) (t : Trans), s.ctxAt ctx = some c → s.walk ctx va.toNat = some t →
    let page := BitVec.ofNat 64 (va.toNat / 4096 * 4096)
    (∀ p, (∀ x ∈ c.cowAsked, x.1 ≠ page) → exec (.cowResolution ctx va p) s = .next s) ∧
    ((∃ who, (page, who) ∈ c.cowAsked) → t.va ≤ va.toNat / 4096 * 4096 → va.toNat / 4096 * 4096 < t.va + t.size →
      va.toNat < 2 ^ 56 →
      (∃ (u : State) (c' : Ctx), exec (.cowResolution ctx va none) s = .next u ∧ u.ctxAt ctx = some c' ∧ u.mem = s.mem ∧
        ∀ who, (page, who) ∉ c'.cowAsked ∧ ((page, who) ∈ c.cowAsked → (page, who) ∈ c'.cowRefused)) ∧
      (∀ (pa : BitVec 52) far, (paSpace pa = 0 ∧ paOpc pa = 0 ∧ pa.getLsbD 43 = false ∧ paPeer pa = 0 ∧ pa.toNat % t.size = 0) →
        let apart := ∀ k ∈ s.guarded, 4096 * k + 4096 ≤ paOff pa ∨ paOff pa + t.size ≤ 4096 * k
        (¬apart → exec (.cowResolution ctx va (some (pa, far))) s = .next s) ∧
        (apart → c.isLocal (BitVec.ofNat 52 t.pa) = true → ∃ (u : State) (c' : Ctx), exec (.cowResolution ctx va (some (pa, far))) s = .next u ∧
          u.ctxAt ctx = some c' ∧ (∀ who, (page, who) ∉ c'.cowAsked) ∧ c'.cowRefused = c.cowRefused ∧
          ∀ x ∈ u.core.tlb, x.ctx = ctx → t.va + t.size ≤ x.va ∨ x.va + x.size ≤ t.va)))) ∧
  (∀ (s : State) (ctx self : Nat) (store : StoreArea) (ttb : BitVec 52) (fabric : List Nat) (routes : List (List Nat)),
    let ok := ctx < 64 ∧ s.ctxAt ctx = none ∧ ttb.toNat % 4096 = 0 ∧ paSpace ttb = 0 ∧ paOpc ttb = 0 ∧ ttb.getLsbD 43 = false ∧
      paPeer ttb = 0 ∧ 1 ≤ fabric.length ∧ fabric.length ≤ 64 ∧ self < fabric.length ∧ store.base % 4096 = 0 ∧
      store.base + slotBytes * store.slots ≤ Config.memBytes
    (ok → ∃ (u : State) (c : Ctx), exec (.contextCreation ctx ttb fabric routes self store) s = .next (u.status 0) ∧
      u.ctxAt ctx = some c ∧ c.ttb = ttb ∧ c.fabric = fabric ∧ c.self = self ∧ c.store = store.slots ∧ c.area = store.base ∧ c.minorities = [] ∧ c.level = 0 ∧ c.scenes = [] ∧
      c.sems = [] ∧ (∀ p, p ∈ c.lossDue ↔ p < fabric.length ∧ p ≠ self ∧ routes.getD p [] ≠ [] ∧
        ∀ i ∈ routes.getD p [], s.linkDown i = true) ∧ c.groups = [] ∧ c.prot = [] ∧ c.flog = [] ∧ c.flogSeq = 1 ∧ c.colNext = 1 ∧ c.devTail = 0 ∧ c.lost = [] ∧
      u.mem = s.mem) ∧
    (¬ok → exec (.contextCreation ctx ttb fabric routes self store) s = .next (s.status 3)) ∧
    (s.ctxAt ctx = none → exec (.contextEnd ctx) s = .next (s.status 3)) ∧
    (s.ctxAt ctx ≠ none → ∃ u : State, exec (.contextEnd ctx) s = .next (u.status 0) ∧ u.mem = s.mem ∧ u.ctxAt ctx = none ∧
      (∀ h ∈ u.holds, h.2.ctx ≠ ctx) ∧ (∀ h ∈ u.host.holds, h.2.ctx ≠ ctx) ∧ (∀ a, u.core.act = some a → a.ctx ≠ ctx) ∧
      (∀ a ∈ u.core.wings, a.ctx ≠ ctx) ∧ (∀ t ∈ u.core.tlb, t.ctx ≠ ctx) ∧ (∀ t ∈ u.clusTlb, t.2.ctx ≠ ctx) ∧
      (∀ w ∈ u.waiters, w.1.ctx ≠ ctx) ∧ (∀ l ∈ u.launches, l.ctx ≠ ctx) ∧ (∀ r ∈ u.rings, r.2.ctx ≠ ctx) ∧
      ∀ n, n ≠ ctx → u.ctxAt n = s.ctxAt n)) ∧
  (∀ (s : State) (ctx : Nat) (c : Ctx) (img : List Byte) (id : Word), s.ctxAt ctx = some c →
    ((∀ x ∈ c.scenes, x.retiring = true → s.sceneUsed ctx x.id = true) →
      (256 ≤ c.scenes.length → exec (.sceneLoad ctx img) s = .next (s.status 3)) ∧
      (c.scenes.length < 256 → c.loadStatus img ≠ 0 →
        exec (.sceneLoad ctx img) s = .next (s.tell (.sceneStatus ctx (c.loadStatus img)))) ∧
      (c.scenes.length < 256 → c.loadStatus img = 0 → ∃ (u : State) (c' : Ctx), exec (.sceneLoad ctx img) s = .next u ∧
        u.ctxAt ctx = some c' ∧ c'.scenes = c.scenes ++ [sceneFrom img] ∧ Notice.sceneStatus ctx 0 ∈ u.notices ∧
        c.sceneOf (sceneFrom img).id = none)) ∧
    (∃ (u : State) (c' : Ctx), exec (.sceneLoad ctx img) s = .next u ∧ u.ctxAt ctx = some c' ∧
      ∀ x ∈ c'.scenes, x.retiring = true → s.sceneUsed ctx x.id = true) ∧
    (c.sceneOf id = none → exec (.sceneUnload ctx id) s = .next (s.status 3)) ∧
    (∀ k, c.sceneOf id = some k → ∃ (u : State) (c' : Ctx), exec (.sceneUnload ctx id) s = .next u ∧ u.ctxAt ctx = some c' ∧
      u.mem = s.mem ∧ (s.sceneUsed ctx id = false → c'.sceneOf id = none) ∧
      (s.sceneUsed ctx id = true → ∃ k', c'.sceneOf id = some k' ∧ k'.retiring = true ∧ k'.streams = k.streams))) ∧
  (∀ (s : State) (idx : Nat) (bound : Bool) (mask : DWord) (keys : BitVec 512),
    (idx < 256 → bound = true → ∃ u : State, exec (.keyTableWrite idx bound mask keys) s = .next (u.status 0) ∧
      assoc u.keys idx = some ⟨mask, true, keys⟩ ∧ u.mem = s.mem) ∧
    (idx < 256 → bound = false → s.keyInUse idx = false → ∃ u : State,
      exec (.keyTableWrite idx bound mask keys) s = .next (u.status 0) ∧ assoc u.keys idx = none) ∧
    (256 ≤ idx ∨ (bound = false ∧ s.keyInUse idx = true) → exec (.keyTableWrite idx bound mask keys) s = .next (s.status 3))) ∧
  (∀ (s : State) (v : DWord) (o win : Nat) (key : BitVec 8) (en : Bool),
    exec (.registerWrite .dbgctl v) s = .next { s with core := { s.core with hen := v.getLsbD 0 } } ∧
    exec (.registerWrite (.bar0 o) v) s = .next s ∧
    let linked := s.host.up = true ∧ s.host.retraining = false
    (¬(linked ∧ s.host.lost = false) → exec .hrel s = .next s ∧ exec (.admtail v) s = .next s) ∧
    (linked → s.host.lost = false →
      exec .hrel s = .next { s with host := { s.host with releases := s.host.releases ++ [s.order] }, order := s.order + 1 } ∧
      ∃ u, exec (.admtail v) s = .next u ∧ u.host.admTail = v ∧ u.host.releases = s.host.releases ++ [s.order] ∧ u.mem = s.mem) ∧
    (linked → v.toNat % 4096 / 16 = 0 → 4 ≤ v.toNat % 16 → v.toNat % 16 ≤ 12 →
      exec (.admbase v) s = .next { s with host := { s.host with admBase := v, lost := false } }) ∧
    (¬linked ∨ v.toNat % 4096 / 16 ≠ 0 ∨ v.toNat % 16 < 4 ∨ 12 < v.toNat % 16 → exec (.admbase v) s = .next s) ∧
    (∀ r rs, s.host.releases = r :: rs →
      ((∀ c ∈ s.ctxs, ∀ w ∈ c.2.waiting, w.ret = .host → r < w.stamp) → exec .hostReleaseComplete s =
        .next { s with host := { s.host with releases := rs, genChip := s.host.genChip + 1, genGrp := s.host.genGrp + 1 } }) ∧
      ((∃ c ∈ s.ctxs, ∃ w ∈ c.2.waiting, w.ret = .host ∧ w.stamp ≤ r) → exec .hostReleaseComplete s = .next s)) ∧
    (1024 ≤ win → exec (.hostKeyWindowWrite win key en) s = .next (s.status 3)) ∧
    (win < 1024 → ∃ u : State, exec (.hostKeyWindowWrite win key en) s = .next (u.status 0) ∧
      Sparse.get 0 u.host.windows win = BitVec.ofNat 9 (key.toNat + if en then 256 else 0) ∧
      ∀ j, j ≠ win → Sparse.get 0 u.host.windows j = Sparse.get 0 s.host.windows j)) ∧
  (∀ (s : State) (page line : Nat), s.host.flips = [] →
    (2 ^ 28 ≤ page → ∀ d, exec (.biasFlip page d) s = .next (s.status 3)) ∧
    (page < 2 ^ 28 → exec (.biasFlip page false) s =
      .next (State.status { s with host := { s.host with hostBias := insertSorted page s.host.hostBias } } 0)) ∧
    (page < 2 ^ 28 → page ∉ s.host.hostBias → exec (.biasFlip page true) s = .next (s.status 0)) ∧
    (page < 2 ^ 28 → page ∈ s.host.hostBias → ∃ u : State, exec (.biasFlip page true) s = .next (u.status 0) ∧
      u.host.hostBias = s.host.hostBias ∧ u.host.flips = [page] ∧ u.mem = s.mem ∧
      ∀ k, k / 64 = page → k ∈ u.host.snoops ∧ (k, snoopFlip page) ∈ u.host.pledged) ∧
    (s.host.up = false ∨ s.host.retraining = true ∨ line ∉ s.host.snoops → exec (.backInvalidateResponse line) s = .next s) ∧
    (s.host.up = true → s.host.retraining = false → line ∈ s.host.snoops → (∀ c ∈ s.ctxs, c.2.waiting = []) →
      ∃ u, exec (.backInvalidateResponse line) s = .next u ∧
      (∀ x, x ∈ u.host.acked ↔ x ∈ s.host.acked ∨ (x ∈ s.host.pledged ∧ x.1 = line)) ∧
      (∀ k, k ∈ u.host.snoops ↔ k ∈ s.host.snoops ∧ k ≠ line) ∧ u.host.hostBias = s.host.hostBias ∧ u.mem = s.mem)) ∧
  (∀ (s : State) (line : Nat), s.host.flips = [line / 64] → line ∈ s.host.snoops → s.host.up = true → s.host.retraining = false →
    let page := line / 64
    let given := fun (x : Nat × Nat) => x ∈ s.host.acked ∨ (x ∈ s.host.pledged ∧ x.1 = line)
    let waits := ∃ k, k / 64 = page ∧ (¬given (k, snoopFlip page) ∨ ∃ x ∈ s.host.pledged, x.1 = k ∧ x.2 ≠ snoopFlip page)
    (∀ c ∈ s.ctxs, c.2.waiting = []) →
    (¬waits → ∃ u, exec (.backInvalidateResponse line) s = .next u ∧ page ∉ u.host.hostBias ∧ u.host.flips = []) ∧
    (waits → ∃ u, exec (.backInvalidateResponse line) s = .next u ∧
      u.host.hostBias = s.host.hostBias ∧ u.host.flips = s.host.flips)) ∧
  (∀ (s : State) (line k stack pc : Nat),
    (∀ bad, (∀ l ∈ s.l2, l.line = line → l.dirty = false) → exec (.dirtyLineEviction line bad) s = .next s) ∧
    (∀ bad, (∃ l ∈ s.l2, l.line = line ∧ l.dirty = true) → ∃ u, exec (.dirtyLineEviction line bad) s = .next u ∧ u.mem = s.mem ∧
      (∀ l, l ∈ u.l2 ↔ l ∈ s.l2 ∧ l.line ≠ line) ∧ (∀ j, j ∈ u.poison ↔ j ∈ s.poison ∨ (bad = true ∧ j = line))) ∧
    (line ∈ s.poison ∨ 2 ^ 34 ≤ line ∨ k = 0 → exec (.scrubRead line k) s = .next s) ∧
    (line ∉ s.poison → line < 2 ^ 34 →
      (1 ≤ k → k ≤ 4 → ∃ u, exec (.scrubRead line k) s = .next u ∧ u.mem = s.mem ∧ u.poison = s.poison ∧
        Sparse.get 0 u.stackCor (pcOf line) = Sparse.get 0 s.stackCor (pcOf line) + 1 ∧
        (∀ l ∈ u.l2, l.line ≠ line) ∧ ∀ h ∈ u.holds, h.1 / 4 ≠ line) ∧
      (5 ≤ k → k ≤ 10 → exec (.scrubRead line k) s = .next { s with poison := insertSorted line s.poison }) ∧
      (11 ≤ k → ∃ u, exec (.scrubRead line k) s = .next u ∧
        ((u.poison = insertSorted line s.poison ∧ u.mem = s.mem) ∨
          (u.poison = s.poison ∧ ∀ a, a / 64 ≠ line → memAt u a = memAt s a)))) ∧
    (stack < 16 → pc < 512 →
      let pcOfU := fun (u : State) => Sparse.get ⟨0, 0, 0⟩ u.pcs (512 * stack + pc)
      (∃ u, exec (.forcedRefresh stack pc) s = .next u ∧ pcOfU u = { pcOfU s with forced := (pcOfU s).forced + 1 } ∧ u.mem = s.mem) ∧
      (∃ u, exec (.refresh stack pc) s = .next u ∧ pcOfU u = { pcOfU s with refreshes := (pcOfU s).refreshes + 1 } ∧ u.mem = s.mem) ∧
      (∃ u, exec (.requestPromotion stack pc) s = .next u ∧ pcOfU u = { pcOfU s with promoted := (pcOfU s).promoted + 1 } ∧
        u.mem = s.mem))) ∧
  (∀ (s : State) (o : Nat), s.host.up = true → s.host.retraining = false → o % 8 = 0 → o < 2 ^ 16 →
    let word : Nat := if o < 0x8000 then (Sparse.get 0 s.bells (o / 8)).toNat
      else if o = 0x8000 then s.host.admBase.toNat else if o = 0x8008 then s.host.admTail.toNat
      else if o = 0x8010 then s.host.admHead.toNat
      else if o = 0x8018 then (match s.power with | .off => 0 | .ready => 1 | .failed k => 2 + 2 ^ 16 * (k % 2 ^ 16) | .stopped => 3)
      else if o = 0x8020 then s.host.genChip.toNat else if o = 0x8030 then Config.caps.toNat % 2 ^ 64
      else if o = 0x8038 then Config.caps.toNat / 2 ^ 64 else 0
    let tells := fun (off n : Nat) => exec (.hostRead (.bar0 (o + off)) n) s = .next (s.tell (.hostData (bytesOfNat n (word / 256 ^ off)) false))
    tells 0 8 ∧ tells 0 4 ∧ tells 4 4) ∧
  (∀ (s : State) (off n : Nat) (bs : List Byte) (scaled : Bool), s.host.up = true → s.host.retraining = false → s.host.lost = false → off < 2 ^ 43 →
    let a := off % 2 ^ 40
    let on := fun (n : Nat) => s.windowsOn a n = true
    let free := fun (n : Nat) => ∀ g ∈ granules a n, ∀ h, assoc s.holds g = some h → s.conflicts (.host 0) h = false
    (0 < n → a + n ≤ 2 ^ 40 → s.waitingOn a n = false →
      (¬on n → exec (.hostRead (.memory off) n) s = .next ((s.tell (.hostError off 2)).tell .hostPoison)) ∧
      (on n → ¬free n → exec (.hostRead (.memory off) n) s = .next ((s.tell (.hostError off 0)).tell .hostPoison)) ∧
      (on n → free n → (∃ k ∈ sectorsOf a n, s.poisoned k = true) →
        exec (.hostRead (.memory off) n) s = .next ((s.tell (.hostError off 4)).tell .hostPoison)) ∧
      (on n → free n → (∀ k ∈ sectorsOf a n, s.poisoned k = false) → a / 2 ^ 30 = (a + n - 1) / 2 ^ 30 →
        ∃ u : State, exec (.hostRead (.memory off) n) s = .next (u.tell (.hostData (s.homeBytes (s.windowKey a) a n) (s.grants a n))) ∧
          u = { s with l2 := u.l2, host := { s.host with acked := u.host.acked } } ∧
          (s.grants a n = false → u.host = s.host) ∧
          (s.grants a n = true → ∀ x, x ∈ u.host.acked ↔ x ∈ s.host.acked ∧ x.1 ∉ sectorsOf a n))) ∧
    (0 < bs.length → a + bs.length ≤ 2 ^ 40 →
      (¬on bs.length → exec (.hostWrite off ⟨bs, scaled⟩) s = .next (s.tell (.hostError off 2))) ∧
      (on bs.length → 2 ^ 40 ≤ off → (off % 4 ≠ 0 ∨ bs.length % 4 ≠ 0) →
        exec (.hostWrite off ⟨bs, scaled⟩) s = .next (s.tell (.hostError off 3))) ∧
      (on bs.length → off < 2 ^ 40 →
        ((∃ k ∈ sectorsOf a bs.length, s.pairRefuses (k / 64) = true) →
          exec (.hostWrite off ⟨bs, scaled⟩) s = .next (s.tell (.hostError off 1))) ∧
        ((∀ k ∈ sectorsOf a bs.length, s.pairRefuses (k / 64) = false) →
          (¬free bs.length → exec (.hostWrite off ⟨bs, scaled⟩) s = .next (s.tell (.hostError off 0))) ∧
          (free bs.length → (∀ k ∈ sectorsOf a bs.length, s.regionAt (k / 64) = none ∧ k ∉ s.poison ∧ s.deferredAt k = none ∧
              ∀ x m, assoc s.secKey k = some (x, m) → m = s.material (s.windowKey (64 * k))) →
            ∃ u, exec (.hostWrite off ⟨bs, scaled⟩) s = .next u ∧
              ∀ x, memAt u x = if a ≤ x ∧ x < a + bs.length then bs.getD (x - a) 0 else memAt s x)))))

/-! ### Links, energy, firmware, power and capabilities (R45, R386, R394 to R397, R398, R399, R402 to R408) -/

/-- The events of the links, of energy, of firmware and attestation, of checkpoints and of power (R45, R386, R394 to R397, R402 to
R408), and where the status of a command goes (R392, R394, R400). The arithmetic of the signatures is PRESUMED (log 15); the accruals,
budgets and what a restore leaves follow log 32; that a status goes to the slot of the oldest command which is not complete, and waits for
the host link, is log 26, and the order in which a checkpoint fills its buffers is the model's choice (log 40). At the end, the stage
manager's capabilities (R398, R399): an ordinary write of half
a value clears its tag, a capability instruction sets it; an access through an untagged value, outside [BASE, BASE + LEN), in another
space or without the permission is a counted fault that refuses the command being parsed with TAG or BOUNDS; any other write is made, and
any other read changes nothing. That a value which breaks the layout meets BOUNDS, and what a permitted write of each space changes, is the
model's choice (log 40). -/
def Obligations.LinksAndPower : Prop :=
  (∀ (s : State) (i : Nat) (x : Link), i < 24 → s.links[i]? = some x →
    let sets := fun (ev : Instr) (y : Link) => ∃ u, exec ev s = .next u ∧ u.links[i]? = some y ∧ u.mem = s.mem ∧
      (∀ j, j ≠ i → u.links[j]? = s.links[j]?)
    let noticed := fun (u : State) => ∀ ctx c peer, s.ctxAt ctx = some c → peer < c.fabric.length → peer ≠ c.self → peer ∉ c.lost →
      c.routes.getD peer [] ≠ [] → (∀ j ∈ c.routes.getD peer [], u.linkDown j = true) → ∃ c', u.ctxAt ctx = some c' ∧ peer ∈ c'.lossDue
    (x.down = false → x.failed = 0 → sets (.laneFailure i) { x with failed := 1, retraining := true }) ∧
    (x.down = false → x.failed = 1 → sets (.laneFailure i) { x with failed := 2, lanes := 4, retraining := true }) ∧
    (x.down = false → 2 ≤ x.failed →
      sets (.laneFailure i) { x with failed := x.failed + 1, lanes := 0, retraining := false, down := true }) ∧
    (∀ u, exec (.laneFailure i) s = .next u → noticed u) ∧
    sets (.linkIdleTimeout i) { x with down := true, retraining := false, lanes := 0 } ∧
    (∀ u, exec (.linkIdleTimeout i) s = .next u → noticed u) ∧
    (x.down = false → sets (.linkLevelRetry i) { x with replays := x.replays + 1 }) ∧
    (x.down = true → sets (.linkLevelRetry i) x) ∧ sets (.cartenRetrainDone i) { x with retraining := false }) ∧
  (∀ (s : State) (ctx peer : Nat) (c : Ctx), s.ctxAt ctx = some c → ∃ (u : State) (c' : Ctx),
    exec (.peerLossNotice ctx peer) s = .next u ∧ u.ctxAt ctx = some c' ∧ c'.lost = c.lost ∧ u.mem = s.mem ∧
      ∀ p, p ∈ c'.lossDue ↔ p ∈ c.lossDue ∨ (p = peer ∧ peer < c.fabric.length ∧ peer ≠ c.self ∧ peer ∉ c.lost)) ∧
  (∀ (s : State) (w : Nat),
    (s.host.up = true → exec .hostLinkDown s =
      .next { s with host := { s.host with up := false, counting := !s.host.lost, retraining := false } }) ∧
    (s.host.up = false → exec .hostLinkDown s = .next s) ∧
    exec .hostLinkUp s = .next (State.flushDue { s with host := { s.host with up := true, counting := false } }) ∧
    (s.host.counting = true → exec .hostLinkLoss s = .next { s with host := { s.host with lost := true, counting := false, due := [] } }) ∧
    (s.host.counting = false → exec .hostLinkLoss s = .next s) ∧
    (s.host.up = true → (w = 16 ∨ w = 8 ∨ w = 4) → exec (.linkWidthChange w) s =
      .next { s with host := { s.host with width := w, retraining := true } }) ∧
    (s.host.up = false ∨ (w ≠ 16 ∧ w ≠ 8 ∧ w ≠ 4) → exec (.linkWidthChange w) s = .next s) ∧
    exec .hostRetrainDone s = .next (State.flushDue { s with host := { s.host with retraining := false } }) ∧
    (w ≤ 3400 → exec (.energyBudgetWrite w) s = .next { s with budget := w }) ∧
    (3400 < w → exec (.energyBudgetWrite w) s = .next s) ∧
    exec .thermalStop s = .next { s with power := .stopped }) ∧
  (∀ (s : State) (a k : Nat),
    let h := s.host
    let serves := h.up = true ∧ h.retraining = false ∧ h.lost = false
    let slot := h.admBase.toNat / 4096 * 4096 + 64 * (h.admDone.toNat % 2 ^ (h.admBase.toNat % 16))
    (¬serves ∨ h.due = [] → s.flushDue = s) ∧
    (serves → h.due = [(a, k)] → a / 64 ∉ h.poison →
      s.flushDue = { s with host := { h with mem := Sparse.write 0 h.mem a [BitVec.ofNat 8 k], due := [] } }) ∧
    (h.admDone = h.admHead → s.status k = s.tell (.status k)) ∧
    (h.admDone ≠ h.admHead → h.lost = true → s.status k = State.tell { s with host := { h with admDone := h.admDone + 1 } } (.status k)) ∧
    (h.admDone ≠ h.admHead → h.lost = false → ¬serves →
      s.status k = State.tell { s with host := { h with admDone := h.admDone + 1, due := h.due ++ [(slot, k)] } } (.status k)) ∧
    (h.admDone ≠ h.admHead → serves → h.due = [] → slot / 64 ∉ h.poison →
      s.status k = State.tell { s with host := { h with
        admDone := h.admDone + 1, mem := Sparse.write 0 h.mem slot [BitVec.ofNat 8 k] } } (.status k))) ∧
  (∀ (s : State) (die uj : Nat), die < 4 →
    let total := Sparse.get 0 s.carry die + uj
    (exec (.energyAccrual die uj []) s = .next { s with
      carry := Sparse.set 0 s.carry die (total % 1000), edie := vset s.edie die ((vget s.edie die 0 + total / 1000) % 2 ^ 64) }) ∧
    (∀ ctx x c, x ≤ uj → s.ctxAt ctx = some c →
      let part := (Sparse.get 0 s.carry (4 + 4 * ctx + die) + x) / 1000
      ∃ (u : State) (c' : Ctx), exec (.energyAccrual die uj [(ctx, x)]) s = .next u ∧ u.ctxAt ctx = some c' ∧ u.mem = s.mem ∧
        vget u.edie die 0 = (vget s.edie die 0 + total / 1000) % 2 ^ 64 ∧
        vget c'.ectx die 0 = (vget c.ectx die 0 + part) % 2 ^ 64 ∧
        vget c'.credit die 0 = max (-(2 ^ 63)) (vget c.credit die 0 - part) ∧
        Sparse.get 0 u.carry (4 + 4 * ctx + die) = (Sparse.get 0 s.carry (4 + 4 * ctx + die) + x) % 1000) ∧
    (∀ ctx mj c, s.ctxAt ctx = some c → ∃ (u : State) (c' : Ctx), exec (.creditRefill ctx die mj) s = .next u ∧ u.ctxAt ctx = some c' ∧
      vget c'.credit die 0 = min (2 ^ 63 - 1) (vget c.credit die 0 + mj) ∧ u.mem = s.mem)) ∧
  (∀ (s : State) (version : Word) (image sig : List Byte) (nonce : BitVec 256),
    let b : Bank := ⟨bytesOfNat 4 version.toNat ++ image, BitVec.ofNat 22560 (ofBigEndian sig)⟩
    (s.fw.incoming ≠ none → exec (.firmwareLoad version image sig) s = .next (s.status 4)) ∧
    (s.fw.incoming = none → (sig.length = 2820 ∧ s.fw.accepts b = true →
        exec (.firmwareLoad version image sig) s = .next (State.status { s with fw := { s.fw with incoming := some b } } 0)) ∧
      (sig.length ≠ 2820 ∨ s.fw.accepts b = false → exec (.firmwareLoad version image sig) s = .next (s.status 6))) ∧
    (s.fw.incoming = none → exec .handoverSwitch s = .next s) ∧
    (∀ n, s.fw.incoming = some n → exec .handoverSwitch s = .next { s with fw := { s.fw with active := n, incoming := none } }) ∧
    (2 ^ 20 ≤ s.fw.leaf → exec (.attestationRequest nonce) s = .next (s.status 5)) ∧
    (s.fw.leaf < 2 ^ 20 → ∃ (u : State) (bytes : List Byte), exec (.attestationRequest nonce) s = .next u ∧
      u.notices = s.notices ++ [.report bytes s.fw.boots s.fw.leaf, .status 0] ∧ u.fw = { s.fw with leaf := s.fw.leaf + 1 } ∧
      bytes.length = 112 ∧ (∀ i, i < 32 → bytes.getD i 0 = nonce.extractLsb' (8 * i) 8) ∧
      (∀ i, i < 4 → bytes.getD (32 + i) 0 = s.fw.active.image.getD i 0) ∧
      (∀ i, i < 32 → bytes.getD (36 + i) 0 = (shake256 s.fw.active.image).getD i 0) ∧
      (∀ i, i < 32 → bytes.getD (68 + i) 0 = match s.fw.incoming with
        | some n => (shake256 n.image).getD i 0
        | none => 0) ∧
      bytes.getD 100 0 = (if s.fw.incoming = none then 0 else 1) ∧
      (∀ i, i < 4 → bytes.getD (104 + i) 0 = BitVec.ofNat 8 (s.fw.leaf / 256 ^ i) ∧
        bytes.getD (108 + i) 0 = BitVec.ofNat 8 (s.fw.boots / 256 ^ i)))) ∧
  (∀ (s : State) (ctx : Nat) (ranges : List (Nat × Nat)) (bufs : List Nat) (x : SavedSector) (rounds : List (Nat × Word)),
    (s.quiescent ctx = false → exec (.checkpoint ctx ⟨ranges, bufs⟩) s = .next (s.status 4) ∧
      exec (.restore ctx [x] rounds) s = .next (s.status 4)) ∧
    (s.quiescent ctx = true →
      (s.savedRanges ctx ranges = none → exec (.checkpoint ctx ⟨ranges, bufs⟩) s = .next (s.status 3)) ∧
      (∀ r c slot, s.savedRanges ctx ranges = some r → s.ctxAt ctx = some c →
        let k := s.sm.cap slot
        let refused := fun (code : Nat) => exec (.checkpoint ctx ⟨ranges, [slot]⟩) s =
          .next (State.status { s with sm := { s.sm with faults := s.sm.faults + 1 } } code)
        (k.tag = false → refused 2) ∧
        (k.tag = true → k.formed = false ∨ k.spc ≠ 0 ∨ k.writes = false ∨ k.len < 64 * r.length → refused 1) ∧
        (k.tag = true → k.formed = true → k.spc = 0 → k.writes = true → 64 * r.length ≤ k.len →
          (s.host.serves = false → exec (.checkpoint ctx ⟨ranges, [slot]⟩) s = .next s) ∧
          (s.host.serves = true → exec (.checkpoint ctx ⟨ranges, [slot]⟩) s = .next (State.status { s with
            notices := s.notices ++ [.checkpoint r (c.groups.map fun g => (g.1, g.2.cr))],
            host := { s.host with mem := Sparse.write 0 s.host.mem k.base ((r.flatMap fun y => y.data).take k.len) } } 0)))) ∧
      (∀ sec key, s.sectorVa ctx x.addr = some (sec, key) → x.data.length = 64 → ∃ u, exec (.restore ctx [x] []) s = .next u ∧
        Sparse.get 0x7F7F u.secScale sec = x.scales ∧
        ∀ a, (a / 64 = sec ∨ (∃ j, s.twin sec = some j ∧ a / 64 = j.1) → memAt u a = x.data.getD (a % 64) 0) ∧
          (a / 64 ≠ sec → (∀ j, s.twin sec = some j → a / 64 ≠ j.1) → memAt u a = memAt s a)) ∧
      (∀ grp v c g, s.ctxAt ctx = some c → c.waiting = [] → assoc c.groups grp = some g → ∃ (u : State) (y : Group),
        exec (.restore ctx [] [(grp, v)]) s = .next u ∧ u.group ctx grp = some y ∧ y.cr = v ∧ y.st = .open_ ∧ y.lost = 0 ∧
        y.deltas = [] ∧ y.epoch = g.epoch ∧ y.cfg = g.cfg)) ∧
    (∀ va sec key, s.regionAt (sec / 64) = none → (∀ m, assoc s.secKey sec = some m → m.2 = s.material key) →
      (s.savedSector va sec key).data = bytesOfNat 64 (s.sectorRaw sec).toNat) ∧
    (∀ va sec key c d p i r, s.regionAt (sec / 64) = some (c, d, p, i) → p.paired = false →
      (p.undo.find? fun r => r.sector == sec) = some r → (∀ m, r.key = some m → m.2 = s.material key) →
      s.savedSector va sec key = ⟨va, bytesOfNat 64 r.data.toNat, r.scales⟩)) ∧
  (∀ s : State,
    let off := fun (u : State) => u.mem = [] ∧ u.core = Core.reset 0 ∧ u.parked = [] ∧ u.ctxs = [] ∧ u.launches = [] ∧ u.rings = [] ∧
      u.keys = [] ∧ u.holds = [] ∧ u.poison = [] ∧ u.host.mem = s.host.mem ∧ u.fw.active = s.fw.active ∧ u.fw.leaf = 0 ∧
      u.fw.incoming = none
    let failed := fun (i : Instr) (k : Nat) => ∃ u, exec i s = .next u ∧ u.power = .failed k ∧ off u ∧
      u.fw.boots = if k = 1 then s.fw.boots else s.fw.boots + 1
    (s.fw.unfit = true ↔ s.fw.accepts s.fw.active = false ∨ 2 ^ 20 ≤ s.fw.boots + 1) ∧
    (∃ u, exec .powerLoss s = .next u ∧ u.power = .off ∧ off u ∧ u.fw.boots = s.fw.boots) ∧
    (s.fw.unfit = true → ∀ f, failed (.bringUp f) 1) ∧
    (s.fw.unfit = false → (∀ k, 1 ≤ k → k ≤ 6 → failed (.bringUp (some k)) k) ∧
      ∃ u, exec (.bringUp none) s = .next u ∧ u.power = .ready ∧ off u ∧ u.fw.boots = s.fw.boots + 1)) ∧
  (∀ (s : State) (slot j : Nat) (high tagged : Bool) (v : DWord), ∃ u, exec (.registerWrite (.cap slot high tagged) v) s = .next u ∧
    u.mem = s.mem ∧ u.sm.faults = s.sm.faults ∧ u.sm.refused = s.sm.refused ∧ (u.sm.cap slot).tag = tagged ∧
    (u.sm.cap slot).value.extractLsb' 0 64 = (if high then (s.sm.cap slot).value.extractLsb' 0 64 else v) ∧
    (u.sm.cap slot).value.extractLsb' 64 64 = (if high then v else (s.sm.cap slot).value.extractLsb' 64 64) ∧
    (j ≠ slot → u.sm.cap j = s.sm.cap j)) ∧
  (∀ (s : State) (slot off n : Nat) (spc : BitVec 2) (write : Bool) (v : DWord),
    let c := s.sm.cap slot
    let use := exec (.registerWrite (.capUse slot write spc off n) v) s
    let faults := fun (code : Nat) => use = .next { s with sm := { s.sm with
      faults := s.sm.faults + 1,
      refused := match s.sm.refused with
        | some k => some k
        | none => some code } }
    let formed := 1 ≤ c.len ∧ c.spc ≠ 3 ∧ c.kind < 5 ∧ c.value.toNat < 2 ^ 104
    let admits := c.spc = spc.toNat ∧ (if write then c.value.getLsbD 97 else c.value.getLsbD 96) = true ∧ off + n ≤ c.len
    (c.tag = false → faults 2) ∧ (c.tag = true → ¬(formed ∧ admits) → faults 1) ∧ (c.tag = true → formed ∧ admits →
      let a := c.base + off
      let k := min n 8
      let byte := fun (x : Nat) => v.extractLsb' (8 * (x - a)) 8
      (write = false ∨ spc = 2 ∨ (spc = 0 ∧ s.host.linked = false) ∨ (spc = 1 ∧ Config.memBytes < a + k) → use = .next s) ∧
      (write = true → spc = 0 → s.host.linked = true → ∃ u, use = .next u ∧ u = { s with host := { s.host with mem := u.host.mem } } ∧
        ∀ x, Sparse.get 0 u.host.mem x =
          if a ≤ x ∧ x < a + k ∧ x / 64 ∉ s.host.poison then byte x else Sparse.get 0 s.host.mem x) ∧
      (write = true → spc = 1 → a + k ≤ Config.memBytes →
        (∀ y ∈ sectorsOf a k, s.deferredAt y = none ∧ ∀ z m, assoc s.secKey y = some (z, m) → m = s.material 0) →
        ∃ u, use = .next u ∧ u.host = s.host ∧ ∀ x, memAt u x = if a ≤ x ∧ x < a + k then byte x else memAt s x)))

/-! ### Encoding, one step, memory and reset (R4, R8, R45 to R71, R186, R354, R356, R406) -/

/-- Decode and encode agree, for every instruction of the opcode table that has words, with every operand at every value the
encoding admits (R46 to R59, R69, R71): the decoder reads a well-formed instruction's words, and its bytes, as that instruction;
and what it reads is well formed and has exactly those words. -/
def Obligations.RoundTrip : Prop :=
  (∀ (i : Instr) (x : Word), WellFormed i = true → encode i ≠ [] →
    decode ((encode i).getD 0 0) ((encode i).getD 1 x) = .ok i) ∧
  (∀ (i : Instr) (rest : List Byte), WellFormed i = true → encode i ≠ [] →
    decodeBytes (encodeBytes i ++ rest) = .ok (i, rest)) ∧
  (∀ (w x : Word) (i : Instr), decode w x = .ok i →
    WellFormed i = true ∧ encode i = if isWide (opOf w) then [w, x] else [w])

/-- Words of the spec's encodings and worked examples, with the instructions that they stand for (R46 to R59), and the words that
are refused by row: an unassigned opcode, an extension word with a nonzero top, a reserved field. -/
def Obligations.DecodeWords : Prop :=
  let cu : Cue := ⟨false, false, false, false⟩
  (∀ x : Word,
    decode 0x00200000 x = .ok (.nop cu) ∧ decode 0x00400000 x = .ok (.cue cu 0) ∧ decode 0x0060000E x = .ok (.bprep cu 0 14) ∧
    decode 0x00884000 x = .ok (.br cu 1 0 1) ∧ decode 0x00C40C15 x = .ok (.loopImmediate cu 0 3 21) ∧
    decode 0x01000007 x = .ok (.trap cu 7) ∧ decode 0x01860023 x = .ok (.csrr cu 6 0x23) ∧
    decode 0x02031887 x = .ok (.xor cu 3 3 2) ∧ decode 0x0281009F x = .ok (.addi cu 1 0 159) ∧
    decode 0x03440880 x = .ok (.fdiv cu 4 1 2 0) ∧ decode 0x09A30000 x = .ok (.mmZero cu 3) ∧
    decode 0x0BA40003 x = .ok (.curtPrep cu 4 3) ∧ decode 0x0DE00000 x = .ok (.drain cu) ∧
    decode 0x0F200000 x = .ok (.actEnd cu)) ∧
  (∀ w x : Word, opOf w = 0x00 ∨ opOf w = 0x13 ∨ opOf w = 0x1B ∨ opOf w = 0x1C → decode w x = .error .opcode) ∧
  (∀ w x : Word, opAssigned (opOf w) = true → isWide (opOf w) = true → x.extractLsb' 28 4 ≠ 0 → decode w x = .error .extension) ∧
  (∀ x : Word, decode 0x00200001 x = .error .reserved ∧ decode 0x0F200001 x = .error .reserved) ∧
  (∀ b0 b1 b2 b3 : Byte, decodeBytes [] = .error .short ∧ decodeBytes [b0, b1, b2] = .error .short ∧
    (isWide (opOf (b3 ++ b2 ++ b1 ++ b0)) = true → decodeBytes [b0, b1, b2, b3] = .error .short))

/-- A step runs the decoded instruction (R47, R63, R69, R141): in the turn of engine e, with the core running and the engine free
to issue, the words at its program counter run as exec of the instruction that they decode to, and words that decode to none as
the row ILLOP; around exec, a step retries the engine's waiting pushes, keeps the undo ring's snapshot, passes the turn on and
makes the back-edge decisions that are due. An event of the agenda happens by exec as well, but a command of the stage manager
that a capability fault has refused only gives its status (R399), and a module without power takes no event. The order of the turns is the model's own choice (log 1). -/
def Obligations.StepRunsDecoded : Prop :=
  (∀ (s : State) (e : Engine), s.power = .ready → s.agenda = [] → s.turn = .eng e →
    let s0 : State := { s with turn := Turn.after (.eng e), cur := e }
    let s1 : State := s0.setLive (s.core.live.settle e)
    let x := s1.core.live.eng e
    (s1.canIssue e = false → step s = .next s1) ∧
    (s1.canIssue e = true → ∀ i : Instr,
      (x.pc < 8192 → x.pc ∉ x.tags → decode (x.word x.pc) (x.word (x.pc + 1)) = .ok i → step s = andThen (exec i s1.snapshot) decisions) ∧
      (8192 ≤ x.pc ∨ x.pc ∈ x.tags ∨ (∃ r, decode (x.word x.pc) (x.word (x.pc + 1)) = .error r) →
        step s = andThen (exec (.illop (x.word x.pc) (x.word (x.pc + 1))) s1.snapshot) decisions))) ∧
  (∀ (s : State) (c : Nat) (i : Instr) (rest : List Move), s.agenda = .event c i :: rest →
    let s1 := ({ s with agenda := rest } : State).focus c
    (s.power = .ready → (Instr.parsed i = false ∨ s.sm.refused = none → step s = andThen (exec i s1.snapshot) decisions) ∧
      ∀ k, Instr.parsed i = true → s.sm.refused = some k →
        step s = .next (State.status { s1 with sm := { s1.sm with refused := none } } k)) ∧
    (s.power ≠ .ready → Instr.powers i = false → step s = .next s1)) ∧
  (∀ s : State, (∀ e, (s.core.live.eng e).backEdge = none) → decisions s = .next s) ∧
  (∀ (s : State) (i : Instr), s.power = .ready → s.agenda = [] → s.turn = .uncore →
    (s.nextEvent = some i → Instr.parsed i = false → step s = andThen (exec i ({ s with turn := .eng .a } : State).snapshot) decisions) ∧
    (s.nextEvent = none → step s = .next { s with turn := .eng .a })) ∧
  (∀ (s : State) (c : Nat) (e : Engine) (rest : List Move), s.agenda = .run c e :: rest →
    step s = runEngine e (({ s with agenda := rest } : State).focus c)) ∧
  (∀ s : State, (s.agenda = [] ∧ s.power ≠ .ready → step s = .fault .moduleStopped) ∧
    (s.agenda ≠ [] ∨ s.power = .ready → goesOn s))

/-- Every step keeps stacked memory and host memory in their one canonical form: addresses strictly rising, and no entry equal to
the 0 that an unlisted address reads as (R406; for host memory the value is the model's own choice, log 5). -/
def Obligations.MemoryCanonical : Prop :=
  ∀ s t : State, Memory.wf s.mem = true ∧ Sparse.wf (0 : Byte) s.host.mem = true → step s = .next t →
    Memory.wf t.mem = true ∧ Sparse.wf (0 : Byte) t.host.mem = true

/-- What reset leaves (R8, R45, R354, R356, R406): memory lists nothing and reads zero with scales 0x7F, no sector is poisoned or
held, no key is bound, and there is no context, ring, launch or act; each engine's registers with a reset column are zero, every
class minimum is 64, and every page is in device bias. -/
def Obligations.ResetValues : Prop :=
  let r := State.reset
  Memory.wf r.mem = true ∧ Sparse.wf (0 : Byte) r.host.mem = true ∧ (∀ a, memAt r a = 0) ∧
  (∀ k, Sparse.get 0x7F7F r.secScale k = 0x7F7F) ∧ r.poison = [] ∧ r.holds = [] ∧ (∀ k ctx, r.keyBound k ctx = false) ∧
  (∀ c, r.ctxAt c = none) ∧ r.rings = [] ∧ r.launches = [] ∧ r.slots = [] ∧ r.core.act = none ∧ r.core.wings = [] ∧ r.power = .ready ∧
  (∀ k, k < 4 → vget r.classMin k 0 = 64) ∧ r.host.hostBias = [] ∧ r.core.halt = false ∧ r.core.hen = false ∧
  (∀ e, let x := r.core.live.eng e
    x.cause = 0 ∧ x.epc = 0 ∧ x.tval0 = 0 ∧ x.tval1 = 0 ∧ x.tvec = 0 ∧ x.ridx = 0 ∧ x.almlvl = 0 ∧ x.issued = 0 ∧
      (∀ n, x.sreg n = 0 ∧ r.core.live.tokens n.toNat = 0) ∧
      ∀ n, x.target n = 0 ∧ (x.level n).act = false ∧ (x.level n).cnt = 0 ∧ (x.level n).pend = false) ∧
  r.core.live.fpflags = 0 ∧ r.core.live.lerr = 0 ∧ r.core.live.accst = 0 ∧
  (∀ i, i < 4 → vget r.core.gens i 0 = 0 ∧ vget r.colGens i 0 = 0 ∧ vget r.edie i 0 = 0) ∧
  (∀ i, i < 16 → vget r.core.pmc i 0 = 0)
end

