-- ==== Sys2Proof/Laws/Decode.lean ====
section
/-! SUPPORT. Laws of the encoding: reading fields back from joined fields, and when the decoder accepts the words of an
instruction. -/

namespace Sys2Proof

/-- Bits that lie in the low part of joined fields. -/
theorem extract_append_lo {n m k j : Nat} (h : BitVec n) (l : BitVec m) (hk : j + k ≤ m) :
    (h ++ l).extractLsb' j k = l.extractLsb' j k := by
  apply BitVec.eq_of_getLsbD_eq
  intro i hi
  have : j + i < m := by omega
  simp [BitVec.getLsbD_append, this]

/-- Bits that lie in the high part of joined fields. -/
theorem extract_append_hi {n m k j : Nat} (h : BitVec n) (l : BitVec m) (hk : m ≤ j) :
    (h ++ l).extractLsb' j k = h.extractLsb' (j - m) k := by
  apply BitVec.eq_of_getLsbD_eq
  intro i hi
  have h1 : ¬ j + i < m := by omega
  have h2 : j + i - m = j - m + i := by omega
  simp [BitVec.getLsbD_append, h1, h2]

/-- A bit in the low part of joined fields. -/
theorem getLsbD_append_lo {n m i : Nat} (h : BitVec n) (l : BitVec m) (hk : i < m) :
    (h ++ l).getLsbD i = l.getLsbD i := by
  simp [BitVec.getLsbD_append, hk]

/-- A bit in the high part of joined fields. -/
theorem getLsbD_append_hi {n m i : Nat} (h : BitVec n) (l : BitVec m) (hk : m ≤ i) :
    (h ++ l).getLsbD i = h.getLsbD (i - m) := by
  have : ¬ i < m := by omega
  simp [BitVec.getLsbD_append, this]

/-- The cue nibble of a first word is read back. -/
theorem cueOf_one (cu : Cue) (op : BitVec 7) (f : BitVec 21) : cueOf (nibble cu ++ op ++ f) = cu := by
  obtain ⟨a, b, c, d⟩ := cu
  simp only [cueOf, nibble, BitVec.getLsbD_append]
  cases a <;> cases b <;> cases c <;> cases d <;> rfl

/-- The opcode of a first word is read back. -/
theorem opOf_one (cu : Cue) (op : BitVec 7) (f : BitVec 21) : opOf (nibble cu ++ op ++ f) = op := by
  unfold opOf
  rw [extract_append_hi _ _ (by decide), extract_append_lo _ _ (by decide)]
  simp

/-- The format fields of a first word are read back. -/
theorem field_one (cu : Cue) (op : BitVec 7) (f : BitVec 21) : (nibble cu ++ op ++ f).extractLsb' 0 21 = f := by
  rw [extract_append_lo _ _ (by decide)]
  simp

/-- The decoder accepts the word of a well-formed instruction of one word that its opcode's candidate is, whatever word
comes after it. -/
theorem decode_one (cu : Cue) (op : BitVec 7) (f : BitVec 21) (x : Word) (i : Instr) (ho : opAssigned op = true)
    (hw : isWide op = false) (he : encode i = one cu op f) (hc : candidate cu op f (x.extractLsb' 0 28) = some i)
    (wf : WellFormed i = true) : decode ((encode i).getD 0 0) ((encode i).getD 1 x) = .ok i := by
  have hd : (one cu op f).getD 1 x = x := rfl
  have h0 : (one cu op f).getD 0 0 = nibble cu ++ op ++ f := rfl
  unfold decode
  rw [he, hd, h0]
  simp only [opOf_one, field_one, cueOf_one, ho, hw, hc, wf, he, wordsOf, one]
  simp

/-- The decoder accepts the two words of a well-formed instruction of format W that its opcode's candidate is. -/
theorem decode_two (cu : Cue) (op : BitVec 7) (f : BitVec 21) (y : BitVec 28) (x : Word) (i : Instr)
    (ho : opAssigned op = true) (hw : isWide op = true) (he : encode i = two cu op f y)
    (hc : candidate cu op f y = some i) (wf : WellFormed i = true) :
    decode ((encode i).getD 0 0) ((encode i).getD 1 x) = .ok i := by
  have hd : (two cu op f y).getD 1 x = (0 : BitVec 4) ++ y := rfl
  have h0 : (two cu op f y).getD 0 0 = nibble cu ++ op ++ f := rfl
  have h1 : ((0 : BitVec 4) ++ y).extractLsb' 28 4 = 0 := by rw [extract_append_hi _ _ (by decide)]; rfl
  have h2 : ((0 : BitVec 4) ++ y).extractLsb' 0 28 = y := by rw [extract_append_lo _ _ (by decide)]; simp
  unfold decode
  rw [he, hd, h0]
  simp only [opOf_one, field_one, cueOf_one, ho, hw, h1, h2, hc, wf, he, wordsOf, two]
  simp

/-- What the decoder accepts is well formed, and its encoding is the words read. -/
theorem decode_ok {w x : Word} {i : Instr} (h : decode w x = .ok i) :
    WellFormed i = true ∧ encode i = wordsOf w x ∧ opAssigned (opOf w) = true := by
  unfold decode at h
  split at h
  · rename_i ho
    split at h
    · cases h
    · split at h
      · cases h
      · split at h
        · rename_i hc
          cases h
          simp only [Bool.and_eq_true, decide_eq_true_eq] at hc
          exact ⟨hc.1, hc.2, ho⟩
        · cases h
  · cases h

end Sys2Proof
end

