-- ==== Sys2Proof/Laws/State.lean ====
section
/-! SUPPORT. One lemma for each field and each update of the state: what the update leaves alone, and what it puts. -/

namespace Sys2Proof.Machine

open Sys2Proof

/-! ### Updates of the focused core and of its live state -/

@[simp] theorem State.setLive_cur (s : State) (l : Live) : (s.setLive l).cur = s.cur := rfl
@[simp] theorem State.setLive_parked (s : State) (l : Live) : (s.setLive l).parked = s.parked := rfl
@[simp] theorem State.setLive_agenda (s : State) (l : Live) : (s.setLive l).agenda = s.agenda := rfl
@[simp] theorem State.setLive_turn (s : State) (l : Live) : (s.setLive l).turn = s.turn := rfl
@[simp] theorem State.setLive_free (s : State) (l : Live) : (s.setLive l).free = s.free := rfl
@[simp] theorem State.setLive_power (s : State) (l : Live) : (s.setLive l).power = s.power := rfl
@[simp] theorem State.setLive_mem (s : State) (l : Live) : (s.setLive l).mem = s.mem := rfl
@[simp] theorem State.setLive_secScale (s : State) (l : Live) : (s.setLive l).secScale = s.secScale := rfl
@[simp] theorem State.setLive_poison (s : State) (l : Live) : (s.setLive l).poison = s.poison := rfl
@[simp] theorem State.setLive_holds (s : State) (l : Live) : (s.setLive l).holds = s.holds := rfl
@[simp] theorem State.setLive_peerGens (s : State) (l : Live) : (s.setLive l).peerGens = s.peerGens := rfl
@[simp] theorem State.setLive_secKey (s : State) (l : Live) : (s.setLive l).secKey = s.secKey := rfl
@[simp] theorem State.setLive_l2 (s : State) (l : Live) : (s.setLive l).l2 = s.l2 := rfl
@[simp] theorem State.setLive_clusTlb (s : State) (l : Live) : (s.setLive l).clusTlb = s.clusTlb := rfl
@[simp] theorem State.setLive_pcs (s : State) (l : Live) : (s.setLive l).pcs = s.pcs := rfl
@[simp] theorem State.setLive_stackCor (s : State) (l : Live) : (s.setLive l).stackCor = s.stackCor := rfl
@[simp] theorem State.setLive_ctxs (s : State) (l : Live) : (s.setLive l).ctxs = s.ctxs := rfl
@[simp] theorem State.setLive_keys (s : State) (l : Live) : (s.setLive l).keys = s.keys := rfl
@[simp] theorem State.setLive_coreMap (s : State) (l : Live) : (s.setLive l).coreMap = s.coreMap := rfl
@[simp] theorem State.setLive_retired (s : State) (l : Live) : (s.setLive l).retired = s.retired := rfl
@[simp] theorem State.setLive_replacing (s : State) (l : Live) : (s.setLive l).replacing = s.replacing := rfl
@[simp] theorem State.setLive_classMin (s : State) (l : Live) : (s.setLive l).classMin = s.classMin := rfl
@[simp] theorem State.setLive_rings (s : State) (l : Live) : (s.setLive l).rings = s.rings := rfl
@[simp] theorem State.setLive_slots (s : State) (l : Live) : (s.setLive l).slots = s.slots := rfl
@[simp] theorem State.setLive_bells (s : State) (l : Live) : (s.setLive l).bells = s.bells := rfl
@[simp] theorem State.setLive_order (s : State) (l : Live) : (s.setLive l).order = s.order := rfl
@[simp] theorem State.setLive_launches (s : State) (l : Live) : (s.setLive l).launches = s.launches := rfl
@[simp] theorem State.setLive_nextLaunch (s : State) (l : Live) : (s.setLive l).nextLaunch = s.nextLaunch := rfl
@[simp] theorem State.setLive_holding (s : State) (l : Live) : (s.setLive l).holding = s.holding := rfl
@[simp] theorem State.setLive_pools (s : State) (l : Live) : (s.setLive l).pools = s.pools := rfl
@[simp] theorem State.setLive_waiters (s : State) (l : Live) : (s.setLive l).waiters = s.waiters := rfl
@[simp] theorem State.setLive_colGens (s : State) (l : Live) : (s.setLive l).colGens = s.colGens := rfl
@[simp] theorem State.setLive_edie (s : State) (l : Live) : (s.setLive l).edie = s.edie := rfl
@[simp] theorem State.setLive_carry (s : State) (l : Live) : (s.setLive l).carry = s.carry := rfl
@[simp] theorem State.setLive_budget (s : State) (l : Live) : (s.setLive l).budget = s.budget := rfl
@[simp] theorem State.setLive_host (s : State) (l : Live) : (s.setLive l).host = s.host := rfl
@[simp] theorem State.setLive_links (s : State) (l : Live) : (s.setLive l).links = s.links := rfl
@[simp] theorem State.setLive_fw (s : State) (l : Live) : (s.setLive l).fw = s.fw := rfl
@[simp] theorem State.setLive_sm (s : State) (l : Live) : (s.setLive l).sm = s.sm := rfl
@[simp] theorem State.setLive_notices (s : State) (l : Live) : (s.setLive l).notices = s.notices := rfl
@[simp] theorem State.setLive_outbox (s : State) (l : Live) : (s.setLive l).outbox = s.outbox := rfl
@[simp] theorem State.setLive_core_num (s : State) (l : Live) : (s.setLive l).core.num = s.core.num := rfl
@[simp] theorem State.setLive_core_ring (s : State) (l : Live) : (s.setLive l).core.ring = s.core.ring := rfl
@[simp] theorem State.setLive_core_act (s : State) (l : Live) : (s.setLive l).core.act = s.core.act := rfl
@[simp] theorem State.setLive_core_scene (s : State) (l : Live) : (s.setLive l).core.scene = s.core.scene := rfl
@[simp] theorem State.setLive_core_detlvl (s : State) (l : Live) : (s.setLive l).core.detlvl = s.core.detlvl := rfl
@[simp] theorem State.setLive_core_actCur (s : State) (l : Live) : (s.setLive l).core.actCur = s.core.actCur := rfl
@[simp] theorem State.setLive_core_actCeil (s : State) (l : Live) : (s.setLive l).core.actCeil = s.core.actCeil := rfl
@[simp] theorem State.setLive_core_lvl (s : State) (l : Live) : (s.setLive l).core.lvl = s.core.lvl := rfl
@[simp] theorem State.setLive_core_hen (s : State) (l : Live) : (s.setLive l).core.hen = s.core.hen := rfl
@[simp] theorem State.setLive_core_halt (s : State) (l : Live) : (s.setLive l).core.halt = s.core.halt := rfl
@[simp] theorem State.setLive_core_lastCue (s : State) (l : Live) : (s.setLive l).core.lastCue = s.core.lastCue := rfl
@[simp] theorem State.setLive_core_yieldMark (s : State) (l : Live) : (s.setLive l).core.yieldMark = s.core.yieldMark := rfl
@[simp] theorem State.setLive_core_request (s : State) (l : Live) : (s.setLive l).core.request = s.core.request := rfl
@[simp] theorem State.setLive_core_cancelled (s : State) (l : Live) : (s.setLive l).core.cancelled = s.core.cancelled := rfl
@[simp] theorem State.setLive_core_ending (s : State) (l : Live) : (s.setLive l).core.ending = s.core.ending := rfl
@[simp] theorem State.setLive_core_releasing (s : State) (l : Live) : (s.setLive l).core.releasing = s.core.releasing := rfl
@[simp] theorem State.setLive_core_chans (s : State) (l : Live) : (s.setLive l).core.chans = s.core.chans := rfl
@[simp] theorem State.setLive_core_claims (s : State) (l : Live) : (s.setLive l).core.claims = s.core.claims := rfl
@[simp] theorem State.setLive_core_gens (s : State) (l : Live) : (s.setLive l).core.gens = s.core.gens := rfl
@[simp] theorem State.setLive_core_wings (s : State) (l : Live) : (s.setLive l).core.wings = s.core.wings := rfl
@[simp] theorem State.setLive_core_attempts (s : State) (l : Live) : (s.setLive l).core.attempts = s.core.attempts := rfl
@[simp] theorem State.setLive_core_stealsLeft (s : State) (l : Live) : (s.setLive l).core.stealsLeft = s.core.stealsLeft := rfl
@[simp] theorem State.setLive_core_resting (s : State) (l : Live) : (s.setLive l).core.resting = s.core.resting := rfl
@[simp] theorem State.setLive_core_ups (s : State) (l : Live) : (s.setLive l).core.ups = s.core.ups := rfl
@[simp] theorem State.setLive_core_cor (s : State) (l : Live) : (s.setLive l).core.cor = s.core.cor := rfl
@[simp] theorem State.setLive_core_lasting (s : State) (l : Live) : (s.setLive l).core.lasting = s.core.lasting := rfl
@[simp] theorem State.setLive_core_pmc (s : State) (l : Live) : (s.setLive l).core.pmc = s.core.pmc := rfl
@[simp] theorem State.setLive_core_l1 (s : State) (l : Live) : (s.setLive l).core.l1 = s.core.l1 := rfl
@[simp] theorem State.setLive_core_tlb (s : State) (l : Live) : (s.setLive l).core.tlb = s.core.tlb := rfl
@[simp] theorem State.modLive_cur (s : State) (f : Live → Live) : (s.modLive f).cur = s.cur := rfl
@[simp] theorem State.modLive_parked (s : State) (f : Live → Live) : (s.modLive f).parked = s.parked := rfl
@[simp] theorem State.modLive_agenda (s : State) (f : Live → Live) : (s.modLive f).agenda = s.agenda := rfl
@[simp] theorem State.modLive_turn (s : State) (f : Live → Live) : (s.modLive f).turn = s.turn := rfl
@[simp] theorem State.modLive_free (s : State) (f : Live → Live) : (s.modLive f).free = s.free := rfl
@[simp] theorem State.modLive_power (s : State) (f : Live → Live) : (s.modLive f).power = s.power := rfl
@[simp] theorem State.modLive_mem (s : State) (f : Live → Live) : (s.modLive f).mem = s.mem := rfl
@[simp] theorem State.modLive_secScale (s : State) (f : Live → Live) : (s.modLive f).secScale = s.secScale := rfl
@[simp] theorem State.modLive_poison (s : State) (f : Live → Live) : (s.modLive f).poison = s.poison := rfl
@[simp] theorem State.modLive_holds (s : State) (f : Live → Live) : (s.modLive f).holds = s.holds := rfl
@[simp] theorem State.modLive_peerGens (s : State) (f : Live → Live) : (s.modLive f).peerGens = s.peerGens := rfl
@[simp] theorem State.modLive_secKey (s : State) (f : Live → Live) : (s.modLive f).secKey = s.secKey := rfl
@[simp] theorem State.modLive_l2 (s : State) (f : Live → Live) : (s.modLive f).l2 = s.l2 := rfl
@[simp] theorem State.modLive_clusTlb (s : State) (f : Live → Live) : (s.modLive f).clusTlb = s.clusTlb := rfl
@[simp] theorem State.modLive_pcs (s : State) (f : Live → Live) : (s.modLive f).pcs = s.pcs := rfl
@[simp] theorem State.modLive_stackCor (s : State) (f : Live → Live) : (s.modLive f).stackCor = s.stackCor := rfl
@[simp] theorem State.modLive_ctxs (s : State) (f : Live → Live) : (s.modLive f).ctxs = s.ctxs := rfl
@[simp] theorem State.modLive_keys (s : State) (f : Live → Live) : (s.modLive f).keys = s.keys := rfl
@[simp] theorem State.modLive_coreMap (s : State) (f : Live → Live) : (s.modLive f).coreMap = s.coreMap := rfl
@[simp] theorem State.modLive_retired (s : State) (f : Live → Live) : (s.modLive f).retired = s.retired := rfl
@[simp] theorem State.modLive_replacing (s : State) (f : Live → Live) : (s.modLive f).replacing = s.replacing := rfl
@[simp] theorem State.modLive_classMin (s : State) (f : Live → Live) : (s.modLive f).classMin = s.classMin := rfl
@[simp] theorem State.modLive_rings (s : State) (f : Live → Live) : (s.modLive f).rings = s.rings := rfl
@[simp] theorem State.modLive_slots (s : State) (f : Live → Live) : (s.modLive f).slots = s.slots := rfl
@[simp] theorem State.modLive_bells (s : State) (f : Live → Live) : (s.modLive f).bells = s.bells := rfl
@[simp] theorem State.modLive_order (s : State) (f : Live → Live) : (s.modLive f).order = s.order := rfl
@[simp] theorem State.modLive_launches (s : State) (f : Live → Live) : (s.modLive f).launches = s.launches := rfl
@[simp] theorem State.modLive_nextLaunch (s : State) (f : Live → Live) : (s.modLive f).nextLaunch = s.nextLaunch := rfl
@[simp] theorem State.modLive_holding (s : State) (f : Live → Live) : (s.modLive f).holding = s.holding := rfl
@[simp] theorem State.modLive_pools (s : State) (f : Live → Live) : (s.modLive f).pools = s.pools := rfl
@[simp] theorem State.modLive_waiters (s : State) (f : Live → Live) : (s.modLive f).waiters = s.waiters := rfl
@[simp] theorem State.modLive_colGens (s : State) (f : Live → Live) : (s.modLive f).colGens = s.colGens := rfl
@[simp] theorem State.modLive_edie (s : State) (f : Live → Live) : (s.modLive f).edie = s.edie := rfl
@[simp] theorem State.modLive_carry (s : State) (f : Live → Live) : (s.modLive f).carry = s.carry := rfl
@[simp] theorem State.modLive_budget (s : State) (f : Live → Live) : (s.modLive f).budget = s.budget := rfl
@[simp] theorem State.modLive_host (s : State) (f : Live → Live) : (s.modLive f).host = s.host := rfl
@[simp] theorem State.modLive_links (s : State) (f : Live → Live) : (s.modLive f).links = s.links := rfl
@[simp] theorem State.modLive_fw (s : State) (f : Live → Live) : (s.modLive f).fw = s.fw := rfl
@[simp] theorem State.modLive_sm (s : State) (f : Live → Live) : (s.modLive f).sm = s.sm := rfl
@[simp] theorem State.modLive_notices (s : State) (f : Live → Live) : (s.modLive f).notices = s.notices := rfl
@[simp] theorem State.modLive_outbox (s : State) (f : Live → Live) : (s.modLive f).outbox = s.outbox := rfl
@[simp] theorem State.modLive_core_num (s : State) (f : Live → Live) : (s.modLive f).core.num = s.core.num := rfl
@[simp] theorem State.modLive_core_ring (s : State) (f : Live → Live) : (s.modLive f).core.ring = s.core.ring := rfl
@[simp] theorem State.modLive_core_act (s : State) (f : Live → Live) : (s.modLive f).core.act = s.core.act := rfl
@[simp] theorem State.modLive_core_scene (s : State) (f : Live → Live) : (s.modLive f).core.scene = s.core.scene := rfl
@[simp] theorem State.modLive_core_detlvl (s : State) (f : Live → Live) : (s.modLive f).core.detlvl = s.core.detlvl := rfl
@[simp] theorem State.modLive_core_actCur (s : State) (f : Live → Live) : (s.modLive f).core.actCur = s.core.actCur := rfl
@[simp] theorem State.modLive_core_actCeil (s : State) (f : Live → Live) : (s.modLive f).core.actCeil = s.core.actCeil := rfl
@[simp] theorem State.modLive_core_lvl (s : State) (f : Live → Live) : (s.modLive f).core.lvl = s.core.lvl := rfl
@[simp] theorem State.modLive_core_hen (s : State) (f : Live → Live) : (s.modLive f).core.hen = s.core.hen := rfl
@[simp] theorem State.modLive_core_halt (s : State) (f : Live → Live) : (s.modLive f).core.halt = s.core.halt := rfl
@[simp] theorem State.modLive_core_lastCue (s : State) (f : Live → Live) : (s.modLive f).core.lastCue = s.core.lastCue := rfl
@[simp] theorem State.modLive_core_yieldMark (s : State) (f : Live → Live) : (s.modLive f).core.yieldMark = s.core.yieldMark := rfl
@[simp] theorem State.modLive_core_request (s : State) (f : Live → Live) : (s.modLive f).core.request = s.core.request := rfl
@[simp] theorem State.modLive_core_cancelled (s : State) (f : Live → Live) : (s.modLive f).core.cancelled = s.core.cancelled := rfl
@[simp] theorem State.modLive_core_ending (s : State) (f : Live → Live) : (s.modLive f).core.ending = s.core.ending := rfl
@[simp] theorem State.modLive_core_releasing (s : State) (f : Live → Live) : (s.modLive f).core.releasing = s.core.releasing := rfl
@[simp] theorem State.modLive_core_chans (s : State) (f : Live → Live) : (s.modLive f).core.chans = s.core.chans := rfl
@[simp] theorem State.modLive_core_claims (s : State) (f : Live → Live) : (s.modLive f).core.claims = s.core.claims := rfl
@[simp] theorem State.modLive_core_gens (s : State) (f : Live → Live) : (s.modLive f).core.gens = s.core.gens := rfl
@[simp] theorem State.modLive_core_wings (s : State) (f : Live → Live) : (s.modLive f).core.wings = s.core.wings := rfl
@[simp] theorem State.modLive_core_attempts (s : State) (f : Live → Live) : (s.modLive f).core.attempts = s.core.attempts := rfl
@[simp] theorem State.modLive_core_stealsLeft (s : State) (f : Live → Live) : (s.modLive f).core.stealsLeft = s.core.stealsLeft := rfl
@[simp] theorem State.modLive_core_resting (s : State) (f : Live → Live) : (s.modLive f).core.resting = s.core.resting := rfl
@[simp] theorem State.modLive_core_ups (s : State) (f : Live → Live) : (s.modLive f).core.ups = s.core.ups := rfl
@[simp] theorem State.modLive_core_cor (s : State) (f : Live → Live) : (s.modLive f).core.cor = s.core.cor := rfl
@[simp] theorem State.modLive_core_lasting (s : State) (f : Live → Live) : (s.modLive f).core.lasting = s.core.lasting := rfl
@[simp] theorem State.modLive_core_pmc (s : State) (f : Live → Live) : (s.modLive f).core.pmc = s.core.pmc := rfl
@[simp] theorem State.modLive_core_l1 (s : State) (f : Live → Live) : (s.modLive f).core.l1 = s.core.l1 := rfl
@[simp] theorem State.modLive_core_tlb (s : State) (f : Live → Live) : (s.modLive f).core.tlb = s.core.tlb := rfl
@[simp] theorem State.modEng_cur (s : State) (f : EngState → EngState) : (s.modEng f).cur = s.cur := rfl
@[simp] theorem State.modEng_parked (s : State) (f : EngState → EngState) : (s.modEng f).parked = s.parked := rfl
@[simp] theorem State.modEng_agenda (s : State) (f : EngState → EngState) : (s.modEng f).agenda = s.agenda := rfl
@[simp] theorem State.modEng_turn (s : State) (f : EngState → EngState) : (s.modEng f).turn = s.turn := rfl
@[simp] theorem State.modEng_free (s : State) (f : EngState → EngState) : (s.modEng f).free = s.free := rfl
@[simp] theorem State.modEng_power (s : State) (f : EngState → EngState) : (s.modEng f).power = s.power := rfl
@[simp] theorem State.modEng_mem (s : State) (f : EngState → EngState) : (s.modEng f).mem = s.mem := rfl
@[simp] theorem State.modEng_secScale (s : State) (f : EngState → EngState) : (s.modEng f).secScale = s.secScale := rfl
@[simp] theorem State.modEng_poison (s : State) (f : EngState → EngState) : (s.modEng f).poison = s.poison := rfl
@[simp] theorem State.modEng_holds (s : State) (f : EngState → EngState) : (s.modEng f).holds = s.holds := rfl
@[simp] theorem State.modEng_peerGens (s : State) (f : EngState → EngState) : (s.modEng f).peerGens = s.peerGens := rfl
@[simp] theorem State.modEng_secKey (s : State) (f : EngState → EngState) : (s.modEng f).secKey = s.secKey := rfl
@[simp] theorem State.modEng_l2 (s : State) (f : EngState → EngState) : (s.modEng f).l2 = s.l2 := rfl
@[simp] theorem State.modEng_clusTlb (s : State) (f : EngState → EngState) : (s.modEng f).clusTlb = s.clusTlb := rfl
@[simp] theorem State.modEng_pcs (s : State) (f : EngState → EngState) : (s.modEng f).pcs = s.pcs := rfl
@[simp] theorem State.modEng_stackCor (s : State) (f : EngState → EngState) : (s.modEng f).stackCor = s.stackCor := rfl
@[simp] theorem State.modEng_ctxs (s : State) (f : EngState → EngState) : (s.modEng f).ctxs = s.ctxs := rfl
@[simp] theorem State.modEng_keys (s : State) (f : EngState → EngState) : (s.modEng f).keys = s.keys := rfl
@[simp] theorem State.modEng_coreMap (s : State) (f : EngState → EngState) : (s.modEng f).coreMap = s.coreMap := rfl
@[simp] theorem State.modEng_retired (s : State) (f : EngState → EngState) : (s.modEng f).retired = s.retired := rfl
@[simp] theorem State.modEng_replacing (s : State) (f : EngState → EngState) : (s.modEng f).replacing = s.replacing := rfl
@[simp] theorem State.modEng_classMin (s : State) (f : EngState → EngState) : (s.modEng f).classMin = s.classMin := rfl
@[simp] theorem State.modEng_rings (s : State) (f : EngState → EngState) : (s.modEng f).rings = s.rings := rfl
@[simp] theorem State.modEng_slots (s : State) (f : EngState → EngState) : (s.modEng f).slots = s.slots := rfl
@[simp] theorem State.modEng_bells (s : State) (f : EngState → EngState) : (s.modEng f).bells = s.bells := rfl
@[simp] theorem State.modEng_order (s : State) (f : EngState → EngState) : (s.modEng f).order = s.order := rfl
@[simp] theorem State.modEng_launches (s : State) (f : EngState → EngState) : (s.modEng f).launches = s.launches := rfl
@[simp] theorem State.modEng_nextLaunch (s : State) (f : EngState → EngState) : (s.modEng f).nextLaunch = s.nextLaunch := rfl
@[simp] theorem State.modEng_holding (s : State) (f : EngState → EngState) : (s.modEng f).holding = s.holding := rfl
@[simp] theorem State.modEng_pools (s : State) (f : EngState → EngState) : (s.modEng f).pools = s.pools := rfl
@[simp] theorem State.modEng_waiters (s : State) (f : EngState → EngState) : (s.modEng f).waiters = s.waiters := rfl
@[simp] theorem State.modEng_colGens (s : State) (f : EngState → EngState) : (s.modEng f).colGens = s.colGens := rfl
@[simp] theorem State.modEng_edie (s : State) (f : EngState → EngState) : (s.modEng f).edie = s.edie := rfl
@[simp] theorem State.modEng_carry (s : State) (f : EngState → EngState) : (s.modEng f).carry = s.carry := rfl
@[simp] theorem State.modEng_budget (s : State) (f : EngState → EngState) : (s.modEng f).budget = s.budget := rfl
@[simp] theorem State.modEng_host (s : State) (f : EngState → EngState) : (s.modEng f).host = s.host := rfl
@[simp] theorem State.modEng_links (s : State) (f : EngState → EngState) : (s.modEng f).links = s.links := rfl
@[simp] theorem State.modEng_fw (s : State) (f : EngState → EngState) : (s.modEng f).fw = s.fw := rfl
@[simp] theorem State.modEng_sm (s : State) (f : EngState → EngState) : (s.modEng f).sm = s.sm := rfl
@[simp] theorem State.modEng_notices (s : State) (f : EngState → EngState) : (s.modEng f).notices = s.notices := rfl
@[simp] theorem State.modEng_outbox (s : State) (f : EngState → EngState) : (s.modEng f).outbox = s.outbox := rfl
@[simp] theorem State.modEng_core_num (s : State) (f : EngState → EngState) : (s.modEng f).core.num = s.core.num := rfl
@[simp] theorem State.modEng_core_ring (s : State) (f : EngState → EngState) : (s.modEng f).core.ring = s.core.ring := rfl
@[simp] theorem State.modEng_core_act (s : State) (f : EngState → EngState) : (s.modEng f).core.act = s.core.act := rfl
@[simp] theorem State.modEng_core_scene (s : State) (f : EngState → EngState) : (s.modEng f).core.scene = s.core.scene := rfl
@[simp] theorem State.modEng_core_detlvl (s : State) (f : EngState → EngState) : (s.modEng f).core.detlvl = s.core.detlvl := rfl
@[simp] theorem State.modEng_core_actCur (s : State) (f : EngState → EngState) : (s.modEng f).core.actCur = s.core.actCur := rfl
@[simp] theorem State.modEng_core_actCeil (s : State) (f : EngState → EngState) : (s.modEng f).core.actCeil = s.core.actCeil := rfl
@[simp] theorem State.modEng_core_lvl (s : State) (f : EngState → EngState) : (s.modEng f).core.lvl = s.core.lvl := rfl
@[simp] theorem State.modEng_core_hen (s : State) (f : EngState → EngState) : (s.modEng f).core.hen = s.core.hen := rfl
@[simp] theorem State.modEng_core_halt (s : State) (f : EngState → EngState) : (s.modEng f).core.halt = s.core.halt := rfl
@[simp] theorem State.modEng_core_lastCue (s : State) (f : EngState → EngState) : (s.modEng f).core.lastCue = s.core.lastCue := rfl
@[simp] theorem State.modEng_core_yieldMark (s : State) (f : EngState → EngState) : (s.modEng f).core.yieldMark = s.core.yieldMark := rfl
@[simp] theorem State.modEng_core_request (s : State) (f : EngState → EngState) : (s.modEng f).core.request = s.core.request := rfl
@[simp] theorem State.modEng_core_cancelled (s : State) (f : EngState → EngState) : (s.modEng f).core.cancelled = s.core.cancelled := rfl
@[simp] theorem State.modEng_core_ending (s : State) (f : EngState → EngState) : (s.modEng f).core.ending = s.core.ending := rfl
@[simp] theorem State.modEng_core_releasing (s : State) (f : EngState → EngState) : (s.modEng f).core.releasing = s.core.releasing := rfl
@[simp] theorem State.modEng_core_chans (s : State) (f : EngState → EngState) : (s.modEng f).core.chans = s.core.chans := rfl
@[simp] theorem State.modEng_core_claims (s : State) (f : EngState → EngState) : (s.modEng f).core.claims = s.core.claims := rfl
@[simp] theorem State.modEng_core_gens (s : State) (f : EngState → EngState) : (s.modEng f).core.gens = s.core.gens := rfl
@[simp] theorem State.modEng_core_wings (s : State) (f : EngState → EngState) : (s.modEng f).core.wings = s.core.wings := rfl
@[simp] theorem State.modEng_core_attempts (s : State) (f : EngState → EngState) : (s.modEng f).core.attempts = s.core.attempts := rfl
@[simp] theorem State.modEng_core_stealsLeft (s : State) (f : EngState → EngState) : (s.modEng f).core.stealsLeft = s.core.stealsLeft := rfl
@[simp] theorem State.modEng_core_resting (s : State) (f : EngState → EngState) : (s.modEng f).core.resting = s.core.resting := rfl
@[simp] theorem State.modEng_core_ups (s : State) (f : EngState → EngState) : (s.modEng f).core.ups = s.core.ups := rfl
@[simp] theorem State.modEng_core_cor (s : State) (f : EngState → EngState) : (s.modEng f).core.cor = s.core.cor := rfl
@[simp] theorem State.modEng_core_lasting (s : State) (f : EngState → EngState) : (s.modEng f).core.lasting = s.core.lasting := rfl
@[simp] theorem State.modEng_core_pmc (s : State) (f : EngState → EngState) : (s.modEng f).core.pmc = s.core.pmc := rfl
@[simp] theorem State.modEng_core_l1 (s : State) (f : EngState → EngState) : (s.modEng f).core.l1 = s.core.l1 := rfl
@[simp] theorem State.modEng_core_tlb (s : State) (f : EngState → EngState) : (s.modEng f).core.tlb = s.core.tlb := rfl
@[simp] theorem State.setLive_live (s : State) (l : Live) : (s.setLive l).core.live = l := rfl
@[simp] theorem State.modLive_live (s : State) (f : Live → Live) : (s.modLive f).core.live = f s.core.live := rfl
@[simp] theorem State.modEng_live (s : State) (f : EngState → EngState) : (s.modEng f).core.live = s.core.live.modEng s.cur f := rfl

/-! ### Updates of a context, of a launch, of a counter -/

@[simp] theorem State.modCtx_core (s : State) (n : Nat) (f : Ctx → Ctx) : (s.modCtx n f).core = s.core := rfl
@[simp] theorem State.modCtx_cur (s : State) (n : Nat) (f : Ctx → Ctx) : (s.modCtx n f).cur = s.cur := rfl
@[simp] theorem State.modCtx_parked (s : State) (n : Nat) (f : Ctx → Ctx) : (s.modCtx n f).parked = s.parked := rfl
@[simp] theorem State.modCtx_agenda (s : State) (n : Nat) (f : Ctx → Ctx) : (s.modCtx n f).agenda = s.agenda := rfl
@[simp] theorem State.modCtx_turn (s : State) (n : Nat) (f : Ctx → Ctx) : (s.modCtx n f).turn = s.turn := rfl
@[simp] theorem State.modCtx_free (s : State) (n : Nat) (f : Ctx → Ctx) : (s.modCtx n f).free = s.free := rfl
@[simp] theorem State.modCtx_power (s : State) (n : Nat) (f : Ctx → Ctx) : (s.modCtx n f).power = s.power := rfl
@[simp] theorem State.modCtx_mem (s : State) (n : Nat) (f : Ctx → Ctx) : (s.modCtx n f).mem = s.mem := rfl
@[simp] theorem State.modCtx_secScale (s : State) (n : Nat) (f : Ctx → Ctx) : (s.modCtx n f).secScale = s.secScale := rfl
@[simp] theorem State.modCtx_poison (s : State) (n : Nat) (f : Ctx → Ctx) : (s.modCtx n f).poison = s.poison := rfl
@[simp] theorem State.modCtx_holds (s : State) (n : Nat) (f : Ctx → Ctx) : (s.modCtx n f).holds = s.holds := rfl
@[simp] theorem State.modCtx_peerGens (s : State) (n : Nat) (f : Ctx → Ctx) : (s.modCtx n f).peerGens = s.peerGens := rfl
@[simp] theorem State.modCtx_secKey (s : State) (n : Nat) (f : Ctx → Ctx) : (s.modCtx n f).secKey = s.secKey := rfl
@[simp] theorem State.modCtx_l2 (s : State) (n : Nat) (f : Ctx → Ctx) : (s.modCtx n f).l2 = s.l2 := rfl
@[simp] theorem State.modCtx_clusTlb (s : State) (n : Nat) (f : Ctx → Ctx) : (s.modCtx n f).clusTlb = s.clusTlb := rfl
@[simp] theorem State.modCtx_pcs (s : State) (n : Nat) (f : Ctx → Ctx) : (s.modCtx n f).pcs = s.pcs := rfl
@[simp] theorem State.modCtx_stackCor (s : State) (n : Nat) (f : Ctx → Ctx) : (s.modCtx n f).stackCor = s.stackCor := rfl
@[simp] theorem State.modCtx_keys (s : State) (n : Nat) (f : Ctx → Ctx) : (s.modCtx n f).keys = s.keys := rfl
@[simp] theorem State.modCtx_coreMap (s : State) (n : Nat) (f : Ctx → Ctx) : (s.modCtx n f).coreMap = s.coreMap := rfl
@[simp] theorem State.modCtx_retired (s : State) (n : Nat) (f : Ctx → Ctx) : (s.modCtx n f).retired = s.retired := rfl
@[simp] theorem State.modCtx_replacing (s : State) (n : Nat) (f : Ctx → Ctx) : (s.modCtx n f).replacing = s.replacing := rfl
@[simp] theorem State.modCtx_classMin (s : State) (n : Nat) (f : Ctx → Ctx) : (s.modCtx n f).classMin = s.classMin := rfl
@[simp] theorem State.modCtx_rings (s : State) (n : Nat) (f : Ctx → Ctx) : (s.modCtx n f).rings = s.rings := rfl
@[simp] theorem State.modCtx_slots (s : State) (n : Nat) (f : Ctx → Ctx) : (s.modCtx n f).slots = s.slots := rfl
@[simp] theorem State.modCtx_bells (s : State) (n : Nat) (f : Ctx → Ctx) : (s.modCtx n f).bells = s.bells := rfl
@[simp] theorem State.modCtx_order (s : State) (n : Nat) (f : Ctx → Ctx) : (s.modCtx n f).order = s.order := rfl
@[simp] theorem State.modCtx_launches (s : State) (n : Nat) (f : Ctx → Ctx) : (s.modCtx n f).launches = s.launches := rfl
@[simp] theorem State.modCtx_nextLaunch (s : State) (n : Nat) (f : Ctx → Ctx) : (s.modCtx n f).nextLaunch = s.nextLaunch := rfl
@[simp] theorem State.modCtx_holding (s : State) (n : Nat) (f : Ctx → Ctx) : (s.modCtx n f).holding = s.holding := rfl
@[simp] theorem State.modCtx_pools (s : State) (n : Nat) (f : Ctx → Ctx) : (s.modCtx n f).pools = s.pools := rfl
@[simp] theorem State.modCtx_waiters (s : State) (n : Nat) (f : Ctx → Ctx) : (s.modCtx n f).waiters = s.waiters := rfl
@[simp] theorem State.modCtx_colGens (s : State) (n : Nat) (f : Ctx → Ctx) : (s.modCtx n f).colGens = s.colGens := rfl
@[simp] theorem State.modCtx_edie (s : State) (n : Nat) (f : Ctx → Ctx) : (s.modCtx n f).edie = s.edie := rfl
@[simp] theorem State.modCtx_carry (s : State) (n : Nat) (f : Ctx → Ctx) : (s.modCtx n f).carry = s.carry := rfl
@[simp] theorem State.modCtx_budget (s : State) (n : Nat) (f : Ctx → Ctx) : (s.modCtx n f).budget = s.budget := rfl
@[simp] theorem State.modCtx_host (s : State) (n : Nat) (f : Ctx → Ctx) : (s.modCtx n f).host = s.host := rfl
@[simp] theorem State.modCtx_links (s : State) (n : Nat) (f : Ctx → Ctx) : (s.modCtx n f).links = s.links := rfl
@[simp] theorem State.modCtx_fw (s : State) (n : Nat) (f : Ctx → Ctx) : (s.modCtx n f).fw = s.fw := rfl
@[simp] theorem State.modCtx_sm (s : State) (n : Nat) (f : Ctx → Ctx) : (s.modCtx n f).sm = s.sm := rfl
@[simp] theorem State.modCtx_notices (s : State) (n : Nat) (f : Ctx → Ctx) : (s.modCtx n f).notices = s.notices := rfl
@[simp] theorem State.modCtx_outbox (s : State) (n : Nat) (f : Ctx → Ctx) : (s.modCtx n f).outbox = s.outbox := rfl
@[simp] theorem State.modLaunch_core (s : State) (n : Nat) (f : Launch → Launch) : (s.modLaunch n f).core = s.core := rfl
@[simp] theorem State.modLaunch_cur (s : State) (n : Nat) (f : Launch → Launch) : (s.modLaunch n f).cur = s.cur := rfl
@[simp] theorem State.modLaunch_parked (s : State) (n : Nat) (f : Launch → Launch) : (s.modLaunch n f).parked = s.parked := rfl
@[simp] theorem State.modLaunch_agenda (s : State) (n : Nat) (f : Launch → Launch) : (s.modLaunch n f).agenda = s.agenda := rfl
@[simp] theorem State.modLaunch_turn (s : State) (n : Nat) (f : Launch → Launch) : (s.modLaunch n f).turn = s.turn := rfl
@[simp] theorem State.modLaunch_free (s : State) (n : Nat) (f : Launch → Launch) : (s.modLaunch n f).free = s.free := rfl
@[simp] theorem State.modLaunch_power (s : State) (n : Nat) (f : Launch → Launch) : (s.modLaunch n f).power = s.power := rfl
@[simp] theorem State.modLaunch_mem (s : State) (n : Nat) (f : Launch → Launch) : (s.modLaunch n f).mem = s.mem := rfl
@[simp] theorem State.modLaunch_secScale (s : State) (n : Nat) (f : Launch → Launch) : (s.modLaunch n f).secScale = s.secScale := rfl
@[simp] theorem State.modLaunch_poison (s : State) (n : Nat) (f : Launch → Launch) : (s.modLaunch n f).poison = s.poison := rfl
@[simp] theorem State.modLaunch_holds (s : State) (n : Nat) (f : Launch → Launch) : (s.modLaunch n f).holds = s.holds := rfl
@[simp] theorem State.modLaunch_peerGens (s : State) (n : Nat) (f : Launch → Launch) : (s.modLaunch n f).peerGens = s.peerGens := rfl
@[simp] theorem State.modLaunch_secKey (s : State) (n : Nat) (f : Launch → Launch) : (s.modLaunch n f).secKey = s.secKey := rfl
@[simp] theorem State.modLaunch_l2 (s : State) (n : Nat) (f : Launch → Launch) : (s.modLaunch n f).l2 = s.l2 := rfl
@[simp] theorem State.modLaunch_clusTlb (s : State) (n : Nat) (f : Launch → Launch) : (s.modLaunch n f).clusTlb = s.clusTlb := rfl
@[simp] theorem State.modLaunch_pcs (s : State) (n : Nat) (f : Launch → Launch) : (s.modLaunch n f).pcs = s.pcs := rfl
@[simp] theorem State.modLaunch_stackCor (s : State) (n : Nat) (f : Launch → Launch) : (s.modLaunch n f).stackCor = s.stackCor := rfl
@[simp] theorem State.modLaunch_ctxs (s : State) (n : Nat) (f : Launch → Launch) : (s.modLaunch n f).ctxs = s.ctxs := rfl
@[simp] theorem State.modLaunch_keys (s : State) (n : Nat) (f : Launch → Launch) : (s.modLaunch n f).keys = s.keys := rfl
@[simp] theorem State.modLaunch_coreMap (s : State) (n : Nat) (f : Launch → Launch) : (s.modLaunch n f).coreMap = s.coreMap := rfl
@[simp] theorem State.modLaunch_retired (s : State) (n : Nat) (f : Launch → Launch) : (s.modLaunch n f).retired = s.retired := rfl
@[simp] theorem State.modLaunch_replacing (s : State) (n : Nat) (f : Launch → Launch) : (s.modLaunch n f).replacing = s.replacing := rfl
@[simp] theorem State.modLaunch_classMin (s : State) (n : Nat) (f : Launch → Launch) : (s.modLaunch n f).classMin = s.classMin := rfl
@[simp] theorem State.modLaunch_rings (s : State) (n : Nat) (f : Launch → Launch) : (s.modLaunch n f).rings = s.rings := rfl
@[simp] theorem State.modLaunch_slots (s : State) (n : Nat) (f : Launch → Launch) : (s.modLaunch n f).slots = s.slots := rfl
@[simp] theorem State.modLaunch_bells (s : State) (n : Nat) (f : Launch → Launch) : (s.modLaunch n f).bells = s.bells := rfl
@[simp] theorem State.modLaunch_order (s : State) (n : Nat) (f : Launch → Launch) : (s.modLaunch n f).order = s.order := rfl
@[simp] theorem State.modLaunch_nextLaunch (s : State) (n : Nat) (f : Launch → Launch) : (s.modLaunch n f).nextLaunch = s.nextLaunch := rfl
@[simp] theorem State.modLaunch_holding (s : State) (n : Nat) (f : Launch → Launch) : (s.modLaunch n f).holding = s.holding := rfl
@[simp] theorem State.modLaunch_pools (s : State) (n : Nat) (f : Launch → Launch) : (s.modLaunch n f).pools = s.pools := rfl
@[simp] theorem State.modLaunch_waiters (s : State) (n : Nat) (f : Launch → Launch) : (s.modLaunch n f).waiters = s.waiters := rfl
@[simp] theorem State.modLaunch_colGens (s : State) (n : Nat) (f : Launch → Launch) : (s.modLaunch n f).colGens = s.colGens := rfl
@[simp] theorem State.modLaunch_edie (s : State) (n : Nat) (f : Launch → Launch) : (s.modLaunch n f).edie = s.edie := rfl
@[simp] theorem State.modLaunch_carry (s : State) (n : Nat) (f : Launch → Launch) : (s.modLaunch n f).carry = s.carry := rfl
@[simp] theorem State.modLaunch_budget (s : State) (n : Nat) (f : Launch → Launch) : (s.modLaunch n f).budget = s.budget := rfl
@[simp] theorem State.modLaunch_host (s : State) (n : Nat) (f : Launch → Launch) : (s.modLaunch n f).host = s.host := rfl
@[simp] theorem State.modLaunch_links (s : State) (n : Nat) (f : Launch → Launch) : (s.modLaunch n f).links = s.links := rfl
@[simp] theorem State.modLaunch_fw (s : State) (n : Nat) (f : Launch → Launch) : (s.modLaunch n f).fw = s.fw := rfl
@[simp] theorem State.modLaunch_sm (s : State) (n : Nat) (f : Launch → Launch) : (s.modLaunch n f).sm = s.sm := rfl
@[simp] theorem State.modLaunch_notices (s : State) (n : Nat) (f : Launch → Launch) : (s.modLaunch n f).notices = s.notices := rfl
@[simp] theorem State.modLaunch_outbox (s : State) (n : Nat) (f : Launch → Launch) : (s.modLaunch n f).outbox = s.outbox := rfl
@[simp] theorem State.bump_cur (s : State) (i : Nat) : (s.bump i).cur = s.cur := rfl
@[simp] theorem State.bump_parked (s : State) (i : Nat) : (s.bump i).parked = s.parked := rfl
@[simp] theorem State.bump_agenda (s : State) (i : Nat) : (s.bump i).agenda = s.agenda := rfl
@[simp] theorem State.bump_turn (s : State) (i : Nat) : (s.bump i).turn = s.turn := rfl
@[simp] theorem State.bump_free (s : State) (i : Nat) : (s.bump i).free = s.free := rfl
@[simp] theorem State.bump_power (s : State) (i : Nat) : (s.bump i).power = s.power := rfl
@[simp] theorem State.bump_mem (s : State) (i : Nat) : (s.bump i).mem = s.mem := rfl
@[simp] theorem State.bump_secScale (s : State) (i : Nat) : (s.bump i).secScale = s.secScale := rfl
@[simp] theorem State.bump_poison (s : State) (i : Nat) : (s.bump i).poison = s.poison := rfl
@[simp] theorem State.bump_holds (s : State) (i : Nat) : (s.bump i).holds = s.holds := rfl
@[simp] theorem State.bump_peerGens (s : State) (i : Nat) : (s.bump i).peerGens = s.peerGens := rfl
@[simp] theorem State.bump_secKey (s : State) (i : Nat) : (s.bump i).secKey = s.secKey := rfl
@[simp] theorem State.bump_l2 (s : State) (i : Nat) : (s.bump i).l2 = s.l2 := rfl
@[simp] theorem State.bump_clusTlb (s : State) (i : Nat) : (s.bump i).clusTlb = s.clusTlb := rfl
@[simp] theorem State.bump_pcs (s : State) (i : Nat) : (s.bump i).pcs = s.pcs := rfl
@[simp] theorem State.bump_stackCor (s : State) (i : Nat) : (s.bump i).stackCor = s.stackCor := rfl
@[simp] theorem State.bump_ctxs (s : State) (i : Nat) : (s.bump i).ctxs = s.ctxs := rfl
@[simp] theorem State.bump_keys (s : State) (i : Nat) : (s.bump i).keys = s.keys := rfl
@[simp] theorem State.bump_coreMap (s : State) (i : Nat) : (s.bump i).coreMap = s.coreMap := rfl
@[simp] theorem State.bump_retired (s : State) (i : Nat) : (s.bump i).retired = s.retired := rfl
@[simp] theorem State.bump_replacing (s : State) (i : Nat) : (s.bump i).replacing = s.replacing := rfl
@[simp] theorem State.bump_classMin (s : State) (i : Nat) : (s.bump i).classMin = s.classMin := rfl
@[simp] theorem State.bump_rings (s : State) (i : Nat) : (s.bump i).rings = s.rings := rfl
@[simp] theorem State.bump_slots (s : State) (i : Nat) : (s.bump i).slots = s.slots := rfl
@[simp] theorem State.bump_bells (s : State) (i : Nat) : (s.bump i).bells = s.bells := rfl
@[simp] theorem State.bump_order (s : State) (i : Nat) : (s.bump i).order = s.order := rfl
@[simp] theorem State.bump_launches (s : State) (i : Nat) : (s.bump i).launches = s.launches := rfl
@[simp] theorem State.bump_nextLaunch (s : State) (i : Nat) : (s.bump i).nextLaunch = s.nextLaunch := rfl
@[simp] theorem State.bump_holding (s : State) (i : Nat) : (s.bump i).holding = s.holding := rfl
@[simp] theorem State.bump_pools (s : State) (i : Nat) : (s.bump i).pools = s.pools := rfl
@[simp] theorem State.bump_waiters (s : State) (i : Nat) : (s.bump i).waiters = s.waiters := rfl
@[simp] theorem State.bump_colGens (s : State) (i : Nat) : (s.bump i).colGens = s.colGens := rfl
@[simp] theorem State.bump_edie (s : State) (i : Nat) : (s.bump i).edie = s.edie := rfl
@[simp] theorem State.bump_carry (s : State) (i : Nat) : (s.bump i).carry = s.carry := rfl
@[simp] theorem State.bump_budget (s : State) (i : Nat) : (s.bump i).budget = s.budget := rfl
@[simp] theorem State.bump_host (s : State) (i : Nat) : (s.bump i).host = s.host := rfl
@[simp] theorem State.bump_links (s : State) (i : Nat) : (s.bump i).links = s.links := rfl
@[simp] theorem State.bump_fw (s : State) (i : Nat) : (s.bump i).fw = s.fw := rfl
@[simp] theorem State.bump_sm (s : State) (i : Nat) : (s.bump i).sm = s.sm := rfl
@[simp] theorem State.bump_notices (s : State) (i : Nat) : (s.bump i).notices = s.notices := rfl
@[simp] theorem State.bump_outbox (s : State) (i : Nat) : (s.bump i).outbox = s.outbox := rfl
@[simp] theorem State.bump_core_num (s : State) (i : Nat) : (s.bump i).core.num = s.core.num := rfl
@[simp] theorem State.bump_core_live (s : State) (i : Nat) : (s.bump i).core.live = s.core.live := rfl
@[simp] theorem State.bump_core_ring (s : State) (i : Nat) : (s.bump i).core.ring = s.core.ring := rfl
@[simp] theorem State.bump_core_act (s : State) (i : Nat) : (s.bump i).core.act = s.core.act := rfl
@[simp] theorem State.bump_core_scene (s : State) (i : Nat) : (s.bump i).core.scene = s.core.scene := rfl
@[simp] theorem State.bump_core_detlvl (s : State) (i : Nat) : (s.bump i).core.detlvl = s.core.detlvl := rfl
@[simp] theorem State.bump_core_actCur (s : State) (i : Nat) : (s.bump i).core.actCur = s.core.actCur := rfl
@[simp] theorem State.bump_core_actCeil (s : State) (i : Nat) : (s.bump i).core.actCeil = s.core.actCeil := rfl
@[simp] theorem State.bump_core_lvl (s : State) (i : Nat) : (s.bump i).core.lvl = s.core.lvl := rfl
@[simp] theorem State.bump_core_hen (s : State) (i : Nat) : (s.bump i).core.hen = s.core.hen := rfl
@[simp] theorem State.bump_core_halt (s : State) (i : Nat) : (s.bump i).core.halt = s.core.halt := rfl
@[simp] theorem State.bump_core_lastCue (s : State) (i : Nat) : (s.bump i).core.lastCue = s.core.lastCue := rfl
@[simp] theorem State.bump_core_yieldMark (s : State) (i : Nat) : (s.bump i).core.yieldMark = s.core.yieldMark := rfl
@[simp] theorem State.bump_core_request (s : State) (i : Nat) : (s.bump i).core.request = s.core.request := rfl
@[simp] theorem State.bump_core_cancelled (s : State) (i : Nat) : (s.bump i).core.cancelled = s.core.cancelled := rfl
@[simp] theorem State.bump_core_ending (s : State) (i : Nat) : (s.bump i).core.ending = s.core.ending := rfl
@[simp] theorem State.bump_core_releasing (s : State) (i : Nat) : (s.bump i).core.releasing = s.core.releasing := rfl
@[simp] theorem State.bump_core_chans (s : State) (i : Nat) : (s.bump i).core.chans = s.core.chans := rfl
@[simp] theorem State.bump_core_claims (s : State) (i : Nat) : (s.bump i).core.claims = s.core.claims := rfl
@[simp] theorem State.bump_core_gens (s : State) (i : Nat) : (s.bump i).core.gens = s.core.gens := rfl
@[simp] theorem State.bump_core_wings (s : State) (i : Nat) : (s.bump i).core.wings = s.core.wings := rfl
@[simp] theorem State.bump_core_attempts (s : State) (i : Nat) : (s.bump i).core.attempts = s.core.attempts := rfl
@[simp] theorem State.bump_core_stealsLeft (s : State) (i : Nat) : (s.bump i).core.stealsLeft = s.core.stealsLeft := rfl
@[simp] theorem State.bump_core_resting (s : State) (i : Nat) : (s.bump i).core.resting = s.core.resting := rfl
@[simp] theorem State.bump_core_ups (s : State) (i : Nat) : (s.bump i).core.ups = s.core.ups := rfl
@[simp] theorem State.bump_core_cor (s : State) (i : Nat) : (s.bump i).core.cor = s.core.cor := rfl
@[simp] theorem State.bump_core_lasting (s : State) (i : Nat) : (s.bump i).core.lasting = s.core.lasting := rfl
@[simp] theorem State.bump_core_l1 (s : State) (i : Nat) : (s.bump i).core.l1 = s.core.l1 := rfl
@[simp] theorem State.bump_core_tlb (s : State) (i : Nat) : (s.bump i).core.tlb = s.core.tlb := rfl

/-! ### Updates of an engine within the live state -/

@[simp] theorem Live.setEng_a (l : Live) (e : Engine) (y : EngState) : (l.setEng e y).a = l.a := by cases e <;> rfl
@[simp] theorem Live.modEng_a (l : Live) (e : Engine) (f : EngState → EngState) : (l.modEng e f).a = l.a := by cases e <;> rfl
@[simp] theorem Live.setEng_v (l : Live) (e : Engine) (y : EngState) : (l.setEng e y).v = l.v := by cases e <;> rfl
@[simp] theorem Live.modEng_v (l : Live) (e : Engine) (f : EngState → EngState) : (l.modEng e f).v = l.v := by cases e <;> rfl
@[simp] theorem Live.setEng_p (l : Live) (e : Engine) (y : EngState) : (l.setEng e y).p = l.p := by cases e <;> rfl
@[simp] theorem Live.modEng_p (l : Live) (e : Engine) (f : EngState → EngState) : (l.modEng e f).p = l.p := by cases e <;> rfl
@[simp] theorem Live.setEng_lq (l : Live) (e : Engine) (y : EngState) : (l.setEng e y).lq = l.lq := by cases e <;> rfl
@[simp] theorem Live.modEng_lq (l : Live) (e : Engine) (f : EngState → EngState) : (l.modEng e f).lq = l.lq := by cases e <;> rfl
@[simp] theorem Live.setEng_sq (l : Live) (e : Engine) (y : EngState) : (l.setEng e y).sq = l.sq := by cases e <;> rfl
@[simp] theorem Live.modEng_sq (l : Live) (e : Engine) (f : EngState → EngState) : (l.modEng e f).sq = l.sq := by cases e <;> rfl
@[simp] theorem Live.setEng_tok (l : Live) (e : Engine) (y : EngState) : (l.setEng e y).tok = l.tok := by cases e <;> rfl
@[simp] theorem Live.modEng_tok (l : Live) (e : Engine) (f : EngState → EngState) : (l.modEng e f).tok = l.tok := by cases e <;> rfl
@[simp] theorem Live.setEng_told (l : Live) (e : Engine) (y : EngState) : (l.setEng e y).told = l.told := by cases e <;> rfl
@[simp] theorem Live.modEng_told (l : Live) (e : Engine) (f : EngState → EngState) : (l.modEng e f).told = l.told := by cases e <;> rfl
@[simp] theorem Live.setEng_tiles (l : Live) (e : Engine) (y : EngState) : (l.setEng e y).tiles = l.tiles := by cases e <;> rfl
@[simp] theorem Live.modEng_tiles (l : Live) (e : Engine) (f : EngState → EngState) : (l.modEng e f).tiles = l.tiles := by cases e <;> rfl
@[simp] theorem Live.setEng_accst (l : Live) (e : Engine) (y : EngState) : (l.setEng e y).accst = l.accst := by cases e <;> rfl
@[simp] theorem Live.modEng_accst (l : Live) (e : Engine) (f : EngState → EngState) : (l.modEng e f).accst = l.accst := by cases e <;> rfl
@[simp] theorem Live.setEng_winCur (l : Live) (e : Engine) (y : EngState) : (l.setEng e y).winCur = l.winCur := by cases e <;> rfl
@[simp] theorem Live.modEng_winCur (l : Live) (e : Engine) (f : EngState → EngState) : (l.modEng e f).winCur = l.winCur := by cases e <;> rfl
@[simp] theorem Live.setEng_winCv (l : Live) (e : Engine) (y : EngState) : (l.setEng e y).winCv = l.winCv := by cases e <;> rfl
@[simp] theorem Live.modEng_winCv (l : Live) (e : Engine) (f : EngState → EngState) : (l.modEng e f).winCv = l.winCv := by cases e <;> rfl
@[simp] theorem Live.setEng_winCnt (l : Live) (e : Engine) (y : EngState) : (l.setEng e y).winCnt = l.winCnt := by cases e <;> rfl
@[simp] theorem Live.modEng_winCnt (l : Live) (e : Engine) (f : EngState → EngState) : (l.modEng e f).winCnt = l.winCnt := by cases e <;> rfl
@[simp] theorem Live.setEng_winOvf (l : Live) (e : Engine) (y : EngState) : (l.setEng e y).winOvf = l.winOvf := by cases e <;> rfl
@[simp] theorem Live.modEng_winOvf (l : Live) (e : Engine) (f : EngState → EngState) : (l.modEng e f).winOvf = l.winOvf := by cases e <;> rfl
@[simp] theorem Live.setEng_winSet (l : Live) (e : Engine) (y : EngState) : (l.setEng e y).winSet = l.winSet := by cases e <;> rfl
@[simp] theorem Live.modEng_winSet (l : Live) (e : Engine) (f : EngState → EngState) : (l.modEng e f).winSet = l.winSet := by cases e <;> rfl
@[simp] theorem Live.setEng_window (l : Live) (e : Engine) (y : EngState) : (l.setEng e y).window = l.window := by cases e <;> rfl
@[simp] theorem Live.modEng_window (l : Live) (e : Engine) (f : EngState → EngState) : (l.modEng e f).window = l.window := by cases e <;> rfl
@[simp] theorem Live.setEng_retained (l : Live) (e : Engine) (y : EngState) : (l.setEng e y).retained = l.retained := by cases e <;> rfl
@[simp] theorem Live.modEng_retained (l : Live) (e : Engine) (f : EngState → EngState) : (l.modEng e f).retained = l.retained := by cases e <;> rfl
@[simp] theorem Live.setEng_winBad (l : Live) (e : Engine) (y : EngState) : (l.setEng e y).winBad = l.winBad := by cases e <;> rfl
@[simp] theorem Live.modEng_winBad (l : Live) (e : Engine) (f : EngState → EngState) : (l.modEng e f).winBad = l.winBad := by cases e <;> rfl
@[simp] theorem Live.setEng_winMacros (l : Live) (e : Engine) (y : EngState) : (l.setEng e y).winMacros = l.winMacros := by cases e <;> rfl
@[simp] theorem Live.modEng_winMacros (l : Live) (e : Engine) (f : EngState → EngState) : (l.modEng e f).winMacros = l.winMacros := by cases e <;> rfl
@[simp] theorem Live.setEng_rowbuf (l : Live) (e : Engine) (y : EngState) : (l.setEng e y).rowbuf = l.rowbuf := by cases e <;> rfl
@[simp] theorem Live.modEng_rowbuf (l : Live) (e : Engine) (f : EngState → EngState) : (l.modEng e f).rowbuf = l.rowbuf := by cases e <;> rfl
@[simp] theorem Live.setEng_pass (l : Live) (e : Engine) (y : EngState) : (l.setEng e y).pass = l.pass := by cases e <;> rfl
@[simp] theorem Live.modEng_pass (l : Live) (e : Engine) (f : EngState → EngState) : (l.modEng e f).pass = l.pass := by cases e <;> rfl
@[simp] theorem Live.setEng_drains (l : Live) (e : Engine) (y : EngState) : (l.setEng e y).drains = l.drains := by cases e <;> rfl
@[simp] theorem Live.modEng_drains (l : Live) (e : Engine) (f : EngState → EngState) : (l.modEng e f).drains = l.drains := by cases e <;> rfl
@[simp] theorem Live.setEng_spDrains (l : Live) (e : Engine) (y : EngState) : (l.setEng e y).spDrains = l.spDrains := by cases e <;> rfl
@[simp] theorem Live.modEng_spDrains (l : Live) (e : Engine) (f : EngState → EngState) : (l.modEng e f).spDrains = l.spDrains := by cases e <;> rfl
@[simp] theorem Live.setEng_scratch (l : Live) (e : Engine) (y : EngState) : (l.setEng e y).scratch = l.scratch := by cases e <;> rfl
@[simp] theorem Live.modEng_scratch (l : Live) (e : Engine) (f : EngState → EngState) : (l.modEng e f).scratch = l.scratch := by cases e <;> rfl
@[simp] theorem Live.setEng_marks (l : Live) (e : Engine) (y : EngState) : (l.setEng e y).marks = l.marks := by cases e <;> rfl
@[simp] theorem Live.modEng_marks (l : Live) (e : Engine) (f : EngState → EngState) : (l.modEng e f).marks = l.marks := by cases e <;> rfl
@[simp] theorem Live.setEng_scales (l : Live) (e : Engine) (y : EngState) : (l.setEng e y).scales = l.scales := by cases e <;> rfl
@[simp] theorem Live.modEng_scales (l : Live) (e : Engine) (f : EngState → EngState) : (l.modEng e f).scales = l.scales := by cases e <;> rfl
@[simp] theorem Live.setEng_alm (l : Live) (e : Engine) (y : EngState) : (l.setEng e y).alm = l.alm := by cases e <;> rfl
@[simp] theorem Live.modEng_alm (l : Live) (e : Engine) (f : EngState → EngState) : (l.modEng e f).alm = l.alm := by cases e <;> rfl
@[simp] theorem Live.setEng_fpflags (l : Live) (e : Engine) (y : EngState) : (l.setEng e y).fpflags = l.fpflags := by cases e <;> rfl
@[simp] theorem Live.modEng_fpflags (l : Live) (e : Engine) (f : EngState → EngState) : (l.modEng e f).fpflags = l.fpflags := by cases e <;> rfl
@[simp] theorem Live.setEng_lerr (l : Live) (e : Engine) (y : EngState) : (l.setEng e y).lerr = l.lerr := by cases e <;> rfl
@[simp] theorem Live.modEng_lerr (l : Live) (e : Engine) (f : EngState → EngState) : (l.modEng e f).lerr = l.lerr := by cases e <;> rfl
@[simp] theorem Live.setEng_slow (l : Live) (e : Engine) (y : EngState) : (l.setEng e y).slow = l.slow := by cases e <;> rfl
@[simp] theorem Live.modEng_slow (l : Live) (e : Engine) (f : EngState → EngState) : (l.modEng e f).slow = l.slow := by cases e <;> rfl
@[simp] theorem Live.setEng_bankFifo (l : Live) (e : Engine) (y : EngState) : (l.setEng e y).bankFifo = l.bankFifo := by cases e <;> rfl
@[simp] theorem Live.modEng_bankFifo (l : Live) (e : Engine) (f : EngState → EngState) : (l.modEng e f).bankFifo = l.bankFifo := by cases e <;> rfl
@[simp] theorem Live.setEng_bankLeft (l : Live) (e : Engine) (y : EngState) : (l.setEng e y).bankLeft = l.bankLeft := by cases e <;> rfl
@[simp] theorem Live.modEng_bankLeft (l : Live) (e : Engine) (f : EngState → EngState) : (l.modEng e f).bankLeft = l.bankLeft := by cases e <;> rfl
@[simp] theorem Live.setEng_acc (l : Live) (e : Engine) (y : EngState) : (l.setEng e y).acc = l.acc := by cases e <;> rfl
@[simp] theorem Live.modEng_acc (l : Live) (e : Engine) (f : EngState → EngState) : (l.modEng e f).acc = l.acc := by cases e <;> rfl
@[simp] theorem Live.setEng_pendReg (l : Live) (e : Engine) (y : EngState) : (l.setEng e y).pendReg = l.pendReg := by cases e <;> rfl
@[simp] theorem Live.modEng_pendReg (l : Live) (e : Engine) (f : EngState → EngState) : (l.modEng e f).pendReg = l.pendReg := by cases e <;> rfl
@[simp] theorem Live.setEng_record (l : Live) (e : Engine) (y : EngState) : (l.setEng e y).record = l.record := by cases e <;> rfl
@[simp] theorem Live.modEng_record (l : Live) (e : Engine) (f : EngState → EngState) : (l.modEng e f).record = l.record := by cases e <;> rfl
@[simp] theorem Live.setEng_seq (l : Live) (e : Engine) (y : EngState) : (l.setEng e y).seq = l.seq := by cases e <;> rfl
@[simp] theorem Live.modEng_seq (l : Live) (e : Engine) (f : EngState → EngState) : (l.modEng e f).seq = l.seq := by cases e <;> rfl
@[simp] theorem Live.setEng_eng (l : Live) (e d : Engine) (y : EngState) : (l.setEng e y).eng d = if d = e then y else l.eng d := by cases e <;> cases d <;> rfl
@[simp] theorem Live.modEng_eng (l : Live) (e d : Engine) (f : EngState → EngState) : (l.modEng e f).eng d = if d = e then f (l.eng d) else l.eng d := by cases e <;> cases d <;> rfl

/-! ### Updates of queues and tokens -/

@[simp] theorem Live.setTokens_ea (l : Live) (i n : Nat) : (l.setTokens i n).ea = l.ea := rfl
@[simp] theorem Live.setTokens_ex (l : Live) (i n : Nat) : (l.setTokens i n).ex = l.ex := rfl
@[simp] theorem Live.setTokens_em (l : Live) (i n : Nat) : (l.setTokens i n).em = l.em := rfl
@[simp] theorem Live.setTokens_eb (l : Live) (i n : Nat) : (l.setTokens i n).eb = l.eb := rfl
@[simp] theorem Live.setTokens_a (l : Live) (i n : Nat) : (l.setTokens i n).a = l.a := rfl
@[simp] theorem Live.setTokens_v (l : Live) (i n : Nat) : (l.setTokens i n).v = l.v := rfl
@[simp] theorem Live.setTokens_p (l : Live) (i n : Nat) : (l.setTokens i n).p = l.p := rfl
@[simp] theorem Live.setTokens_lq (l : Live) (i n : Nat) : (l.setTokens i n).lq = l.lq := rfl
@[simp] theorem Live.setTokens_sq (l : Live) (i n : Nat) : (l.setTokens i n).sq = l.sq := rfl
@[simp] theorem Live.setTokens_told (l : Live) (i n : Nat) : (l.setTokens i n).told = l.told := rfl
@[simp] theorem Live.setTokens_tiles (l : Live) (i n : Nat) : (l.setTokens i n).tiles = l.tiles := rfl
@[simp] theorem Live.setTokens_accst (l : Live) (i n : Nat) : (l.setTokens i n).accst = l.accst := rfl
@[simp] theorem Live.setTokens_winCur (l : Live) (i n : Nat) : (l.setTokens i n).winCur = l.winCur := rfl
@[simp] theorem Live.setTokens_winCv (l : Live) (i n : Nat) : (l.setTokens i n).winCv = l.winCv := rfl
@[simp] theorem Live.setTokens_winCnt (l : Live) (i n : Nat) : (l.setTokens i n).winCnt = l.winCnt := rfl
@[simp] theorem Live.setTokens_winOvf (l : Live) (i n : Nat) : (l.setTokens i n).winOvf = l.winOvf := rfl
@[simp] theorem Live.setTokens_winSet (l : Live) (i n : Nat) : (l.setTokens i n).winSet = l.winSet := rfl
@[simp] theorem Live.setTokens_window (l : Live) (i n : Nat) : (l.setTokens i n).window = l.window := rfl
@[simp] theorem Live.setTokens_retained (l : Live) (i n : Nat) : (l.setTokens i n).retained = l.retained := rfl
@[simp] theorem Live.setTokens_winBad (l : Live) (i n : Nat) : (l.setTokens i n).winBad = l.winBad := rfl
@[simp] theorem Live.setTokens_winMacros (l : Live) (i n : Nat) : (l.setTokens i n).winMacros = l.winMacros := rfl
@[simp] theorem Live.setTokens_rowbuf (l : Live) (i n : Nat) : (l.setTokens i n).rowbuf = l.rowbuf := rfl
@[simp] theorem Live.setTokens_pass (l : Live) (i n : Nat) : (l.setTokens i n).pass = l.pass := rfl
@[simp] theorem Live.setTokens_drains (l : Live) (i n : Nat) : (l.setTokens i n).drains = l.drains := rfl
@[simp] theorem Live.setTokens_spDrains (l : Live) (i n : Nat) : (l.setTokens i n).spDrains = l.spDrains := rfl
@[simp] theorem Live.setTokens_scratch (l : Live) (i n : Nat) : (l.setTokens i n).scratch = l.scratch := rfl
@[simp] theorem Live.setTokens_marks (l : Live) (i n : Nat) : (l.setTokens i n).marks = l.marks := rfl
@[simp] theorem Live.setTokens_scales (l : Live) (i n : Nat) : (l.setTokens i n).scales = l.scales := rfl
@[simp] theorem Live.setTokens_alm (l : Live) (i n : Nat) : (l.setTokens i n).alm = l.alm := rfl
@[simp] theorem Live.setTokens_fpflags (l : Live) (i n : Nat) : (l.setTokens i n).fpflags = l.fpflags := rfl
@[simp] theorem Live.setTokens_lerr (l : Live) (i n : Nat) : (l.setTokens i n).lerr = l.lerr := rfl
@[simp] theorem Live.setTokens_slow (l : Live) (i n : Nat) : (l.setTokens i n).slow = l.slow := rfl
@[simp] theorem Live.setTokens_bankFifo (l : Live) (i n : Nat) : (l.setTokens i n).bankFifo = l.bankFifo := rfl
@[simp] theorem Live.setTokens_bankLeft (l : Live) (i n : Nat) : (l.setTokens i n).bankLeft = l.bankLeft := rfl
@[simp] theorem Live.setTokens_acc (l : Live) (i n : Nat) : (l.setTokens i n).acc = l.acc := rfl
@[simp] theorem Live.setTokens_pendReg (l : Live) (i n : Nat) : (l.setTokens i n).pendReg = l.pendReg := rfl
@[simp] theorem Live.setTokens_record (l : Live) (i n : Nat) : (l.setTokens i n).record = l.record := rfl
@[simp] theorem Live.setTokens_seq (l : Live) (i n : Nat) : (l.setTokens i n).seq = l.seq := rfl
@[simp] theorem Live.setTokens_eng (l : Live) (i n : Nat) (e0 : Engine) : (l.setTokens i n).eng e0 = l.eng e0 := by cases e0 <;> rfl
@[simp] theorem Live.setTold_ea (l : Live) (t : Told) : (l.setTold t).ea = l.ea := rfl
@[simp] theorem Live.setTold_ex (l : Live) (t : Told) : (l.setTold t).ex = l.ex := rfl
@[simp] theorem Live.setTold_em (l : Live) (t : Told) : (l.setTold t).em = l.em := rfl
@[simp] theorem Live.setTold_eb (l : Live) (t : Told) : (l.setTold t).eb = l.eb := rfl
@[simp] theorem Live.setTold_a (l : Live) (t : Told) : (l.setTold t).a = l.a := rfl
@[simp] theorem Live.setTold_v (l : Live) (t : Told) : (l.setTold t).v = l.v := rfl
@[simp] theorem Live.setTold_p (l : Live) (t : Told) : (l.setTold t).p = l.p := rfl
@[simp] theorem Live.setTold_lq (l : Live) (t : Told) : (l.setTold t).lq = l.lq := rfl
@[simp] theorem Live.setTold_sq (l : Live) (t : Told) : (l.setTold t).sq = l.sq := rfl
@[simp] theorem Live.setTold_tok (l : Live) (t : Told) : (l.setTold t).tok = l.tok := rfl
@[simp] theorem Live.setTold_tiles (l : Live) (t : Told) : (l.setTold t).tiles = l.tiles := rfl
@[simp] theorem Live.setTold_accst (l : Live) (t : Told) : (l.setTold t).accst = l.accst := rfl
@[simp] theorem Live.setTold_winCur (l : Live) (t : Told) : (l.setTold t).winCur = l.winCur := rfl
@[simp] theorem Live.setTold_winCv (l : Live) (t : Told) : (l.setTold t).winCv = l.winCv := rfl
@[simp] theorem Live.setTold_winCnt (l : Live) (t : Told) : (l.setTold t).winCnt = l.winCnt := rfl
@[simp] theorem Live.setTold_winOvf (l : Live) (t : Told) : (l.setTold t).winOvf = l.winOvf := rfl
@[simp] theorem Live.setTold_winSet (l : Live) (t : Told) : (l.setTold t).winSet = l.winSet := rfl
@[simp] theorem Live.setTold_window (l : Live) (t : Told) : (l.setTold t).window = l.window := rfl
@[simp] theorem Live.setTold_retained (l : Live) (t : Told) : (l.setTold t).retained = l.retained := rfl
@[simp] theorem Live.setTold_winBad (l : Live) (t : Told) : (l.setTold t).winBad = l.winBad := rfl
@[simp] theorem Live.setTold_winMacros (l : Live) (t : Told) : (l.setTold t).winMacros = l.winMacros := rfl
@[simp] theorem Live.setTold_rowbuf (l : Live) (t : Told) : (l.setTold t).rowbuf = l.rowbuf := rfl
@[simp] theorem Live.setTold_pass (l : Live) (t : Told) : (l.setTold t).pass = l.pass := rfl
@[simp] theorem Live.setTold_drains (l : Live) (t : Told) : (l.setTold t).drains = l.drains := rfl
@[simp] theorem Live.setTold_spDrains (l : Live) (t : Told) : (l.setTold t).spDrains = l.spDrains := rfl
@[simp] theorem Live.setTold_scratch (l : Live) (t : Told) : (l.setTold t).scratch = l.scratch := rfl
@[simp] theorem Live.setTold_marks (l : Live) (t : Told) : (l.setTold t).marks = l.marks := rfl
@[simp] theorem Live.setTold_scales (l : Live) (t : Told) : (l.setTold t).scales = l.scales := rfl
@[simp] theorem Live.setTold_alm (l : Live) (t : Told) : (l.setTold t).alm = l.alm := rfl
@[simp] theorem Live.setTold_fpflags (l : Live) (t : Told) : (l.setTold t).fpflags = l.fpflags := rfl
@[simp] theorem Live.setTold_lerr (l : Live) (t : Told) : (l.setTold t).lerr = l.lerr := rfl
@[simp] theorem Live.setTold_slow (l : Live) (t : Told) : (l.setTold t).slow = l.slow := rfl
@[simp] theorem Live.setTold_bankFifo (l : Live) (t : Told) : (l.setTold t).bankFifo = l.bankFifo := rfl
@[simp] theorem Live.setTold_bankLeft (l : Live) (t : Told) : (l.setTold t).bankLeft = l.bankLeft := rfl
@[simp] theorem Live.setTold_acc (l : Live) (t : Told) : (l.setTold t).acc = l.acc := rfl
@[simp] theorem Live.setTold_pendReg (l : Live) (t : Told) : (l.setTold t).pendReg = l.pendReg := rfl
@[simp] theorem Live.setTold_record (l : Live) (t : Told) : (l.setTold t).record = l.record := rfl
@[simp] theorem Live.setTold_seq (l : Live) (t : Told) : (l.setTold t).seq = l.seq := rfl
@[simp] theorem Live.setTold_eng (l : Live) (t : Told) (e0 : Engine) : (l.setTold t).eng e0 = l.eng e0 := by cases e0 <;> rfl
@[simp] theorem Live.learn_ea (l : Live) (e : Engine) (ns : List Nat) : (l.learn e ns).ea = l.ea := rfl
@[simp] theorem Live.learn_ex (l : Live) (e : Engine) (ns : List Nat) : (l.learn e ns).ex = l.ex := rfl
@[simp] theorem Live.learn_em (l : Live) (e : Engine) (ns : List Nat) : (l.learn e ns).em = l.em := rfl
@[simp] theorem Live.learn_eb (l : Live) (e : Engine) (ns : List Nat) : (l.learn e ns).eb = l.eb := rfl
@[simp] theorem Live.learn_a (l : Live) (e : Engine) (ns : List Nat) : (l.learn e ns).a = l.a := rfl
@[simp] theorem Live.learn_v (l : Live) (e : Engine) (ns : List Nat) : (l.learn e ns).v = l.v := rfl
@[simp] theorem Live.learn_p (l : Live) (e : Engine) (ns : List Nat) : (l.learn e ns).p = l.p := rfl
@[simp] theorem Live.learn_lq (l : Live) (e : Engine) (ns : List Nat) : (l.learn e ns).lq = l.lq := rfl
@[simp] theorem Live.learn_sq (l : Live) (e : Engine) (ns : List Nat) : (l.learn e ns).sq = l.sq := rfl
@[simp] theorem Live.learn_tok (l : Live) (e : Engine) (ns : List Nat) : (l.learn e ns).tok = l.tok := rfl
@[simp] theorem Live.learn_tiles (l : Live) (e : Engine) (ns : List Nat) : (l.learn e ns).tiles = l.tiles := rfl
@[simp] theorem Live.learn_accst (l : Live) (e : Engine) (ns : List Nat) : (l.learn e ns).accst = l.accst := rfl
@[simp] theorem Live.learn_winCur (l : Live) (e : Engine) (ns : List Nat) : (l.learn e ns).winCur = l.winCur := rfl
@[simp] theorem Live.learn_winCv (l : Live) (e : Engine) (ns : List Nat) : (l.learn e ns).winCv = l.winCv := rfl
@[simp] theorem Live.learn_winCnt (l : Live) (e : Engine) (ns : List Nat) : (l.learn e ns).winCnt = l.winCnt := rfl
@[simp] theorem Live.learn_winOvf (l : Live) (e : Engine) (ns : List Nat) : (l.learn e ns).winOvf = l.winOvf := rfl
@[simp] theorem Live.learn_winSet (l : Live) (e : Engine) (ns : List Nat) : (l.learn e ns).winSet = l.winSet := rfl
@[simp] theorem Live.learn_window (l : Live) (e : Engine) (ns : List Nat) : (l.learn e ns).window = l.window := rfl
@[simp] theorem Live.learn_retained (l : Live) (e : Engine) (ns : List Nat) : (l.learn e ns).retained = l.retained := rfl
@[simp] theorem Live.learn_winBad (l : Live) (e : Engine) (ns : List Nat) : (l.learn e ns).winBad = l.winBad := rfl
@[simp] theorem Live.learn_winMacros (l : Live) (e : Engine) (ns : List Nat) : (l.learn e ns).winMacros = l.winMacros := rfl
@[simp] theorem Live.learn_rowbuf (l : Live) (e : Engine) (ns : List Nat) : (l.learn e ns).rowbuf = l.rowbuf := rfl
@[simp] theorem Live.learn_pass (l : Live) (e : Engine) (ns : List Nat) : (l.learn e ns).pass = l.pass := rfl
@[simp] theorem Live.learn_drains (l : Live) (e : Engine) (ns : List Nat) : (l.learn e ns).drains = l.drains := rfl
@[simp] theorem Live.learn_spDrains (l : Live) (e : Engine) (ns : List Nat) : (l.learn e ns).spDrains = l.spDrains := rfl
@[simp] theorem Live.learn_scratch (l : Live) (e : Engine) (ns : List Nat) : (l.learn e ns).scratch = l.scratch := rfl
@[simp] theorem Live.learn_marks (l : Live) (e : Engine) (ns : List Nat) : (l.learn e ns).marks = l.marks := rfl
@[simp] theorem Live.learn_scales (l : Live) (e : Engine) (ns : List Nat) : (l.learn e ns).scales = l.scales := rfl
@[simp] theorem Live.learn_alm (l : Live) (e : Engine) (ns : List Nat) : (l.learn e ns).alm = l.alm := rfl
@[simp] theorem Live.learn_fpflags (l : Live) (e : Engine) (ns : List Nat) : (l.learn e ns).fpflags = l.fpflags := rfl
@[simp] theorem Live.learn_lerr (l : Live) (e : Engine) (ns : List Nat) : (l.learn e ns).lerr = l.lerr := rfl
@[simp] theorem Live.learn_slow (l : Live) (e : Engine) (ns : List Nat) : (l.learn e ns).slow = l.slow := rfl
@[simp] theorem Live.learn_bankFifo (l : Live) (e : Engine) (ns : List Nat) : (l.learn e ns).bankFifo = l.bankFifo := rfl
@[simp] theorem Live.learn_bankLeft (l : Live) (e : Engine) (ns : List Nat) : (l.learn e ns).bankLeft = l.bankLeft := rfl
@[simp] theorem Live.learn_acc (l : Live) (e : Engine) (ns : List Nat) : (l.learn e ns).acc = l.acc := rfl
@[simp] theorem Live.learn_pendReg (l : Live) (e : Engine) (ns : List Nat) : (l.learn e ns).pendReg = l.pendReg := rfl
@[simp] theorem Live.learn_record (l : Live) (e : Engine) (ns : List Nat) : (l.learn e ns).record = l.record := rfl
@[simp] theorem Live.learn_seq (l : Live) (e : Engine) (ns : List Nat) : (l.learn e ns).seq = l.seq := rfl
@[simp] theorem Live.learn_eng (l : Live) (e : Engine) (ns : List Nat) (e0 : Engine) : (l.learn e ns).eng e0 = l.eng e0 := by cases e0 <;> rfl
@[simp] theorem Live.hear_ea (l : Live) (e : Engine) (i n : Nat) : (l.hear e i n).ea = l.ea := rfl
@[simp] theorem Live.hear_ex (l : Live) (e : Engine) (i n : Nat) : (l.hear e i n).ex = l.ex := rfl
@[simp] theorem Live.hear_em (l : Live) (e : Engine) (i n : Nat) : (l.hear e i n).em = l.em := rfl
@[simp] theorem Live.hear_eb (l : Live) (e : Engine) (i n : Nat) : (l.hear e i n).eb = l.eb := rfl
@[simp] theorem Live.hear_a (l : Live) (e : Engine) (i n : Nat) : (l.hear e i n).a = l.a := rfl
@[simp] theorem Live.hear_v (l : Live) (e : Engine) (i n : Nat) : (l.hear e i n).v = l.v := rfl
@[simp] theorem Live.hear_p (l : Live) (e : Engine) (i n : Nat) : (l.hear e i n).p = l.p := rfl
@[simp] theorem Live.hear_lq (l : Live) (e : Engine) (i n : Nat) : (l.hear e i n).lq = l.lq := rfl
@[simp] theorem Live.hear_sq (l : Live) (e : Engine) (i n : Nat) : (l.hear e i n).sq = l.sq := rfl
@[simp] theorem Live.hear_tok (l : Live) (e : Engine) (i n : Nat) : (l.hear e i n).tok = l.tok := rfl
@[simp] theorem Live.hear_tiles (l : Live) (e : Engine) (i n : Nat) : (l.hear e i n).tiles = l.tiles := rfl
@[simp] theorem Live.hear_accst (l : Live) (e : Engine) (i n : Nat) : (l.hear e i n).accst = l.accst := rfl
@[simp] theorem Live.hear_winCur (l : Live) (e : Engine) (i n : Nat) : (l.hear e i n).winCur = l.winCur := rfl
@[simp] theorem Live.hear_winCv (l : Live) (e : Engine) (i n : Nat) : (l.hear e i n).winCv = l.winCv := rfl
@[simp] theorem Live.hear_winCnt (l : Live) (e : Engine) (i n : Nat) : (l.hear e i n).winCnt = l.winCnt := rfl
@[simp] theorem Live.hear_winOvf (l : Live) (e : Engine) (i n : Nat) : (l.hear e i n).winOvf = l.winOvf := rfl
@[simp] theorem Live.hear_winSet (l : Live) (e : Engine) (i n : Nat) : (l.hear e i n).winSet = l.winSet := rfl
@[simp] theorem Live.hear_window (l : Live) (e : Engine) (i n : Nat) : (l.hear e i n).window = l.window := rfl
@[simp] theorem Live.hear_retained (l : Live) (e : Engine) (i n : Nat) : (l.hear e i n).retained = l.retained := rfl
@[simp] theorem Live.hear_winBad (l : Live) (e : Engine) (i n : Nat) : (l.hear e i n).winBad = l.winBad := rfl
@[simp] theorem Live.hear_winMacros (l : Live) (e : Engine) (i n : Nat) : (l.hear e i n).winMacros = l.winMacros := rfl
@[simp] theorem Live.hear_rowbuf (l : Live) (e : Engine) (i n : Nat) : (l.hear e i n).rowbuf = l.rowbuf := rfl
@[simp] theorem Live.hear_pass (l : Live) (e : Engine) (i n : Nat) : (l.hear e i n).pass = l.pass := rfl
@[simp] theorem Live.hear_drains (l : Live) (e : Engine) (i n : Nat) : (l.hear e i n).drains = l.drains := rfl
@[simp] theorem Live.hear_spDrains (l : Live) (e : Engine) (i n : Nat) : (l.hear e i n).spDrains = l.spDrains := rfl
@[simp] theorem Live.hear_scratch (l : Live) (e : Engine) (i n : Nat) : (l.hear e i n).scratch = l.scratch := rfl
@[simp] theorem Live.hear_marks (l : Live) (e : Engine) (i n : Nat) : (l.hear e i n).marks = l.marks := rfl
@[simp] theorem Live.hear_scales (l : Live) (e : Engine) (i n : Nat) : (l.hear e i n).scales = l.scales := rfl
@[simp] theorem Live.hear_alm (l : Live) (e : Engine) (i n : Nat) : (l.hear e i n).alm = l.alm := rfl
@[simp] theorem Live.hear_fpflags (l : Live) (e : Engine) (i n : Nat) : (l.hear e i n).fpflags = l.fpflags := rfl
@[simp] theorem Live.hear_lerr (l : Live) (e : Engine) (i n : Nat) : (l.hear e i n).lerr = l.lerr := rfl
@[simp] theorem Live.hear_slow (l : Live) (e : Engine) (i n : Nat) : (l.hear e i n).slow = l.slow := rfl
@[simp] theorem Live.hear_bankFifo (l : Live) (e : Engine) (i n : Nat) : (l.hear e i n).bankFifo = l.bankFifo := rfl
@[simp] theorem Live.hear_bankLeft (l : Live) (e : Engine) (i n : Nat) : (l.hear e i n).bankLeft = l.bankLeft := rfl
@[simp] theorem Live.hear_acc (l : Live) (e : Engine) (i n : Nat) : (l.hear e i n).acc = l.acc := rfl
@[simp] theorem Live.hear_pendReg (l : Live) (e : Engine) (i n : Nat) : (l.hear e i n).pendReg = l.pendReg := rfl
@[simp] theorem Live.hear_record (l : Live) (e : Engine) (i n : Nat) : (l.hear e i n).record = l.record := rfl
@[simp] theorem Live.hear_seq (l : Live) (e : Engine) (i n : Nat) : (l.hear e i n).seq = l.seq := rfl
@[simp] theorem Live.hear_eng (l : Live) (e : Engine) (i n : Nat) (e0 : Engine) : (l.hear e i n).eng e0 = l.eng e0 := by cases e0 <;> rfl
@[simp] theorem Live.setLoadQ_ea (l : Live) (q : Nat) (es : List LEntry) : (l.setLoadQ q es).ea = l.ea := rfl
@[simp] theorem Live.setLoadQ_ex (l : Live) (q : Nat) (es : List LEntry) : (l.setLoadQ q es).ex = l.ex := rfl
@[simp] theorem Live.setLoadQ_em (l : Live) (q : Nat) (es : List LEntry) : (l.setLoadQ q es).em = l.em := rfl
@[simp] theorem Live.setLoadQ_eb (l : Live) (q : Nat) (es : List LEntry) : (l.setLoadQ q es).eb = l.eb := rfl
@[simp] theorem Live.setLoadQ_a (l : Live) (q : Nat) (es : List LEntry) : (l.setLoadQ q es).a = l.a := rfl
@[simp] theorem Live.setLoadQ_v (l : Live) (q : Nat) (es : List LEntry) : (l.setLoadQ q es).v = l.v := rfl
@[simp] theorem Live.setLoadQ_p (l : Live) (q : Nat) (es : List LEntry) : (l.setLoadQ q es).p = l.p := rfl
@[simp] theorem Live.setLoadQ_sq (l : Live) (q : Nat) (es : List LEntry) : (l.setLoadQ q es).sq = l.sq := rfl
@[simp] theorem Live.setLoadQ_tok (l : Live) (q : Nat) (es : List LEntry) : (l.setLoadQ q es).tok = l.tok := rfl
@[simp] theorem Live.setLoadQ_told (l : Live) (q : Nat) (es : List LEntry) : (l.setLoadQ q es).told = l.told := rfl
@[simp] theorem Live.setLoadQ_tiles (l : Live) (q : Nat) (es : List LEntry) : (l.setLoadQ q es).tiles = l.tiles := rfl
@[simp] theorem Live.setLoadQ_accst (l : Live) (q : Nat) (es : List LEntry) : (l.setLoadQ q es).accst = l.accst := rfl
@[simp] theorem Live.setLoadQ_winCur (l : Live) (q : Nat) (es : List LEntry) : (l.setLoadQ q es).winCur = l.winCur := rfl
@[simp] theorem Live.setLoadQ_winCv (l : Live) (q : Nat) (es : List LEntry) : (l.setLoadQ q es).winCv = l.winCv := rfl
@[simp] theorem Live.setLoadQ_winCnt (l : Live) (q : Nat) (es : List LEntry) : (l.setLoadQ q es).winCnt = l.winCnt := rfl
@[simp] theorem Live.setLoadQ_winOvf (l : Live) (q : Nat) (es : List LEntry) : (l.setLoadQ q es).winOvf = l.winOvf := rfl
@[simp] theorem Live.setLoadQ_winSet (l : Live) (q : Nat) (es : List LEntry) : (l.setLoadQ q es).winSet = l.winSet := rfl
@[simp] theorem Live.setLoadQ_window (l : Live) (q : Nat) (es : List LEntry) : (l.setLoadQ q es).window = l.window := rfl
@[simp] theorem Live.setLoadQ_retained (l : Live) (q : Nat) (es : List LEntry) : (l.setLoadQ q es).retained = l.retained := rfl
@[simp] theorem Live.setLoadQ_winBad (l : Live) (q : Nat) (es : List LEntry) : (l.setLoadQ q es).winBad = l.winBad := rfl
@[simp] theorem Live.setLoadQ_winMacros (l : Live) (q : Nat) (es : List LEntry) : (l.setLoadQ q es).winMacros = l.winMacros := rfl
@[simp] theorem Live.setLoadQ_rowbuf (l : Live) (q : Nat) (es : List LEntry) : (l.setLoadQ q es).rowbuf = l.rowbuf := rfl
@[simp] theorem Live.setLoadQ_pass (l : Live) (q : Nat) (es : List LEntry) : (l.setLoadQ q es).pass = l.pass := rfl
@[simp] theorem Live.setLoadQ_drains (l : Live) (q : Nat) (es : List LEntry) : (l.setLoadQ q es).drains = l.drains := rfl
@[simp] theorem Live.setLoadQ_spDrains (l : Live) (q : Nat) (es : List LEntry) : (l.setLoadQ q es).spDrains = l.spDrains := rfl
@[simp] theorem Live.setLoadQ_scratch (l : Live) (q : Nat) (es : List LEntry) : (l.setLoadQ q es).scratch = l.scratch := rfl
@[simp] theorem Live.setLoadQ_marks (l : Live) (q : Nat) (es : List LEntry) : (l.setLoadQ q es).marks = l.marks := rfl
@[simp] theorem Live.setLoadQ_scales (l : Live) (q : Nat) (es : List LEntry) : (l.setLoadQ q es).scales = l.scales := rfl
@[simp] theorem Live.setLoadQ_alm (l : Live) (q : Nat) (es : List LEntry) : (l.setLoadQ q es).alm = l.alm := rfl
@[simp] theorem Live.setLoadQ_fpflags (l : Live) (q : Nat) (es : List LEntry) : (l.setLoadQ q es).fpflags = l.fpflags := rfl
@[simp] theorem Live.setLoadQ_lerr (l : Live) (q : Nat) (es : List LEntry) : (l.setLoadQ q es).lerr = l.lerr := rfl
@[simp] theorem Live.setLoadQ_slow (l : Live) (q : Nat) (es : List LEntry) : (l.setLoadQ q es).slow = l.slow := rfl
@[simp] theorem Live.setLoadQ_bankFifo (l : Live) (q : Nat) (es : List LEntry) : (l.setLoadQ q es).bankFifo = l.bankFifo := rfl
@[simp] theorem Live.setLoadQ_bankLeft (l : Live) (q : Nat) (es : List LEntry) : (l.setLoadQ q es).bankLeft = l.bankLeft := rfl
@[simp] theorem Live.setLoadQ_acc (l : Live) (q : Nat) (es : List LEntry) : (l.setLoadQ q es).acc = l.acc := rfl
@[simp] theorem Live.setLoadQ_pendReg (l : Live) (q : Nat) (es : List LEntry) : (l.setLoadQ q es).pendReg = l.pendReg := rfl
@[simp] theorem Live.setLoadQ_record (l : Live) (q : Nat) (es : List LEntry) : (l.setLoadQ q es).record = l.record := rfl
@[simp] theorem Live.setLoadQ_seq (l : Live) (q : Nat) (es : List LEntry) : (l.setLoadQ q es).seq = l.seq := rfl
@[simp] theorem Live.setLoadQ_eng (l : Live) (q : Nat) (es : List LEntry) (e0 : Engine) : (l.setLoadQ q es).eng e0 = l.eng e0 := by cases e0 <;> rfl
@[simp] theorem Live.setStoreQ_ea (l : Live) (q : Nat) (es : List VReg) : (l.setStoreQ q es).ea = l.ea := rfl
@[simp] theorem Live.setStoreQ_ex (l : Live) (q : Nat) (es : List VReg) : (l.setStoreQ q es).ex = l.ex := rfl
@[simp] theorem Live.setStoreQ_em (l : Live) (q : Nat) (es : List VReg) : (l.setStoreQ q es).em = l.em := rfl
@[simp] theorem Live.setStoreQ_eb (l : Live) (q : Nat) (es : List VReg) : (l.setStoreQ q es).eb = l.eb := rfl
@[simp] theorem Live.setStoreQ_a (l : Live) (q : Nat) (es : List VReg) : (l.setStoreQ q es).a = l.a := rfl
@[simp] theorem Live.setStoreQ_v (l : Live) (q : Nat) (es : List VReg) : (l.setStoreQ q es).v = l.v := rfl
@[simp] theorem Live.setStoreQ_p (l : Live) (q : Nat) (es : List VReg) : (l.setStoreQ q es).p = l.p := rfl
@[simp] theorem Live.setStoreQ_lq (l : Live) (q : Nat) (es : List VReg) : (l.setStoreQ q es).lq = l.lq := rfl
@[simp] theorem Live.setStoreQ_tok (l : Live) (q : Nat) (es : List VReg) : (l.setStoreQ q es).tok = l.tok := rfl
@[simp] theorem Live.setStoreQ_told (l : Live) (q : Nat) (es : List VReg) : (l.setStoreQ q es).told = l.told := rfl
@[simp] theorem Live.setStoreQ_tiles (l : Live) (q : Nat) (es : List VReg) : (l.setStoreQ q es).tiles = l.tiles := rfl
@[simp] theorem Live.setStoreQ_accst (l : Live) (q : Nat) (es : List VReg) : (l.setStoreQ q es).accst = l.accst := rfl
@[simp] theorem Live.setStoreQ_winCur (l : Live) (q : Nat) (es : List VReg) : (l.setStoreQ q es).winCur = l.winCur := rfl
@[simp] theorem Live.setStoreQ_winCv (l : Live) (q : Nat) (es : List VReg) : (l.setStoreQ q es).winCv = l.winCv := rfl
@[simp] theorem Live.setStoreQ_winCnt (l : Live) (q : Nat) (es : List VReg) : (l.setStoreQ q es).winCnt = l.winCnt := rfl
@[simp] theorem Live.setStoreQ_winOvf (l : Live) (q : Nat) (es : List VReg) : (l.setStoreQ q es).winOvf = l.winOvf := rfl
@[simp] theorem Live.setStoreQ_winSet (l : Live) (q : Nat) (es : List VReg) : (l.setStoreQ q es).winSet = l.winSet := rfl
@[simp] theorem Live.setStoreQ_window (l : Live) (q : Nat) (es : List VReg) : (l.setStoreQ q es).window = l.window := rfl
@[simp] theorem Live.setStoreQ_retained (l : Live) (q : Nat) (es : List VReg) : (l.setStoreQ q es).retained = l.retained := rfl
@[simp] theorem Live.setStoreQ_winBad (l : Live) (q : Nat) (es : List VReg) : (l.setStoreQ q es).winBad = l.winBad := rfl
@[simp] theorem Live.setStoreQ_winMacros (l : Live) (q : Nat) (es : List VReg) : (l.setStoreQ q es).winMacros = l.winMacros := rfl
@[simp] theorem Live.setStoreQ_rowbuf (l : Live) (q : Nat) (es : List VReg) : (l.setStoreQ q es).rowbuf = l.rowbuf := rfl
@[simp] theorem Live.setStoreQ_pass (l : Live) (q : Nat) (es : List VReg) : (l.setStoreQ q es).pass = l.pass := rfl
@[simp] theorem Live.setStoreQ_drains (l : Live) (q : Nat) (es : List VReg) : (l.setStoreQ q es).drains = l.drains := rfl
@[simp] theorem Live.setStoreQ_spDrains (l : Live) (q : Nat) (es : List VReg) : (l.setStoreQ q es).spDrains = l.spDrains := rfl
@[simp] theorem Live.setStoreQ_scratch (l : Live) (q : Nat) (es : List VReg) : (l.setStoreQ q es).scratch = l.scratch := rfl
@[simp] theorem Live.setStoreQ_marks (l : Live) (q : Nat) (es : List VReg) : (l.setStoreQ q es).marks = l.marks := rfl
@[simp] theorem Live.setStoreQ_scales (l : Live) (q : Nat) (es : List VReg) : (l.setStoreQ q es).scales = l.scales := rfl
@[simp] theorem Live.setStoreQ_alm (l : Live) (q : Nat) (es : List VReg) : (l.setStoreQ q es).alm = l.alm := rfl
@[simp] theorem Live.setStoreQ_fpflags (l : Live) (q : Nat) (es : List VReg) : (l.setStoreQ q es).fpflags = l.fpflags := rfl
@[simp] theorem Live.setStoreQ_lerr (l : Live) (q : Nat) (es : List VReg) : (l.setStoreQ q es).lerr = l.lerr := rfl
@[simp] theorem Live.setStoreQ_slow (l : Live) (q : Nat) (es : List VReg) : (l.setStoreQ q es).slow = l.slow := rfl
@[simp] theorem Live.setStoreQ_bankFifo (l : Live) (q : Nat) (es : List VReg) : (l.setStoreQ q es).bankFifo = l.bankFifo := rfl
@[simp] theorem Live.setStoreQ_bankLeft (l : Live) (q : Nat) (es : List VReg) : (l.setStoreQ q es).bankLeft = l.bankLeft := rfl
@[simp] theorem Live.setStoreQ_acc (l : Live) (q : Nat) (es : List VReg) : (l.setStoreQ q es).acc = l.acc := rfl
@[simp] theorem Live.setStoreQ_pendReg (l : Live) (q : Nat) (es : List VReg) : (l.setStoreQ q es).pendReg = l.pendReg := rfl
@[simp] theorem Live.setStoreQ_record (l : Live) (q : Nat) (es : List VReg) : (l.setStoreQ q es).record = l.record := rfl
@[simp] theorem Live.setStoreQ_seq (l : Live) (q : Nat) (es : List VReg) : (l.setStoreQ q es).seq = l.seq := rfl
@[simp] theorem Live.setStoreQ_eng (l : Live) (q : Nat) (es : List VReg) (e0 : Engine) : (l.setStoreQ q es).eng e0 = l.eng e0 := by cases e0 <;> rfl

/-! ### Updates of registers of an engine -/

@[simp] theorem EngState.setS_c (x : EngState) (n : BitVec 5) (v : Word) : (x.setS n v).c = x.c := by unfold EngState.setS; split <;> rfl
@[simp] theorem EngState.setS_bt (x : EngState) (n : BitVec 5) (v : Word) : (x.setS n v).bt = x.bt := by unfold EngState.setS; split <;> rfl
@[simp] theorem EngState.setS_lc (x : EngState) (n : BitVec 5) (v : Word) : (x.setS n v).lc = x.lc := by unfold EngState.setS; split <;> rfl
@[simp] theorem EngState.setS_loopSeq (x : EngState) (n : BitVec 5) (v : Word) : (x.setS n v).loopSeq = x.loopSeq := by unfold EngState.setS; split <;> rfl
@[simp] theorem EngState.setS_pc (x : EngState) (n : BitVec 5) (v : Word) : (x.setS n v).pc = x.pc := by unfold EngState.setS; split <;> rfl
@[simp] theorem EngState.setS_slots (x : EngState) (n : BitVec 5) (v : Word) : (x.setS n v).slots = x.slots := by unfold EngState.setS; split <;> rfl
@[simp] theorem EngState.setS_redir (x : EngState) (n : BitVec 5) (v : Word) : (x.setS n v).redir = x.redir := by unfold EngState.setS; split <;> rfl
@[simp] theorem EngState.setS_backEdge (x : EngState) (n : BitVec 5) (v : Word) : (x.setS n v).backEdge = x.backEdge := by unfold EngState.setS; split <;> rfl
@[simp] theorem EngState.setS_started (x : EngState) (n : BitVec 5) (v : Word) : (x.setS n v).started = x.started := by unfold EngState.setS; split <;> rfl
@[simp] theorem EngState.setS_phase (x : EngState) (n : BitVec 5) (v : Word) : (x.setS n v).phase = x.phase := by unfold EngState.setS; split <;> rfl
@[simp] theorem EngState.setS_phaseSeq (x : EngState) (n : BitVec 5) (v : Word) : (x.setS n v).phaseSeq = x.phaseSeq := by unfold EngState.setS; split <;> rfl
@[simp] theorem EngState.setS_alment (x : EngState) (n : BitVec 5) (v : Word) : (x.setS n v).alment = x.alment := by unfold EngState.setS; split <;> rfl
@[simp] theorem EngState.setS_wait (x : EngState) (n : BitVec 5) (v : Word) : (x.setS n v).wait = x.wait := by unfold EngState.setS; split <;> rfl
@[simp] theorem EngState.setS_rend (x : EngState) (n : BitVec 5) (v : Word) : (x.setS n v).rend = x.rend := by unfold EngState.setS; split <;> rfl
@[simp] theorem EngState.setS_retire (x : EngState) (n : BitVec 5) (v : Word) : (x.setS n v).retire = x.retire := by unfold EngState.setS; split <;> rfl
@[simp] theorem EngState.setS_cause (x : EngState) (n : BitVec 5) (v : Word) : (x.setS n v).cause = x.cause := by unfold EngState.setS; split <;> rfl
@[simp] theorem EngState.setS_epc (x : EngState) (n : BitVec 5) (v : Word) : (x.setS n v).epc = x.epc := by unfold EngState.setS; split <;> rfl
@[simp] theorem EngState.setS_tval0 (x : EngState) (n : BitVec 5) (v : Word) : (x.setS n v).tval0 = x.tval0 := by unfold EngState.setS; split <;> rfl
@[simp] theorem EngState.setS_tval1 (x : EngState) (n : BitVec 5) (v : Word) : (x.setS n v).tval1 = x.tval1 := by unfold EngState.setS; split <;> rfl
@[simp] theorem EngState.setS_tvec (x : EngState) (n : BitVec 5) (v : Word) : (x.setS n v).tvec = x.tvec := by unfold EngState.setS; split <;> rfl
@[simp] theorem EngState.setS_ridx (x : EngState) (n : BitVec 5) (v : Word) : (x.setS n v).ridx = x.ridx := by unfold EngState.setS; split <;> rfl
@[simp] theorem EngState.setS_almlvl (x : EngState) (n : BitVec 5) (v : Word) : (x.setS n v).almlvl = x.almlvl := by unfold EngState.setS; split <;> rfl
@[simp] theorem EngState.setS_imem (x : EngState) (n : BitVec 5) (v : Word) : (x.setS n v).imem = x.imem := by unfold EngState.setS; split <;> rfl
@[simp] theorem EngState.setS_tags (x : EngState) (n : BitVec 5) (v : Word) : (x.setS n v).tags = x.tags := by unfold EngState.setS; split <;> rfl
@[simp] theorem EngState.setS_issued (x : EngState) (n : BitVec 5) (v : Word) : (x.setS n v).issued = x.issued := by unfold EngState.setS; split <;> rfl
@[simp] theorem EngState.setS_claims (x : EngState) (n : BitVec 5) (v : Word) : (x.setS n v).claims = x.claims := by unfold EngState.setS; split <;> rfl
@[simp] theorem EngState.setS_stopped (x : EngState) (n : BitVec 5) (v : Word) : (x.setS n v).stopped = x.stopped := by unfold EngState.setS; split <;> rfl
@[simp] theorem EngState.setFlag_s (x : EngState) (n : BitVec 2) (v : Bool) : (x.setFlag n v).s = x.s := rfl
@[simp] theorem EngState.setFlag_bt (x : EngState) (n : BitVec 2) (v : Bool) : (x.setFlag n v).bt = x.bt := rfl
@[simp] theorem EngState.setFlag_lc (x : EngState) (n : BitVec 2) (v : Bool) : (x.setFlag n v).lc = x.lc := rfl
@[simp] theorem EngState.setFlag_loopSeq (x : EngState) (n : BitVec 2) (v : Bool) : (x.setFlag n v).loopSeq = x.loopSeq := rfl
@[simp] theorem EngState.setFlag_pc (x : EngState) (n : BitVec 2) (v : Bool) : (x.setFlag n v).pc = x.pc := rfl
@[simp] theorem EngState.setFlag_slots (x : EngState) (n : BitVec 2) (v : Bool) : (x.setFlag n v).slots = x.slots := rfl
@[simp] theorem EngState.setFlag_redir (x : EngState) (n : BitVec 2) (v : Bool) : (x.setFlag n v).redir = x.redir := rfl
@[simp] theorem EngState.setFlag_backEdge (x : EngState) (n : BitVec 2) (v : Bool) : (x.setFlag n v).backEdge = x.backEdge := rfl
@[simp] theorem EngState.setFlag_started (x : EngState) (n : BitVec 2) (v : Bool) : (x.setFlag n v).started = x.started := rfl
@[simp] theorem EngState.setFlag_phase (x : EngState) (n : BitVec 2) (v : Bool) : (x.setFlag n v).phase = x.phase := rfl
@[simp] theorem EngState.setFlag_phaseSeq (x : EngState) (n : BitVec 2) (v : Bool) : (x.setFlag n v).phaseSeq = x.phaseSeq := rfl
@[simp] theorem EngState.setFlag_alment (x : EngState) (n : BitVec 2) (v : Bool) : (x.setFlag n v).alment = x.alment := rfl
@[simp] theorem EngState.setFlag_wait (x : EngState) (n : BitVec 2) (v : Bool) : (x.setFlag n v).wait = x.wait := rfl
@[simp] theorem EngState.setFlag_rend (x : EngState) (n : BitVec 2) (v : Bool) : (x.setFlag n v).rend = x.rend := rfl
@[simp] theorem EngState.setFlag_retire (x : EngState) (n : BitVec 2) (v : Bool) : (x.setFlag n v).retire = x.retire := rfl
@[simp] theorem EngState.setFlag_cause (x : EngState) (n : BitVec 2) (v : Bool) : (x.setFlag n v).cause = x.cause := rfl
@[simp] theorem EngState.setFlag_epc (x : EngState) (n : BitVec 2) (v : Bool) : (x.setFlag n v).epc = x.epc := rfl
@[simp] theorem EngState.setFlag_tval0 (x : EngState) (n : BitVec 2) (v : Bool) : (x.setFlag n v).tval0 = x.tval0 := rfl
@[simp] theorem EngState.setFlag_tval1 (x : EngState) (n : BitVec 2) (v : Bool) : (x.setFlag n v).tval1 = x.tval1 := rfl
@[simp] theorem EngState.setFlag_tvec (x : EngState) (n : BitVec 2) (v : Bool) : (x.setFlag n v).tvec = x.tvec := rfl
@[simp] theorem EngState.setFlag_ridx (x : EngState) (n : BitVec 2) (v : Bool) : (x.setFlag n v).ridx = x.ridx := rfl
@[simp] theorem EngState.setFlag_almlvl (x : EngState) (n : BitVec 2) (v : Bool) : (x.setFlag n v).almlvl = x.almlvl := rfl
@[simp] theorem EngState.setFlag_imem (x : EngState) (n : BitVec 2) (v : Bool) : (x.setFlag n v).imem = x.imem := rfl
@[simp] theorem EngState.setFlag_tags (x : EngState) (n : BitVec 2) (v : Bool) : (x.setFlag n v).tags = x.tags := rfl
@[simp] theorem EngState.setFlag_issued (x : EngState) (n : BitVec 2) (v : Bool) : (x.setFlag n v).issued = x.issued := rfl
@[simp] theorem EngState.setFlag_claims (x : EngState) (n : BitVec 2) (v : Bool) : (x.setFlag n v).claims = x.claims := rfl
@[simp] theorem EngState.setFlag_stopped (x : EngState) (n : BitVec 2) (v : Bool) : (x.setFlag n v).stopped = x.stopped := rfl
@[simp] theorem EngState.setTarget_s (x : EngState) (n : BitVec 2) (v : BitVec 13) : (x.setTarget n v).s = x.s := rfl
@[simp] theorem EngState.setTarget_c (x : EngState) (n : BitVec 2) (v : BitVec 13) : (x.setTarget n v).c = x.c := rfl
@[simp] theorem EngState.setTarget_lc (x : EngState) (n : BitVec 2) (v : BitVec 13) : (x.setTarget n v).lc = x.lc := rfl
@[simp] theorem EngState.setTarget_loopSeq (x : EngState) (n : BitVec 2) (v : BitVec 13) : (x.setTarget n v).loopSeq = x.loopSeq := rfl
@[simp] theorem EngState.setTarget_pc (x : EngState) (n : BitVec 2) (v : BitVec 13) : (x.setTarget n v).pc = x.pc := rfl
@[simp] theorem EngState.setTarget_slots (x : EngState) (n : BitVec 2) (v : BitVec 13) : (x.setTarget n v).slots = x.slots := rfl
@[simp] theorem EngState.setTarget_redir (x : EngState) (n : BitVec 2) (v : BitVec 13) : (x.setTarget n v).redir = x.redir := rfl
@[simp] theorem EngState.setTarget_backEdge (x : EngState) (n : BitVec 2) (v : BitVec 13) : (x.setTarget n v).backEdge = x.backEdge := rfl
@[simp] theorem EngState.setTarget_started (x : EngState) (n : BitVec 2) (v : BitVec 13) : (x.setTarget n v).started = x.started := rfl
@[simp] theorem EngState.setTarget_phase (x : EngState) (n : BitVec 2) (v : BitVec 13) : (x.setTarget n v).phase = x.phase := rfl
@[simp] theorem EngState.setTarget_phaseSeq (x : EngState) (n : BitVec 2) (v : BitVec 13) : (x.setTarget n v).phaseSeq = x.phaseSeq := rfl
@[simp] theorem EngState.setTarget_alment (x : EngState) (n : BitVec 2) (v : BitVec 13) : (x.setTarget n v).alment = x.alment := rfl
@[simp] theorem EngState.setTarget_wait (x : EngState) (n : BitVec 2) (v : BitVec 13) : (x.setTarget n v).wait = x.wait := rfl
@[simp] theorem EngState.setTarget_rend (x : EngState) (n : BitVec 2) (v : BitVec 13) : (x.setTarget n v).rend = x.rend := rfl
@[simp] theorem EngState.setTarget_retire (x : EngState) (n : BitVec 2) (v : BitVec 13) : (x.setTarget n v).retire = x.retire := rfl
@[simp] theorem EngState.setTarget_cause (x : EngState) (n : BitVec 2) (v : BitVec 13) : (x.setTarget n v).cause = x.cause := rfl
@[simp] theorem EngState.setTarget_epc (x : EngState) (n : BitVec 2) (v : BitVec 13) : (x.setTarget n v).epc = x.epc := rfl
@[simp] theorem EngState.setTarget_tval0 (x : EngState) (n : BitVec 2) (v : BitVec 13) : (x.setTarget n v).tval0 = x.tval0 := rfl
@[simp] theorem EngState.setTarget_tval1 (x : EngState) (n : BitVec 2) (v : BitVec 13) : (x.setTarget n v).tval1 = x.tval1 := rfl
@[simp] theorem EngState.setTarget_tvec (x : EngState) (n : BitVec 2) (v : BitVec 13) : (x.setTarget n v).tvec = x.tvec := rfl
@[simp] theorem EngState.setTarget_ridx (x : EngState) (n : BitVec 2) (v : BitVec 13) : (x.setTarget n v).ridx = x.ridx := rfl
@[simp] theorem EngState.setTarget_almlvl (x : EngState) (n : BitVec 2) (v : BitVec 13) : (x.setTarget n v).almlvl = x.almlvl := rfl
@[simp] theorem EngState.setTarget_imem (x : EngState) (n : BitVec 2) (v : BitVec 13) : (x.setTarget n v).imem = x.imem := rfl
@[simp] theorem EngState.setTarget_tags (x : EngState) (n : BitVec 2) (v : BitVec 13) : (x.setTarget n v).tags = x.tags := rfl
@[simp] theorem EngState.setTarget_issued (x : EngState) (n : BitVec 2) (v : BitVec 13) : (x.setTarget n v).issued = x.issued := rfl
@[simp] theorem EngState.setTarget_claims (x : EngState) (n : BitVec 2) (v : BitVec 13) : (x.setTarget n v).claims = x.claims := rfl
@[simp] theorem EngState.setTarget_stopped (x : EngState) (n : BitVec 2) (v : BitVec 13) : (x.setTarget n v).stopped = x.stopped := rfl
@[simp] theorem EngState.setLevel_s (x : EngState) (n : BitVec 2) (v : LoopLevel) : (x.setLevel n v).s = x.s := rfl
@[simp] theorem EngState.setLevel_c (x : EngState) (n : BitVec 2) (v : LoopLevel) : (x.setLevel n v).c = x.c := rfl
@[simp] theorem EngState.setLevel_bt (x : EngState) (n : BitVec 2) (v : LoopLevel) : (x.setLevel n v).bt = x.bt := rfl
@[simp] theorem EngState.setLevel_loopSeq (x : EngState) (n : BitVec 2) (v : LoopLevel) : (x.setLevel n v).loopSeq = x.loopSeq := rfl
@[simp] theorem EngState.setLevel_pc (x : EngState) (n : BitVec 2) (v : LoopLevel) : (x.setLevel n v).pc = x.pc := rfl
@[simp] theorem EngState.setLevel_slots (x : EngState) (n : BitVec 2) (v : LoopLevel) : (x.setLevel n v).slots = x.slots := rfl
@[simp] theorem EngState.setLevel_redir (x : EngState) (n : BitVec 2) (v : LoopLevel) : (x.setLevel n v).redir = x.redir := rfl
@[simp] theorem EngState.setLevel_backEdge (x : EngState) (n : BitVec 2) (v : LoopLevel) : (x.setLevel n v).backEdge = x.backEdge := rfl
@[simp] theorem EngState.setLevel_started (x : EngState) (n : BitVec 2) (v : LoopLevel) : (x.setLevel n v).started = x.started := rfl
@[simp] theorem EngState.setLevel_phase (x : EngState) (n : BitVec 2) (v : LoopLevel) : (x.setLevel n v).phase = x.phase := rfl
@[simp] theorem EngState.setLevel_phaseSeq (x : EngState) (n : BitVec 2) (v : LoopLevel) : (x.setLevel n v).phaseSeq = x.phaseSeq := rfl
@[simp] theorem EngState.setLevel_alment (x : EngState) (n : BitVec 2) (v : LoopLevel) : (x.setLevel n v).alment = x.alment := rfl
@[simp] theorem EngState.setLevel_wait (x : EngState) (n : BitVec 2) (v : LoopLevel) : (x.setLevel n v).wait = x.wait := rfl
@[simp] theorem EngState.setLevel_rend (x : EngState) (n : BitVec 2) (v : LoopLevel) : (x.setLevel n v).rend = x.rend := rfl
@[simp] theorem EngState.setLevel_retire (x : EngState) (n : BitVec 2) (v : LoopLevel) : (x.setLevel n v).retire = x.retire := rfl
@[simp] theorem EngState.setLevel_cause (x : EngState) (n : BitVec 2) (v : LoopLevel) : (x.setLevel n v).cause = x.cause := rfl
@[simp] theorem EngState.setLevel_epc (x : EngState) (n : BitVec 2) (v : LoopLevel) : (x.setLevel n v).epc = x.epc := rfl
@[simp] theorem EngState.setLevel_tval0 (x : EngState) (n : BitVec 2) (v : LoopLevel) : (x.setLevel n v).tval0 = x.tval0 := rfl
@[simp] theorem EngState.setLevel_tval1 (x : EngState) (n : BitVec 2) (v : LoopLevel) : (x.setLevel n v).tval1 = x.tval1 := rfl
@[simp] theorem EngState.setLevel_tvec (x : EngState) (n : BitVec 2) (v : LoopLevel) : (x.setLevel n v).tvec = x.tvec := rfl
@[simp] theorem EngState.setLevel_ridx (x : EngState) (n : BitVec 2) (v : LoopLevel) : (x.setLevel n v).ridx = x.ridx := rfl
@[simp] theorem EngState.setLevel_almlvl (x : EngState) (n : BitVec 2) (v : LoopLevel) : (x.setLevel n v).almlvl = x.almlvl := rfl
@[simp] theorem EngState.setLevel_imem (x : EngState) (n : BitVec 2) (v : LoopLevel) : (x.setLevel n v).imem = x.imem := rfl
@[simp] theorem EngState.setLevel_tags (x : EngState) (n : BitVec 2) (v : LoopLevel) : (x.setLevel n v).tags = x.tags := rfl
@[simp] theorem EngState.setLevel_issued (x : EngState) (n : BitVec 2) (v : LoopLevel) : (x.setLevel n v).issued = x.issued := rfl
@[simp] theorem EngState.setLevel_claims (x : EngState) (n : BitVec 2) (v : LoopLevel) : (x.setLevel n v).claims = x.claims := rfl
@[simp] theorem EngState.setLevel_stopped (x : EngState) (n : BitVec 2) (v : LoopLevel) : (x.setLevel n v).stopped = x.stopped := rfl

end Sys2Proof.Machine
end

