-- ==== Sys2Proof/Laws/Issue.lean ====
section
/-! SUPPORT. What the shared operation of issue does: one lemma for an instruction that can start, and the cases of its own
account of itself. -/

namespace Sys2Proof.Machine

open Sys2Proof Sys2Proof.Safety

/-- The tokens that an instruction takes are present exactly when it does not wait for them. -/
theorem Issue.tokenWait_none {p : Issue} {s : State} (h1 : p.np ≤ s.core.live.tokens (fromPrevIdx s.cur))
    (h2 : p.nn ≤ s.core.live.tokens (fromNextIdx s.cur)) : p.tokenWait s = none := by
  simp [Issue.tokenWait, Nat.not_lt.2 h1, Nat.not_lt.2 h2]

/-- No register of an instruction waits for a held result. -/
theorem Issue.regWait_false {p : Issue} {s : State}
    (h : ∀ r ∈ s.core.live.pendReg, r.1 = s.cur → r.2 ∉ p.uses) : p.regWait s = false := by
  simp only [Issue.regWait, List.any_eq_false, Bool.and_eq_true, beq_iff_eq, List.contains_iff_mem, not_and]
  intro r hr he
  exact h r hr he

/-- Deliveries of slow results leave no register awaited that was not. -/
theorem Live.deliverAll_pendReg (rs : List Slow) : ∀ l : Live, ∀ x ∈ (rs.foldl Live.deliver l).pendReg, x ∈ l.pendReg := by
  induction rs with
  | nil => exact fun _ _ h => h
  | cons r rs ih => exact fun l x h => (List.mem_filter.1 (ih (l.deliver r) x h)).1

/-- The start of an instruction makes no register awaited, and it changes the moving engine's name never. -/
theorem Issue.regWait_start {p : Issue} {s : State} (h0 : p.regWait s = false) : p.regWait (p.start s) = false := by
  have hc : ∀ l : Live, ∀ x ∈ l.countSlow.pendReg, x ∈ l.pendReg := by
    intro l
    unfold Live.countSlow
    split
    · exact fun _ h => h
    · exact Live.deliverAll_pendReg _ _
  have h : ∀ x ∈ (p.start s).core.live.pendReg, x ∈ s.core.live.pendReg := by
    simp only [Issue.start, State.begun, State.modLive_live]
    split
    · split
      · exact fun x hx => by have := Live.deliverAll_pendReg _ _ x hx; simpa using this
      · exact fun x hx => by simpa using hc _ x hx
    · simp
  refine List.any_eq_false.2 fun x hx => ?_
  exact List.any_eq_false.1 h0 x (h x hx)

/-- A started instruction none of whose registers waits goes on with its body. -/
theorem Issue.go_ready {p : Issue} {s : State} (h : p.regWait s = false) : p.go s = p.settle s (p.body s) := by
  simp [Issue.go, h]

/-- An instruction that can start, and whose checks of its words and of the almanac pass, starts and does what its body says. -/
theorem Issue.step_ready {p : Issue} {s : State} (h : Ready s p.op p.cu p.takes.1 p.takes.2 p.uses)
    (hc : p.chk s = none) (ha : p.alm s = none) (hs : p.slot = true ∨ s.eng.slots = 0) :
    p.step s = p.settle (p.start s) (p.body (p.start s)) := by
  obtain ⟨h1, h2, h3, h4, h5⟩ := h
  have h6 : (!p.slot && decide (0 < s.eng.slots)) = false := by
    rcases hs with hs | hs <;> simp [hs]
  unfold Issue.step
  rw [if_neg (by simp [h1]), if_neg (by simp [h2]), hc, Issue.tokenWait_none h3 h4, ha]
  simp only [h6]
  exact Issue.go_ready (Issue.regWait_start (Issue.regWait_false h5))

/-- An instruction that goes on at issue, none of whose registers waits, goes on with its body. -/
theorem Issue.step_started {p : Issue} {s : State} (h : s.eng.started = true) (hr : p.regWait s = false) :
    p.step s = p.settle s (p.body s) := by
  unfold Issue.step
  rw [if_pos h]
  exact Issue.go_ready hr

/-- An opcode that is not legal in the moving engine raises fault 2 with its word (R69 row 3). -/
theorem Issue.step_illegal {p : Issue} {s : State} (h1 : s.eng.started = false) (h2 : opLegal p.op s.cur = false) :
    p.step s = s.raise ⟨2, (encode p.i).getD 0 0, 0⟩ := by
  unfold Issue.step
  rw [if_neg (by simp [h1]), if_pos (by simp [h2])]

/-- A failed check of row 5 raises its fault. -/
theorem Issue.step_chk {p : Issue} {s : State} {t : Trap} (h1 : s.eng.started = false) (h2 : opLegal p.op s.cur = true)
    (h3 : p.chk s = some t) : p.step s = s.raise t := by
  unfold Issue.step
  rw [if_neg (by simp [h1]), if_neg (by simp [h2]), h3]

/-- An instruction that lacks a token of the queue from the previous engine waits for it. -/
theorem Issue.step_tokens {p : Issue} {s : State} {w : Wait} (h1 : s.eng.started = false) (h2 : opLegal p.op s.cur = true)
    (h3 : p.chk s = none) (h4 : p.tokenWait s = some w) : p.step s = s.stall w := by
  unfold Issue.step
  rw [if_neg (by simp [h1]), if_neg (by simp [h2]), h3, h4]

/-- An instruction that takes and pushes the tokens of its cue nibble alone, that can start and whose body completes it. -/
theorem Issue.run_done {p : Issue} {s u : State} (h : Ready s p.op p.cu 0 0 p.uses) (ht : p.takes = (0, 0))
    (hg : p.gives = (0, 0)) (hf : p.flush = false) (ha : p.alm s = none) (hc : p.chk s = none) (hs : p.slot = true)
    (hb : p.body (opened s p.cu) = .done u) : p.run s = .next (closed u p.len p.cu) := by
  have h1 : Ready s p.op p.cu p.takes.1 p.takes.2 p.uses := by rw [ht]; exact h
  have h2 : p.start s = opened s p.cu := by simp [Issue.start, Issue.np, Issue.nn, ht, hf, opened]
  rw [Issue.run, Issue.step_ready h1 hc ha (.inl hs), h2, hb]
  simp [Issue.settle, Issue.finish, Issue.advance, hg, closed]

/-- An instruction of the plain form that can start applies its effect and completes. -/
theorem plain_ready {i : Instr} {cu : Cue} {op : BitVec 7} {uses : List (BitVec 5)} {f : State → State} {s : State}
    (h : Ready s op cu 0 0 uses) :
    plain i cu op uses f s = .next (closed (f (opened s cu)) (if isWide op then 2 else 1) cu) :=
  Issue.run_done (p := { i := i, cu := cu, op := op, uses := uses, body := fun s => .done (f s) }) h rfl rfl rfl rfl rfl rfl rfl

/-- An instruction that writes one scalar register. -/
theorem setsReg_ready {i : Instr} {cu : Cue} {op : BitVec 7} {uses : List (BitVec 5)} {d : BitVec 5} {v : State → Word}
    {s : State} (h : Ready s op cu 0 0 (d :: uses)) :
    setsReg i cu op uses d v s =
      .next (closed ((opened s cu).ws d (v (opened s cu))) (if isWide op then 2 else 1) cu) := plain_ready h

/-- A comparison. -/
theorem setsFlag_ready {i : Instr} {cu : Cue} {op : BitVec 7} {uses : List (BitVec 5)} {d : BitVec 5} {v : State → Bool}
    {s : State} (h : Ready s op cu 0 0 uses) :
    setsFlag i cu op uses d v s =
      .next (closed ((opened s cu).wc (d.setWidth 2) (v (opened s cu))) (if isWide op then 2 else 1) cu) := plain_ready h

/-- An instruction that writes one scalar register with a rounded result. -/
theorem setsFloat_ready {i : Instr} {cu : Cue} {op : BitVec 7} {uses : List (BitVec 5)} {d : BitVec 5}
    {r : State → Nat × Flags} {s : State} (h : Ready s op cu 0 0 (d :: uses)) :
    setsFloat i cu op uses d r s =
      .next (closed (((opened s cu).ws d (BitVec.ofNat 32 (r (opened s cu)).1)).orFlags (r (opened s cu)).2)
        (if isWide op then 2 else 1) cu) := plain_ready h

/-- A slow operation. -/
theorem slowOp_ready {i : Instr} {cu : Cue} {op : BitVec 7} {uses : List (BitVec 5)} {d : BitVec 5}
    {r : State → Word × Flags × Option (BitVec 2 × Bool)} {s : State} (h : Ready s op cu 0 0 (d :: uses)) :
    slowOp i cu op uses d r s =
      .next (closed ((opened s cu).modLive fun l =>
        { l with slow := l.slow ++ [⟨14, d, (r (opened s cu)).1, (r (opened s cu)).2.1, (r (opened s cu)).2.2⟩] })
        (if isWide op then 2 else 1) cu) := plain_ready h

end Sys2Proof.Machine
end

