-- ==== Sys2Proof/Laws/Sparse.lean ====
section
/-! SUPPORT. Laws of sparse maps and byte stores: read after write, and the canonical form is kept by every operation. -/

namespace Sys2Proof.Machine

open Sys2Proof

section
variable {α : Type} [DecidableEq α]

/-- The canonical form says: keys from lo on, strictly rising, and no entry equal to the default. -/
theorem Sparse.wfFrom_iff (d : α) (m : Sparse α) : ∀ lo : Nat,
    Sparse.wfFrom d lo m = true ↔
      (m.Pairwise fun x y => x.1 < y.1) ∧ ∀ c ∈ m, lo ≤ c.1 ∧ c.2 ≠ d := by
  induction m with
  | nil => intro lo; simp [Sparse.wfFrom]
  | cons c m ih =>
    intro lo
    obtain ⟨k, v⟩ := c
    simp only [Sparse.wfFrom, Bool.and_eq_true, decide_eq_true_eq, ih, List.pairwise_cons, List.mem_cons]
    constructor
    · rintro ⟨⟨h1, h2⟩, h3, h4⟩
      refine ⟨⟨fun y hy => ?_, h3⟩, ?_⟩
      · have := (h4 y hy).1; omega
      · rintro y (rfl | hy)
        · exact ⟨h1, h2⟩
        · exact ⟨by have := (h4 y hy).1; omega, (h4 y hy).2⟩
    · rintro ⟨⟨h1, h2⟩, h3⟩
      refine ⟨⟨(h3 _ (.inl rfl)).1, (h3 _ (.inl rfl)).2⟩, h2, fun y hy => ⟨?_, (h3 y (.inr hy)).2⟩⟩
      have := h1 y hy
      omega

/-- The canonical form of a sparse map. -/
theorem Sparse.wf_iff (d : α) (m : Sparse α) :
    Sparse.wf d m = true ↔ (m.Pairwise fun x y => x.1 < y.1) ∧ ∀ c ∈ m, c.2 ≠ d := by
  simp [Sparse.wf, Sparse.wfFrom_iff]

/-- The entries of a run lie in its range, and none is the default. -/
theorem Sparse.run_mem (d : α) (vs : List α) : ∀ base : Nat, ∀ c ∈ Sparse.run d base vs,
    base ≤ c.1 ∧ c.1 < base + vs.length ∧ c.2 ≠ d := by
  induction vs with
  | nil => simp [Sparse.run]
  | cons v vs ih =>
    intro base c hc
    simp only [Sparse.run] at hc
    split at hc
    · have := ih _ _ hc; simp only [List.length_cons]; exact ⟨by omega, by omega, this.2.2⟩
    · rename_i h
      rcases List.mem_cons.1 hc with rfl | hc
      · simp [h]
      · have := ih _ _ hc; simp only [List.length_cons]; exact ⟨by omega, by omega, this.2.2⟩

/-- The entries of a run rise. -/
theorem Sparse.run_pairwise (d : α) (vs : List α) : ∀ base : Nat,
    (Sparse.run d base vs).Pairwise fun x y => x.1 < y.1 := by
  induction vs with
  | nil => simp [Sparse.run]
  | cons v vs ih =>
    intro base
    simp only [Sparse.run]
    split
    · exact ih _
    · refine List.pairwise_cons.2 ⟨fun y hy => ?_, ih _⟩
      have := Sparse.run_mem d vs _ _ hy
      simp only; omega

/-- A write keeps the canonical form. -/
theorem Sparse.write_wf (d : α) {m : Sparse α} (base : Nat) (vs : List α) (h : Sparse.wf d m = true) :
    Sparse.wf d (Sparse.write d m base vs) = true := by
  rw [Sparse.wf_iff] at h ⊢
  obtain ⟨h1, h2⟩ := h
  refine ⟨?_, ?_⟩
  · simp only [Sparse.write, List.append_assoc]
    refine List.pairwise_append.2 ⟨h1.filter _, List.pairwise_append.2 ⟨Sparse.run_pairwise d vs base, h1.filter _, ?_⟩, ?_⟩
    · intro x hx y hy
      have h3 := Sparse.run_mem d vs base x hx
      have h4 := (List.mem_filter.1 hy).2
      simp only [decide_eq_true_eq] at h4
      omega
    · intro x hx y hy
      have h3 := (List.mem_filter.1 hx).2
      simp only [decide_eq_true_eq] at h3
      rcases List.mem_append.1 hy with hy | hy
      · have := Sparse.run_mem d vs base y hy; omega
      · have h4 := (List.mem_filter.1 hy).2
        simp only [decide_eq_true_eq] at h4
        omega
  · intro c hc
    simp only [Sparse.write, List.mem_append] at hc
    rcases hc with (hc | hc) | hc
    · exact h2 c (List.mem_filter.1 hc).1
    · exact (Sparse.run_mem d vs base c hc).2.2
    · exact h2 c (List.mem_filter.1 hc).1

/-- A write of one value keeps the canonical form. -/
theorem Sparse.set_wf (d : α) {m : Sparse α} (k : Nat) (v : α) (h : Sparse.wf d m = true) :
    Sparse.wf d (Sparse.set d m k v) = true := Sparse.write_wf d k [v] h

/-- Leaving out entries keeps the canonical form. -/
theorem Sparse.filter_wf (d : α) {m : Sparse α} (f : Nat × α → Bool) (h : Sparse.wf d m = true) :
    Sparse.wf d (m.filter f) = true := by
  rw [Sparse.wf_iff] at h ⊢
  exact ⟨h.1.filter _, fun c hc => h.2 c (List.mem_filter.1 hc).1⟩

/-- A clear keeps the canonical form. -/
theorem Sparse.clear_wf (d : α) {m : Sparse α} (lo hi : Nat) (h : Sparse.wf d m = true) :
    Sparse.wf d (Sparse.clear m lo hi) = true := Sparse.filter_wf d _ h

end

/-! ### Reads -/

section
variable {α : Type}

/-- A read finds nothing where no entry has the key. -/
theorem Sparse.get_of_notMem (d : α) (m : Sparse α) (k : Nat) (h : ∀ c ∈ m, c.1 ≠ k) : Sparse.get d m k = d := by
  induction m with
  | nil => rfl
  | cons c m ih =>
    obtain ⟨k', v⟩ := c
    have h1 := h _ (List.mem_cons_self)
    simp only at h1
    simp only [Sparse.get, if_neg h1]
    exact ih fun c hc => h c (List.mem_cons_of_mem _ hc)

/-- A read of two maps joined, where the first has no entry with the key. -/
theorem Sparse.get_append_right (d : α) (a b : Sparse α) (k : Nat) (h : ∀ c ∈ a, c.1 ≠ k) :
    Sparse.get d (a ++ b) k = Sparse.get d b k := by
  induction a with
  | nil => rfl
  | cons c a ih =>
    obtain ⟨k', v⟩ := c
    have h1 := h _ (List.mem_cons_self)
    simp only at h1
    simp only [List.cons_append, Sparse.get, if_neg h1]
    exact ih fun c hc => h c (List.mem_cons_of_mem _ hc)

/-- A read of two maps joined, where the second has no entry with the key. -/
theorem Sparse.get_append_left (d : α) (a b : Sparse α) (k : Nat) (h : ∀ c ∈ b, c.1 ≠ k) :
    Sparse.get d (a ++ b) k = Sparse.get d a k := by
  induction a with
  | nil => simpa [Sparse.get] using Sparse.get_of_notMem d b k h
  | cons c a ih =>
    obtain ⟨k', v⟩ := c
    simp only [List.cons_append, Sparse.get, ih]

/-- Leaving out entries with other keys changes no read. -/
theorem Sparse.get_filter (d : α) (m : Sparse α) (f : Nat × α → Bool) (k : Nat) (h : ∀ v, f (k, v) = true) :
    Sparse.get d (m.filter f) k = Sparse.get d m k := by
  induction m with
  | nil => rfl
  | cons c m ih =>
    obtain ⟨k', v⟩ := c
    simp only [List.filter_cons]
    split
    · simp only [Sparse.get, ih]
    · rename_i h1
      by_cases h2 : k' = k
      · subst h2; exact absurd (h v) h1
      · simp only [Sparse.get, if_neg h2, ih]

end

section
variable {α : Type} [DecidableEq α]

/-- A read in a run. -/
theorem Sparse.get_run (d : α) (vs : List α) : ∀ (base k : Nat), base ≤ k → k < base + vs.length →
    Sparse.get d (Sparse.run d base vs) k = vs.getD (k - base) d := by
  induction vs with
  | nil => intro base k h1 h2; simp at h2; omega
  | cons v vs ih =>
    intro base k h1 h2
    simp only [List.length_cons] at h2
    by_cases h3 : base = k
    · subst h3
      simp only [Sparse.run, Nat.sub_self, List.getD_cons_zero]
      split
      · rename_i h4
        rw [h4]
        exact Sparse.get_of_notMem d _ _ fun c hc => by have := Sparse.run_mem d vs _ c hc; omega
      · simp [Sparse.get]
    · have h4 : k - base = (k - (base + 1)) + 1 := by omega
      rw [h4, List.getD_cons_succ, ← ih (base + 1) k (by omega) (by omega)]
      simp only [Sparse.run]
      split
      · rfl
      · simp [Sparse.get, h3]

/-- A read after a write: the value written in its range, and the value held before elsewhere. -/
theorem Sparse.get_write (d : α) (m : Sparse α) (base : Nat) (vs : List α) (k : Nat) :
    Sparse.get d (Sparse.write d m base vs) k =
      if base ≤ k ∧ k < base + vs.length then vs.getD (k - base) d else Sparse.get d m k := by
  have hlo : ∀ c ∈ m.filter (fun c => c.1 < base), c.1 < base := fun c hc => by
    have := (List.mem_filter.1 hc).2; simpa using this
  have hhi : ∀ c ∈ m.filter (fun c => base + vs.length ≤ c.1), base + vs.length ≤ c.1 := fun c hc => by
    have := (List.mem_filter.1 hc).2; simpa using this
  have hrun := Sparse.run_mem d vs base
  simp only [Sparse.write]
  split
  · rename_i h
    rw [Sparse.get_append_left d _ _ k fun c hc => by have := hhi c hc; omega,
      Sparse.get_append_right d _ _ k fun c hc => by have := hlo c hc; omega,
      Sparse.get_run d vs base k h.1 h.2]
  · rename_i h
    by_cases h1 : k < base
    · rw [Sparse.get_append_left d _ _ k fun c hc => by have := hhi c hc; omega,
        Sparse.get_append_left d _ _ k fun c hc => by have := hrun c hc; omega,
        Sparse.get_filter d m _ k fun v => by simpa using h1]
    · rw [Sparse.get_append_right d _ _ k fun c hc => by
          rcases List.mem_append.1 hc with hc | hc
          · have := hlo c hc; omega
          · have := hrun c hc; omega,
        Sparse.get_filter d m _ k fun v => by simp only [decide_eq_true_eq]; omega]

/-- A read after a write of one value. -/
theorem Sparse.get_set (d : α) (m : Sparse α) (k j : Nat) (v : α) :
    Sparse.get d (Sparse.set d m k v) j = if j = k then v else Sparse.get d m j := by
  simp only [Sparse.set, Sparse.get_write, List.length_singleton]
  by_cases h : j = k
  · subst h; simp
  · rw [if_neg (by omega), if_neg h]

end

/-- A read of a run of values reads each one. -/
theorem Sparse.read_eq {α : Type} (d : α) (m : Sparse α) (base n : Nat) :
    Sparse.read d m base n = (List.range n).map fun i => Sparse.get d m (base + i) := by
  simp only [Sparse.read]
  refine List.map_congr_left fun i hi => Sparse.get_filter d m _ _ fun v => ?_
  have := List.mem_range.1 hi
  simp only [Bool.and_eq_true, decide_eq_true_eq]
  omega

/-! ### Stacked memory -/

/-- Every write of stacked memory keeps its canonical form. -/
theorem Memory.write_wf {m : List Host.Cell} (base : Nat) (bs : List Byte) (h : Memory.wf m = true) :
    Memory.wf (Sparse.write 0 m base bs) = true := Sparse.write_wf 0 base bs h

/-- Every clear of stacked memory keeps its canonical form. -/
theorem Memory.clear_wf {m : List Host.Cell} (lo hi : Nat) (h : Memory.wf m = true) :
    Memory.wf (Sparse.clear m lo hi) = true := Sparse.clear_wf 0 lo hi h

/-! ### Vectors of registers -/

/-- A read after a write of a vector position. -/
theorem vget_vset {α : Type} {n : Nat} (v : Vector α n) (i j : Nat) (x d : α) :
    vget (vset v i x) j d = if i = j ∧ i < n then x else vget v j d := by
  simp only [vget, vset, Vector.getElem?_setIfInBounds]
  by_cases h : i = j
  · subst h
    by_cases h2 : i < n
    · simp [h2]
    · have : v[i]? = none := by simp; omega
      simp [h2]
  · simp [h]

/-- A read of a vector changed position by position. -/
theorem vget_vmap {α β : Type} {n : Nat} (f : α → β) (v : Vector α n) {i : Nat} (d : α) (e : β) (h : i < n) :
    vget (vmap f v) i e = f (vget v i d) := by
  simp [vget, vmap, h]

/-- Every entry meets a condition exactly when the one at every position does. -/
theorem vall_iff {α : Type} {n : Nat} (v : Vector α n) (f : α → Bool) :
    vall v f = true ↔ ∀ (i : Nat) (h : i < n), f v[i] = true := by
  obtain ⟨a, rfl⟩ := v
  simp [vall, Array.all_eq_true]

/-! ### Association lists -/

/-- A look-up after a change under another number. -/
theorem assoc_assocMod {α : Type} (m : List (Nat × α)) (k j : Nat) (f : α → α) :
    assoc (assocMod m k f) j = if j = k then (assoc m j).map f else assoc m j := by
  induction m with
  | nil => simp [assocMod, assoc]
  | cons c m ih =>
    obtain ⟨k', v⟩ := c
    simp only [assocMod, List.map_cons] at ih ⊢
    by_cases h1 : k' = k
    · subst h1
      simp only [if_pos, assoc]
      by_cases h2 : k' = j
      · subst h2; simp
      · simp only [if_neg h2, ih]
    · simp only [if_neg h1, assoc]
      by_cases h2 : k' = j
      · subst h2; simp [h1]
      · simp only [if_neg h2, ih]

/-- A look-up after an entry is put. -/
theorem assoc_assocSet {α : Type} (m : List (Nat × α)) (k j : Nat) (v : α) :
    assoc (assocSet m k v) j = if j = k then some v else assoc m j := by
  induction m with
  | nil =>
    simp only [assocSet, assoc]
    by_cases h : k = j
    · simp [h]
    · simp [h, Ne.symm h]
  | cons c m ih =>
    obtain ⟨k', v'⟩ := c
    simp only [assocSet]
    split
    · rename_i h1
      subst h1
      simp only [assoc]
      by_cases h2 : k' = j
      · simp [h2]
      · simp [h2, Ne.symm h2]
    · rename_i h1
      split
      · simp only [assoc]
        by_cases h2 : k = j
        · simp [h2]
        · simp [h2, Ne.symm h2]
      · simp only [assoc, ih]
        by_cases h2 : k' = j
        · subst h2; simp [h1]
        · simp [h2]

end Sys2Proof.Machine
end

