-- ==== Sys2Proof/Laws/Memory.lean ====
section
/-! SUPPORT. Every operation that writes stacked memory or host memory keeps its canonical form, and the state after reset has
it. -/

namespace Sys2Proof.Machine

open Sys2Proof

/-- Stacked memory and host memory are in canonical form. -/
abbrev Canon (s : State) : Prop := Memory.wf s.mem = true ∧ Sparse.wf (0 : Byte) s.host.mem = true

/-- The state after reset has both memories in canonical form. -/
theorem State.reset_canon : Canon State.reset := ⟨rfl, rfl⟩

/-- States with the same memories are in canonical form together. -/
theorem Canon.congr {s t : State} (h : Canon s) (h1 : t.mem = s.mem) (h2 : t.host.mem = s.host.mem) : Canon t := by
  unfold Canon
  rw [h1, h2]
  exact h

/-- A fold of operations that keep the form keeps it. -/
theorem Canon.foldl {α : Type} {f : State → α → State} (h : ∀ s x, Canon s → Canon (f s x)) (xs : List α) :
    ∀ s, Canon s → Canon (xs.foldl f s) := by
  induction xs with
  | nil => exact fun _ hs => hs
  | cons x xs ih => exact fun s hs => ih _ (h s x hs)

/-- A sector is replaced. -/
theorem Canon.storeSector {s : State} (sec : Nat) (key : Byte) (mask : List (Option Byte)) (scales : Option (BitVec 16))
    (h : Canon s) : Canon (s.storeSector sec key mask scales) := ⟨Memory.write_wf _ _ h.1, h.2⟩

/-- A page-table entry is written. -/
theorem Canon.setEntry {s : State} (a v : Nat) (h : Canon s) : Canon (s.setEntry a v) := ⟨Memory.write_wf _ _ h.1, h.2⟩

/-- A page is made blank. -/
theorem Canon.blank {s : State} (a n : Nat) (h : Canon s) : Canon (s.blank a n) := ⟨Memory.clear_wf _ _ h.1, h.2⟩

/-- A sector passes with a wrong value. -/
theorem Canon.spoil {s : State} (sec : Nat) (h : Canon s) : Canon (s.spoil sec) := ⟨Memory.write_wf _ _ h.1, h.2⟩

/-! ### Operations that leave both memories alone -/

/-- Stacked memory and host memory of a state. -/
abbrev State.mems (s : State) : List Host.Cell × Sparse Byte := (s.mem, s.host.mem)

/-- States with the same memories are in canonical form together. -/
theorem Canon.of_mems {s t : State} (h : Canon s) (h1 : t.mems = s.mems) : Canon t :=
  h.congr (congrArg Prod.fst h1) (congrArg Prod.snd h1)

theorem State.modCore_mems (s : State) (n : Nat) (f : Core → Core) : (s.modCore n f).mems = s.mems := by
  unfold State.modCore
  split <;> rfl

theorem State.modCtx_mems (s : State) (n : Nat) (f : Ctx → Ctx) : (s.modCtx n f).mems = s.mems := rfl

theorem State.logAsync_mems (s : State) (ctx code eng : Nat) (cv fin : Bool) (tv0 tv1 : Word) :
    (s.logAsync ctx code eng cv fin tv0 tv1).mems = s.mems := rfl

theorem State.modProt_mems (s : State) (ctx d : Nat) (f : Prot → Prot) : (s.modProt ctx d f).mems = s.mems := rfl

theorem State.await_mems (s : State) (c : Nat) (w : Waiting) : (s.await c w).mems = s.mems := by
  unfold State.await
  dsimp only
  split <;> rfl

theorem State.inBase_mems (s : State) (sec : Nat) : (s.inBase sec).mems = s.mems := rfl

theorem State.invalidateL1_mems (s : State) (g : Option Agent) (sec : Nat) : (s.invalidateL1 g sec).mems = s.mems := rfl

/-- A write that hits the writer's L1 changes no memory. -/
theorem State.l1Hit_mems (s : State) (g : Agent) (sec : Nat) : (s.l1Hit g sec).mems = s.mems := by
  unfold State.l1Hit
  split
  · split
    · exact State.modCore_mems ..
    · rfl
  · rfl

/-- What the memory-side cache learns of an access changes no memory. -/
theorem State.seeHome_mems (s : State) (g : Agent) (line h : Nat) (dirty : Bool) : (s.seeHome g line h dirty).mems = s.mems := by
  unfold State.seeHome
  dsimp only
  split
  · exact State.modCore_mems ..
  · rfl

/-- Placing holds changes no memory. -/
theorem State.putHolds_mems (s : State) (g : Agent) (ctx : Nat) (hold : Bool) (ks : List Nat) :
    (s.putHolds g ctx hold ks).mems = s.mems := by
  unfold State.putHolds
  split
  · generalize ((ks.map (· / 4)).eraseDups) = ls
    have h (ls : List Nat) (t : State) : (ls.foldl (fun s k => s.invalidateL1 (some g) k) t).mems = t.mems := by
      induction ls generalizing t with
      | nil => rfl
      | cons l ls ih => exact (ih _).trans (State.invalidateL1_mems ..)
    exact h ls _
  · rfl

/-- Ending a bias flip changes no memory. -/
theorem State.useSnoops_mems (s : State) (who a n : Nat) : (s.useSnoops who a n).mems = s.mems := rfl

/-! ### Writes of stacked memory -/

/-- A sector of an undo area is written. -/
theorem Canon.undoBytes {s : State} (p : Prot) (k : Nat) (h : Canon s) : Canon (s.undoBytes p k) :=
  (h.spoil (areaSector p.und k)).of_mems (State.inBase_mems ..)

/-- Recording an undo record keeps both memories in canonical form. -/
theorem Canon.recordUndo {s : State} (ctx d : Nat) (p : Prot) (sec : Nat) (h : Canon s) : Canon (s.recordUndo ctx d p sec) := by
  have h1 : Canon (((s.inBase sec).undoBytes p (2 * p.ucnt)).undoBytes p (2 * p.ucnt + 1)) :=
    ((h.of_mems (State.inBase_mems s sec)).undoBytes p _).undoBytes p _
  unfold State.recordUndo
  dsimp only
  split
  · exact (h1.of_mems (State.modProt_mems ..)).of_mems (State.logAsync_mems ..)
  · exact h1.of_mems (State.modProt_mems ..)

/-- A change of a sector keeps both memories in canonical form, if what it stores does. -/
theorem Canon.change {s : State} (g : Agent) (sec : Nat) (store : State → State) (held : State → UndoRec)
    (hs : ∀ t, Canon t → Canon (store t)) (h : Canon s) : Canon (s.change g sec store held) := by
  have h1 : Canon ((s.invalidateL1 (some g) sec).l1Hit g sec) :=
    (h.of_mems (State.invalidateL1_mems ..)).of_mems (State.l1Hit_mems ..)
  unfold State.change
  dsimp only
  generalize (s.invalidateL1 (some g) sec).l1Hit g sec = s1 at h1 ⊢
  split
  · exact (hs _ h1).of_mems (State.seeHome_mems ..)
  · split
    · exact (hs _ h1).of_mems (State.seeHome_mems ..)
    · exact (hs _ (h1.recordUndo ..)).of_mems (State.seeHome_mems ..)
    · exact (hs _ (h1.of_mems (State.modProt_mems ..))).of_mems (State.seeHome_mems ..)
    · exact h1.of_mems (State.modProt_mems ..)

/-- A performed write keeps both memories in canonical form. -/
theorem Canon.performWrite {s : State} (g : Agent) (sec : Nat) (key : Byte) (mask : List (Option Byte))
    (scales : Option (BitVec 16)) (h : Canon s) : Canon (s.performWrite g sec key mask scales) := by
  unfold State.performWrite
  split
  · exact h
  · exact h.change _ _ _ _ fun t ht => ht.storeSector ..

/-- A sector that a copy poisons. -/
theorem Canon.performPoison {s : State} (g : Agent) (sec : Nat) (h : Canon s) : Canon (s.performPoison g sec) :=
  h.change _ _ _ _ fun _ ht => ht

/-- A write that arrives keeps both memories in canonical form, performed or kept waiting. -/
theorem Canon.arriveWrite {s : State} (g : Agent) (ctx : Nat) (hold : Bool) (sec : Nat) (key : Byte) (mask : List (Option Byte))
    (scales : Option (BitVec 16)) (ret : WaitRet) (h : Canon s) :
    Canon (s.arriveWrite g ctx hold sec key mask scales ret).1 := by
  unfold State.arriveWrite
  split
  · exact (h.of_mems (State.putHolds_mems ..)).of_mems (State.await_mems ..)
  · exact (h.performWrite ..).of_mems (State.putHolds_mems ..)

/-- A poisoned copy that arrives keeps both memories in canonical form. -/
theorem Canon.arrivePoison {s : State} (g : Agent) (ctx sec : Nat) (key : Byte) (ret : WaitRet) (h : Canon s) :
    Canon (s.arrivePoison g ctx sec key ret).1 := by
  unfold State.arrivePoison
  dsimp only
  split
  · exact (h.of_mems (State.putHolds_mems ..)).of_mems (State.await_mems ..)
  · exact (h.performPoison ..).of_mems (State.putHolds_mems ..)

/-- An operation on a word keeps both memories in canonical form. -/
theorem Canon.performRmw {s : State} (g : Agent) (sec : Nat) (key : Byte) (k op : Nat) (cmp : Option Word) (v : Word)
    (scales : Option (BitVec 16)) (h : Canon s) : Canon (s.performRmw g sec key k op cmp v scales).1 := by
  unfold State.performRmw
  dsimp only
  split
  · exact h.performWrite ..
  · exact h.of_mems (State.seeHome_mems ..)

/-- An operation on a word that is tried keeps both memories in canonical form. -/
theorem Canon.tryRmw {s : State} (g : Agent) (sec : Nat) (key : Byte) (k op : Nat) (cmp : Option Word) (v : Word)
    (scales : Option (BitVec 16)) (atomic : Bool) (h : Canon s) :
    Canon (s.tryRmw g sec key k op cmp v scales atomic).1 := by
  unfold State.tryRmw
  split
  · exact h
  · split
    · exact h
    · exact (h.performRmw ..).of_mems (State.invalidateL1_mems ..)

/-- An operation on a word that arrives keeps both memories in canonical form, performed or kept waiting. -/
theorem Canon.arriveRmw {s : State} (g : Agent) (ctx : Nat) (hold : Bool) (a : Nat) (key : Byte) (op : Nat) (cmp : Option Word)
    (v : Word) (scales : Option (BitVec 16)) (ret : WaitRet) (h : Canon s) :
    Canon (s.arriveRmw g ctx hold a key op cmp v scales ret).1 := by
  unfold State.arriveRmw
  dsimp only
  split
  · exact (h.of_mems (State.putHolds_mems ..)).of_mems (State.await_mems ..)
  · exact (h.tryRmw ..).of_mems (State.putHolds_mems ..)

/-- A sector takes what a record holds of it. -/
theorem Canon.putRecord {s : State} (r : UndoRec) (h : Canon s) : Canon (s.putRecord r) := ⟨Memory.write_wf _ _ h.1, h.2⟩

/-! ### Writes of host memory, collectives and completion entries -/

/-- Writes of host memory keep its canonical form. -/
theorem Canon.hostWriteAs {s : State} (g : Agent) (ctx x : Nat) (hold poison : Bool) (bs : List Byte) (h : Canon s) :
    Canon (s.hostWriteAs g ctx x hold poison bs).1 := by
  refine ⟨h.1, ?_⟩
  unfold State.hostWriteAs
  dsimp only
  generalize List.filter _ (List.filter _ (granules x bs.length)) = gs
  have h2 := h.2
  generalize s.host.mem = m at h2 ⊢
  induction gs generalizing m with
  | nil => exact h2
  | cons g gs ih => exact ih _ (Sparse.write_wf 0 _ _ h2)

/-- An access writes host memory. -/
theorem Canon.writeHost {s : State} (a : Access) (p : Piece) (hold : Bool) (bs : List Byte) (poison : Bool) (h : Canon s) :
    Canon (s.writeHost a p hold bs poison).1 := h.hostWriteAs ..

/-- A piece of an output of a collective is written. -/
theorem Canon.colWritePiece {s : State} (ctx : Nat) (p : Piece) (bs : List Byte) (h : Canon s) :
    Canon (s.colWritePiece ctx p bs) := by
  unfold State.colWritePiece
  split
  · exact (Canon.foldl (fun s m hs => hs.arriveWrite ..) _ s h).of_mems (State.useSnoops_mems ..)
  · exact h.hostWriteAs ..
  · exact h
  · exact h

/-- A completion entry is written. -/
theorem Canon.writeEntry {s t : State} (ctx : Nat) (p : Piece) (bs : List Byte) (h : Canon s)
    (ht : s.writeEntry ctx p bs = some t) : Canon t := by
  unfold State.writeEntry at ht
  split at ht
  · dsimp only at ht
    split at ht
    · cases ht
    · obtain ⟨m, -, rfl⟩ := Option.map_eq_some_iff.1 ht
      exact h.performWrite ..
  · split at ht
    · cases ht
    · split at ht
      · cases ht
        exact h
      · cases ht
        exact ⟨h.1, Sparse.write_wf 0 _ _ h.2⟩
  · cases ht
    exact h
  · cases ht
    exact h

/-- The act store writes stacked memory. -/
theorem Canon.writeStore {s : State} (a : Nat) (bs : List Byte) (h : Canon s) : Canon (s.writeStore a bs) :=
  Canon.foldl (fun _ _ hs => hs.storeSector ..) _ s h

/-- A checkpoint fills its buffers in host memory. -/
theorem Canon.fillBuffers (cs : List CapCell) : ∀ (s : State) (bs : List Byte), Canon s → Canon (s.fillBuffers cs bs) := by
  induction cs with
  | nil => exact fun _ _ h => h
  | cons c cs ih => exact fun s bs h => ih _ _ ⟨h.1, Sparse.write_wf 0 _ _ h.2⟩

/-! ### Statuses and the stage manager -/

/-- A status goes to its slot. -/
theorem Canon.putStatus {s : State} (x : Nat × Nat) (h : Canon s) : Canon (s.putStatus x) := by
  unfold State.putStatus
  split
  · exact h
  · exact ⟨h.1, Sparse.write_wf 0 _ _ h.2⟩

/-- Statuses that have waited for the host link go to their slots. -/
theorem Canon.flushDue {s : State} (h : Canon s) : Canon s.flushDue := by
  unfold State.flushDue
  split
  · exact (Canon.foldl (fun _ x hs => hs.putStatus x) _ s h).congr rfl rfl
  · exact h

/-- A command of the stage manager completes with a status. -/
theorem Canon.status {s : State} (k : Nat) (h : Canon s) : Canon (s.status k) := by
  have h1 : Canon (s.answerSlot k) := by
    unfold State.answerSlot
    split
    · exact h
    · exact (h.congr rfl rfl : Canon { s with host := { s.host with
        admDone := s.host.admDone + 1,
        due := if s.host.lost then s.host.due else s.host.due ++ [(s.host.slot, k)] } }).flushDue
  exact h1.congr rfl rfl

/-- An access of the stage manager writes host memory or stacked memory. -/
theorem Canon.capAccess {s : State} (slot : Nat) (write : Bool) (spc off n : Nat) (v : DWord) (h : Canon s) :
    Canon (s.capAccess slot write spc off n v) := by
  have hw : ∀ a, Canon (s.capWrite spc a n v) := fun a => by
    unfold State.capWrite
    dsimp only
    split
    · split
      · refine Canon.foldl (fun t b ht => ?_) _ s h
        dsimp only
        split
        · exact ht
        · exact ⟨ht.1, Sparse.write_wf 0 _ _ ht.2⟩
      · exact h
    · split
      · split
        · exact Canon.foldl (fun t m ht => (ht.of_mems (State.invalidateL1_mems ..)).storeSector ..) _ s h
        · exact h
      · exact h
  unfold State.capAccess
  dsimp only
  split
  · exact h.congr rfl rfl
  · split
    · exact hw _
    · exact h

/-- `prot.set` zero-fills the pages of its areas. -/
theorem Canon.fillPages {s : State} (ps : List Nat) (h : Canon s) : Canon (s.fillPages ps) :=
  Canon.foldl (fun s p hs => (hs.congr rfl rfl : Canon (s.snoopsUsed (4096 * p) 4096))) _ _
    (Canon.foldl (fun _ _ hs => hs.blank ..) _ s h)

/-- A module without power has stacked memory as reset leaves it, and the host keeps its own. -/
theorem Canon.unpowered {s : State} (h : Canon s) : Canon s.unpowered := ⟨rfl, h.2⟩

end Sys2Proof.Machine
end

