-- ==== Sys2Proof/Laws/PerInstr.lean ====
section
/-! SUPPORT. Statements about every instruction as syntax, one lemma per constructor: the words of an instruction have the
shape that its opcode gives them (R46 to R48, R64). -/

namespace Sys2Proof.Laws

/-- An event has no words; a word instruction has an assigned opcode, and one word, or two where its opcode is of format W,
the second with bits [31:28] zero. -/
def Shape.Statement (i : Instr) : Prop :=
  encode i = [] ∨
    (∃ w, encode i = [w] ∧ opAssigned (opOf w) = true ∧ isWide (opOf w) = false) ∨
    ∃ w x, encode i = [w, x] ∧ opAssigned (opOf w) = true ∧ isWide (opOf w) = true ∧ x.extractLsb' 28 4 = 0

/-- A word that `one` builds has the shape of its opcode. -/
theorem shape_one (i : Instr) (cu : Cue) (op : BitVec 7) (f : BitVec 21) (h : encode i = one cu op f)
    (ho : opAssigned op = true) (hw : isWide op = false) : Shape.Statement i :=
  .inr (.inl ⟨_, h, by rw [opOf_one]; exact ho, by rw [opOf_one]; exact hw⟩)

/-- Words that `two` builds have the shape of their opcode. -/
theorem shape_two (i : Instr) (cu : Cue) (op : BitVec 7) (f : BitVec 21) (y : BitVec 28) (h : encode i = two cu op f y)
    (ho : opAssigned op = true) (hw : isWide op = true) : Shape.Statement i :=
  .inr (.inr ⟨_, _, h, by rw [opOf_one]; exact ho, by rw [opOf_one]; exact hw,
    by rw [extract_append_hi _ _ (by decide)]; rfl⟩)

theorem Shape.nop (cu : Cue) : Shape.Statement (.nop cu) := shape_one _ _ _ _ rfl rfl rfl
theorem Shape.cue (cu : Cue) (n : BitVec 13) : Shape.Statement (.cue cu n) := shape_one _ _ _ _ rfl rfl rfl
theorem Shape.bprep (cu : Cue) (k : BitVec 2) (tgt : BitVec 13) : Shape.Statement (.bprep cu k tgt) := shape_one _ _ _ _ rfl rfl rfl
theorem Shape.br (cu : Cue) (t : BitVec 2) (c : BitVec 2) (cnd : BitVec 3) : Shape.Statement (.br cu t c cnd) := shape_one _ _ _ _ rfl rfl rfl
theorem Shape.bl (cu : Cue) (t : BitVec 2) (c : BitVec 2) (cnd : BitVec 3) (ls : BitVec 5) : Shape.Statement (.bl cu t c cnd ls) := shape_one _ _ _ _ rfl rfl rfl
theorem Shape.loopImmediate (cu : Cue) (lvl : BitVec 2) (cnt : BitVec 8) (len : BitVec 10) : Shape.Statement (.loopImmediate cu lvl cnt len) := shape_one _ _ _ _ rfl rfl rfl
theorem Shape.loopRegister (cu : Cue) (lvl : BitVec 2) (s : BitVec 5) (len : BitVec 10) : Shape.Statement (.loopRegister cu lvl s len) := shape_one _ _ _ _ rfl rfl rfl
theorem Shape.loopx (cu : Cue) (lvl : BitVec 2) (e : BitVec 2) (s : BitVec 5) (len : BitVec 10) : Shape.Statement (.loopx cu lvl e s len) := shape_one _ _ _ _ rfl rfl rfl
theorem Shape.trap (cu : Cue) (code : BitVec 16) : Shape.Statement (.trap cu code) := shape_one _ _ _ _ rfl rfl rfl
theorem Shape.tokw (cu : Cue) (np : BitVec 4) (nn : BitVec 4) : Shape.Statement (.tokw cu np nn) := shape_one _ _ _ _ rfl rfl rfl
theorem Shape.toks (cu : Cue) (np : BitVec 4) (nn : BitVec 4) : Shape.Statement (.toks cu np nn) := shape_one _ _ _ _ rfl rfl rfl
theorem Shape.brk (cu : Cue) (code : BitVec 16) : Shape.Statement (.brk cu code) := shape_one _ _ _ _ rfl rfl rfl
theorem Shape.csrr (cu : Cue) (d : BitVec 5) (num : BitVec 11) : Shape.Statement (.csrr cu d num) := shape_one _ _ _ _ rfl rfl rfl
theorem Shape.csrw (cu : Cue) (d : BitVec 5) (a : BitVec 5) (num : BitVec 11) : Shape.Statement (.csrw cu d a num) := shape_one _ _ _ _ rfl rfl rfl
theorem Shape.csrs (cu : Cue) (d : BitVec 5) (a : BitVec 5) (num : BitVec 11) : Shape.Statement (.csrs cu d a num) := shape_one _ _ _ _ rfl rfl rfl
theorem Shape.csrc (cu : Cue) (d : BitVec 5) (a : BitVec 5) (num : BitVec 11) : Shape.Statement (.csrc cu d a num) := shape_one _ _ _ _ rfl rfl rfl
theorem Shape.add (cu : Cue) (d : BitVec 5) (a : BitVec 5) (b : BitVec 5) : Shape.Statement (.add cu d a b) := shape_one _ _ _ _ rfl rfl rfl
theorem Shape.sub (cu : Cue) (d : BitVec 5) (a : BitVec 5) (b : BitVec 5) : Shape.Statement (.sub cu d a b) := shape_one _ _ _ _ rfl rfl rfl
theorem Shape.mul (cu : Cue) (d : BitVec 5) (a : BitVec 5) (b : BitVec 5) : Shape.Statement (.mul cu d a b) := shape_one _ _ _ _ rfl rfl rfl
theorem Shape.mulh (cu : Cue) (d : BitVec 5) (a : BitVec 5) (b : BitVec 5) : Shape.Statement (.mulh cu d a b) := shape_one _ _ _ _ rfl rfl rfl
theorem Shape.mulhn (cu : Cue) (d : BitVec 5) (a : BitVec 5) (b : BitVec 5) : Shape.Statement (.mulhn cu d a b) := shape_one _ _ _ _ rfl rfl rfl
theorem Shape.and (cu : Cue) (d : BitVec 5) (a : BitVec 5) (b : BitVec 5) : Shape.Statement (.and cu d a b) := shape_one _ _ _ _ rfl rfl rfl
theorem Shape.or (cu : Cue) (d : BitVec 5) (a : BitVec 5) (b : BitVec 5) : Shape.Statement (.or cu d a b) := shape_one _ _ _ _ rfl rfl rfl
theorem Shape.xor (cu : Cue) (d : BitVec 5) (a : BitVec 5) (b : BitVec 5) : Shape.Statement (.xor cu d a b) := shape_one _ _ _ _ rfl rfl rfl
theorem Shape.andn (cu : Cue) (d : BitVec 5) (a : BitVec 5) (b : BitVec 5) : Shape.Statement (.andn cu d a b) := shape_one _ _ _ _ rfl rfl rfl
theorem Shape.shl (cu : Cue) (d : BitVec 5) (a : BitVec 5) (b : BitVec 5) : Shape.Statement (.shl cu d a b) := shape_one _ _ _ _ rfl rfl rfl
theorem Shape.shr (cu : Cue) (d : BitVec 5) (a : BitVec 5) (b : BitVec 5) : Shape.Statement (.shr cu d a b) := shape_one _ _ _ _ rfl rfl rfl
theorem Shape.sra (cu : Cue) (d : BitVec 5) (a : BitVec 5) (b : BitVec 5) : Shape.Statement (.sra cu d a b) := shape_one _ _ _ _ rfl rfl rfl
theorem Shape.minI (cu : Cue) (d : BitVec 5) (a : BitVec 5) (b : BitVec 5) : Shape.Statement (.minI cu d a b) := shape_one _ _ _ _ rfl rfl rfl
theorem Shape.maxI (cu : Cue) (d : BitVec 5) (a : BitVec 5) (b : BitVec 5) : Shape.Statement (.maxI cu d a b) := shape_one _ _ _ _ rfl rfl rfl
theorem Shape.minN (cu : Cue) (d : BitVec 5) (a : BitVec 5) (b : BitVec 5) : Shape.Statement (.minN cu d a b) := shape_one _ _ _ _ rfl rfl rfl
theorem Shape.maxN (cu : Cue) (d : BitVec 5) (a : BitVec 5) (b : BitVec 5) : Shape.Statement (.maxN cu d a b) := shape_one _ _ _ _ rfl rfl rfl
theorem Shape.cmpEq (cu : Cue) (d : BitVec 5) (a : BitVec 5) (b : BitVec 5) : Shape.Statement (.cmpEq cu d a b) := shape_one _ _ _ _ rfl rfl rfl
theorem Shape.cmpNe (cu : Cue) (d : BitVec 5) (a : BitVec 5) (b : BitVec 5) : Shape.Statement (.cmpNe cu d a b) := shape_one _ _ _ _ rfl rfl rfl
theorem Shape.cmpLtI (cu : Cue) (d : BitVec 5) (a : BitVec 5) (b : BitVec 5) : Shape.Statement (.cmpLtI cu d a b) := shape_one _ _ _ _ rfl rfl rfl
theorem Shape.cmpGeI (cu : Cue) (d : BitVec 5) (a : BitVec 5) (b : BitVec 5) : Shape.Statement (.cmpGeI cu d a b) := shape_one _ _ _ _ rfl rfl rfl
theorem Shape.cmpLtN (cu : Cue) (d : BitVec 5) (a : BitVec 5) (b : BitVec 5) : Shape.Statement (.cmpLtN cu d a b) := shape_one _ _ _ _ rfl rfl rfl
theorem Shape.cmpGeN (cu : Cue) (d : BitVec 5) (a : BitVec 5) (b : BitVec 5) : Shape.Statement (.cmpGeN cu d a b) := shape_one _ _ _ _ rfl rfl rfl
theorem Shape.mov (cu : Cue) (d : BitVec 5) (a : BitVec 5) : Shape.Statement (.mov cu d a) := shape_one _ _ _ _ rfl rfl rfl
theorem Shape.popc (cu : Cue) (d : BitVec 5) (a : BitVec 5) : Shape.Statement (.popc cu d a) := shape_one _ _ _ _ rfl rfl rfl
theorem Shape.clz (cu : Cue) (d : BitVec 5) (a : BitVec 5) : Shape.Statement (.clz cu d a) := shape_one _ _ _ _ rfl rfl rfl
theorem Shape.ctz (cu : Cue) (d : BitVec 5) (a : BitVec 5) : Shape.Statement (.ctz cu d a) := shape_one _ _ _ _ rfl rfl rfl
theorem Shape.sel (cu : Cue) (d : BitVec 5) (a : BitVec 5) (b : BitVec 5) (c : BitVec 2) : Shape.Statement (.sel cu d a b c) := shape_one _ _ _ _ rfl rfl rfl
theorem Shape.bext (cu : Cue) (d : BitVec 5) (a : BitVec 5) (b : BitVec 5) : Shape.Statement (.bext cu d a b) := shape_one _ _ _ _ rfl rfl rfl
theorem Shape.bins (cu : Cue) (d : BitVec 5) (a : BitVec 5) (b : BitVec 5) : Shape.Statement (.bins cu d a b) := shape_one _ _ _ _ rfl rfl rfl
theorem Shape.divI (cu : Cue) (d : BitVec 5) (a : BitVec 5) (b : BitVec 5) : Shape.Statement (.divI cu d a b) := shape_one _ _ _ _ rfl rfl rfl
theorem Shape.divN (cu : Cue) (d : BitVec 5) (a : BitVec 5) (b : BitVec 5) : Shape.Statement (.divN cu d a b) := shape_one _ _ _ _ rfl rfl rfl
theorem Shape.remI (cu : Cue) (d : BitVec 5) (a : BitVec 5) (b : BitVec 5) : Shape.Statement (.remI cu d a b) := shape_one _ _ _ _ rfl rfl rfl
theorem Shape.remN (cu : Cue) (d : BitVec 5) (a : BitVec 5) (b : BitVec 5) : Shape.Statement (.remN cu d a b) := shape_one _ _ _ _ rfl rfl rfl
theorem Shape.addi (cu : Cue) (d : BitVec 5) (a : BitVec 5) (imm : BitVec 11) : Shape.Statement (.addi cu d a imm) := shape_one _ _ _ _ rfl rfl rfl
theorem Shape.shli (cu : Cue) (d : BitVec 5) (a : BitVec 5) (n : BitVec 5) : Shape.Statement (.shli cu d a n) := shape_one _ _ _ _ rfl rfl rfl
theorem Shape.shri (cu : Cue) (d : BitVec 5) (a : BitVec 5) (n : BitVec 5) : Shape.Statement (.shri cu d a n) := shape_one _ _ _ _ rfl rfl rfl
theorem Shape.srai (cu : Cue) (d : BitVec 5) (a : BitVec 5) (n : BitVec 5) : Shape.Statement (.srai cu d a n) := shape_one _ _ _ _ rfl rfl rfl
theorem Shape.li (cu : Cue) (d : BitVec 5) (imm : BitVec 32) : Shape.Statement (.li cu d imm) := shape_two _ _ _ _ _ rfl rfl rfl
theorem Shape.ctrRd (cu : Cue) (d : BitVec 5) (idx : BitVec 5) (hi : Bool) (fn : BitVec 6) : Shape.Statement (.ctrRd cu d idx hi fn) := shape_one _ _ _ _ rfl rfl rfl
theorem Shape.fadd (cu : Cue) (d : BitVec 5) (a : BitVec 5) (b : BitVec 5) (rnd : BitVec 2) : Shape.Statement (.fadd cu d a b rnd) := shape_one _ _ _ _ rfl rfl rfl
theorem Shape.fsub (cu : Cue) (d : BitVec 5) (a : BitVec 5) (b : BitVec 5) (rnd : BitVec 2) : Shape.Statement (.fsub cu d a b rnd) := shape_one _ _ _ _ rfl rfl rfl
theorem Shape.fmul (cu : Cue) (d : BitVec 5) (a : BitVec 5) (b : BitVec 5) (rnd : BitVec 2) : Shape.Statement (.fmul cu d a b rnd) := shape_one _ _ _ _ rfl rfl rfl
theorem Shape.fmin (cu : Cue) (d : BitVec 5) (a : BitVec 5) (b : BitVec 5) : Shape.Statement (.fmin cu d a b) := shape_one _ _ _ _ rfl rfl rfl
theorem Shape.fmax (cu : Cue) (d : BitVec 5) (a : BitVec 5) (b : BitVec 5) : Shape.Statement (.fmax cu d a b) := shape_one _ _ _ _ rfl rfl rfl
theorem Shape.fcmpEq (cu : Cue) (d : BitVec 5) (a : BitVec 5) (b : BitVec 5) : Shape.Statement (.fcmpEq cu d a b) := shape_one _ _ _ _ rfl rfl rfl
theorem Shape.fcmpLt (cu : Cue) (d : BitVec 5) (a : BitVec 5) (b : BitVec 5) : Shape.Statement (.fcmpLt cu d a b) := shape_one _ _ _ _ rfl rfl rfl
theorem Shape.fcmpLe (cu : Cue) (d : BitVec 5) (a : BitVec 5) (b : BitVec 5) : Shape.Statement (.fcmpLe cu d a b) := shape_one _ _ _ _ rfl rfl rfl
theorem Shape.fcmpUn (cu : Cue) (d : BitVec 5) (a : BitVec 5) (b : BitVec 5) : Shape.Statement (.fcmpUn cu d a b) := shape_one _ _ _ _ rfl rfl rfl
theorem Shape.fsgn (cu : Cue) (d : BitVec 5) (a : BitVec 5) (b : BitVec 5) : Shape.Statement (.fsgn cu d a b) := shape_one _ _ _ _ rfl rfl rfl
theorem Shape.fsgnN (cu : Cue) (d : BitVec 5) (a : BitVec 5) (b : BitVec 5) : Shape.Statement (.fsgnN cu d a b) := shape_one _ _ _ _ rfl rfl rfl
theorem Shape.fsgnX (cu : Cue) (d : BitVec 5) (a : BitVec 5) (b : BitVec 5) : Shape.Statement (.fsgnX cu d a b) := shape_one _ _ _ _ rfl rfl rfl
theorem Shape.fcvtI32F32 (cu : Cue) (d : BitVec 5) (a : BitVec 5) (rnd : BitVec 2) : Shape.Statement (.fcvtI32F32 cu d a rnd) := shape_one _ _ _ _ rfl rfl rfl
theorem Shape.fcvtN32F32 (cu : Cue) (d : BitVec 5) (a : BitVec 5) (rnd : BitVec 2) : Shape.Statement (.fcvtN32F32 cu d a rnd) := shape_one _ _ _ _ rfl rfl rfl
theorem Shape.fcvtF32I32 (cu : Cue) (d : BitVec 5) (a : BitVec 5) (rnd : BitVec 2) : Shape.Statement (.fcvtF32I32 cu d a rnd) := shape_one _ _ _ _ rfl rfl rfl
theorem Shape.fcvtF32N32 (cu : Cue) (d : BitVec 5) (a : BitVec 5) (rnd : BitVec 2) : Shape.Statement (.fcvtF32N32 cu d a rnd) := shape_one _ _ _ _ rfl rfl rfl
theorem Shape.fma (cu : Cue) (d : BitVec 5) (a : BitVec 5) (b : BitVec 5) (r : BitVec 2) (e : BitVec 5) : Shape.Statement (.fma cu d a b r e) := shape_two _ _ _ _ _ rfl rfl rfl
theorem Shape.fdiv (cu : Cue) (d : BitVec 5) (a : BitVec 5) (b : BitVec 5) (rnd : BitVec 2) : Shape.Statement (.fdiv cu d a b rnd) := shape_one _ _ _ _ rfl rfl rfl
theorem Shape.fsqrt (cu : Cue) (d : BitVec 5) (a : BitVec 5) (rnd : BitVec 2) : Shape.Statement (.fsqrt cu d a rnd) := shape_one _ _ _ _ rfl rfl rfl
theorem Shape.fsqrtCk (cu : Cue) (d : BitVec 5) (a : BitVec 5) (rnd : BitVec 2) (c : BitVec 2) : Shape.Statement (.fsqrtCk cu d a rnd c) := shape_one _ _ _ _ rfl rfl rfl
theorem Shape.frsq (cu : Cue) (d : BitVec 5) (a : BitVec 5) (rnd : BitVec 2) : Shape.Statement (.frsq cu d a rnd) := shape_one _ _ _ _ rfl rfl rfl
theorem Shape.aadd (cu : Cue) (d : BitVec 5) (a : BitVec 5) (b : BitVec 5) : Shape.Statement (.aadd cu d a b) := shape_one _ _ _ _ rfl rfl rfl
theorem Shape.aaddi (cu : Cue) (d : BitVec 5) (a : BitVec 5) (imm : BitVec 11) : Shape.Statement (.aaddi cu d a imm) := shape_one _ _ _ _ rfl rfl rfl
theorem Shape.aset (cu : Cue) (d : BitVec 5) (a : BitVec 5) (b : BitVec 5) : Shape.Statement (.aset cu d a b) := shape_one _ _ _ _ rfl rfl rfl
theorem Shape.agetLo (cu : Cue) (d : BitVec 5) (a : BitVec 5) : Shape.Statement (.agetLo cu d a) := shape_one _ _ _ _ rfl rfl rfl
theorem Shape.agetHi (cu : Cue) (d : BitVec 5) (a : BitVec 5) : Shape.Statement (.agetHi cu d a) := shape_one _ _ _ _ rfl rfl rfl
theorem Shape.vadd (cu : Cue) (d : BitVec 5) (a : BitVec 5) (b : BitVec 5) (t : BitVec 3) (p : BitVec 3) : Shape.Statement (.vadd cu d a b t p) := shape_one _ _ _ _ rfl rfl rfl
theorem Shape.vsub (cu : Cue) (d : BitVec 5) (a : BitVec 5) (b : BitVec 5) (t : BitVec 3) (p : BitVec 3) : Shape.Statement (.vsub cu d a b t p) := shape_one _ _ _ _ rfl rfl rfl
theorem Shape.vmul (cu : Cue) (d : BitVec 5) (a : BitVec 5) (b : BitVec 5) (t : BitVec 3) (p : BitVec 3) : Shape.Statement (.vmul cu d a b t p) := shape_one _ _ _ _ rfl rfl rfl
theorem Shape.vfma (cu : Cue) (d : BitVec 5) (a : BitVec 5) (b : BitVec 5) (t : BitVec 3) (p : BitVec 3) : Shape.Statement (.vfma cu d a b t p) := shape_one _ _ _ _ rfl rfl rfl
theorem Shape.vmin (cu : Cue) (d : BitVec 5) (a : BitVec 5) (b : BitVec 5) (t : BitVec 3) (p : BitVec 3) : Shape.Statement (.vmin cu d a b t p) := shape_one _ _ _ _ rfl rfl rfl
theorem Shape.vmax (cu : Cue) (d : BitVec 5) (a : BitVec 5) (b : BitVec 5) (t : BitVec 3) (p : BitVec 3) : Shape.Statement (.vmax cu d a b t p) := shape_one _ _ _ _ rfl rfl rfl
theorem Shape.vabs (cu : Cue) (d : BitVec 5) (a : BitVec 5) (t : BitVec 3) (p : BitVec 3) : Shape.Statement (.vabs cu d a t p) := shape_one _ _ _ _ rfl rfl rfl
theorem Shape.vneg (cu : Cue) (d : BitVec 5) (a : BitVec 5) (t : BitVec 3) (p : BitVec 3) : Shape.Statement (.vneg cu d a t p) := shape_one _ _ _ _ rfl rfl rfl
theorem Shape.vmov (cu : Cue) (d : BitVec 5) (a : BitVec 5) (t : BitVec 3) (p : BitVec 3) : Shape.Statement (.vmov cu d a t p) := shape_one _ _ _ _ rfl rfl rfl
theorem Shape.vexp2 (cu : Cue) (d : BitVec 5) (a : BitVec 5) (t : BitVec 3) (p : BitVec 3) : Shape.Statement (.vexp2 cu d a t p) := shape_one _ _ _ _ rfl rfl rfl
theorem Shape.vlog2 (cu : Cue) (d : BitVec 5) (a : BitVec 5) (t : BitVec 3) (p : BitVec 3) : Shape.Statement (.vlog2 cu d a t p) := shape_one _ _ _ _ rfl rfl rfl
theorem Shape.vrcp (cu : Cue) (d : BitVec 5) (a : BitVec 5) (t : BitVec 3) (p : BitVec 3) : Shape.Statement (.vrcp cu d a t p) := shape_one _ _ _ _ rfl rfl rfl
theorem Shape.vrsq (cu : Cue) (d : BitVec 5) (a : BitVec 5) (t : BitVec 3) (p : BitVec 3) : Shape.Statement (.vrsq cu d a t p) := shape_one _ _ _ _ rfl rfl rfl
theorem Shape.vsig (cu : Cue) (d : BitVec 5) (a : BitVec 5) (t : BitVec 3) (p : BitVec 3) : Shape.Statement (.vsig cu d a t p) := shape_one _ _ _ _ rfl rfl rfl
theorem Shape.vlogic (cu : Cue) (d : BitVec 5) (a : BitVec 5) (b : BitVec 5) (t : BitVec 3) (p : BitVec 3) (lut : BitVec 4) : Shape.Statement (.vlogic cu d a b t p lut) := shape_two _ _ _ _ _ rfl rfl rfl
theorem Shape.vshl (cu : Cue) (d : BitVec 5) (a : BitVec 5) (b : BitVec 5) (t : BitVec 3) (p : BitVec 3) : Shape.Statement (.vshl cu d a b t p) := shape_one _ _ _ _ rfl rfl rfl
theorem Shape.vshr (cu : Cue) (d : BitVec 5) (a : BitVec 5) (b : BitVec 5) (t : BitVec 3) (p : BitVec 3) : Shape.Statement (.vshr cu d a b t p) := shape_one _ _ _ _ rfl rfl rfl
theorem Shape.vsra (cu : Cue) (d : BitVec 5) (a : BitVec 5) (b : BitVec 5) (t : BitVec 3) (p : BitVec 3) : Shape.Statement (.vsra cu d a b t p) := shape_one _ _ _ _ rfl rfl rfl
theorem Shape.vcmp (cu : Cue) (d : BitVec 5) (a : BitVec 5) (b : BitVec 5) (t : BitVec 3) (p : BitVec 3) (cond : BitVec 3) : Shape.Statement (.vcmp cu d a b t p cond) := shape_two _ _ _ _ _ rfl rfl rfl
theorem Shape.vsel (cu : Cue) (d : BitVec 5) (a : BitVec 5) (b : BitVec 5) (t : BitVec 3) (p : BitVec 3) : Shape.Statement (.vsel cu d a b t p) := shape_one _ _ _ _ rfl rfl rfl
theorem Shape.vsplat (cu : Cue) (d : BitVec 5) (a : BitVec 5) (t : BitVec 3) (p : BitVec 3) : Shape.Statement (.vsplat cu d a t p) := shape_one _ _ _ _ rfl rfl rfl
theorem Shape.vext (cu : Cue) (d : BitVec 5) (a : BitVec 5) (t : BitVec 3) (imm : BitVec 11) (r : Bool) (k : BitVec 5) : Shape.Statement (.vext cu d a t imm r k) := shape_two _ _ _ _ _ rfl rfl rfl
theorem Shape.vins (cu : Cue) (d : BitVec 5) (a : BitVec 5) (t : BitVec 3) (imm : BitVec 11) (r : Bool) (k : BitVec 5) : Shape.Statement (.vins cu d a t imm r k) := shape_two _ _ _ _ _ rfl rfl rfl
theorem Shape.viota (cu : Cue) (d : BitVec 5) (a : BitVec 5) (b : BitVec 5) (t : BitVec 3) (p : BitVec 3) : Shape.Statement (.viota cu d a b t p) := shape_one _ _ _ _ rfl rfl rfl
theorem Shape.vperm (cu : Cue) (d : BitVec 5) (a : BitVec 5) (b : BitVec 5) (t : BitVec 3) (p : BitVec 3) : Shape.Statement (.vperm cu d a b t p) := shape_one _ _ _ _ rfl rfl rfl
theorem Shape.vshuf (cu : Cue) (d : BitVec 5) (a : BitVec 5) (b : BitVec 5) (t : BitVec 3) (p : BitVec 3) (pat : BitVec 3) : Shape.Statement (.vshuf cu d a b t p pat) := shape_two _ _ _ _ _ rfl rfl rfl
theorem Shape.vslide (cu : Cue) (d : BitVec 5) (a : BitVec 5) (b : BitVec 5) (t : BitVec 3) (p : BitVec 3) (imm : BitVec 11) (r : Bool) (k : BitVec 5) (up : Bool) : Shape.Statement (.vslide cu d a b t p imm r k up) := shape_two _ _ _ _ _ rfl rfl rfl
theorem Shape.vcvt (cu : Cue) (d : BitVec 5) (a : BitVec 5) (t : BitVec 3) (p : BitVec 3) (fs : BitVec 4) (fd : BitVec 4) (rnd : BitVec 2) (ds : Bool) : Shape.Statement (.vcvt cu d a t p fs fd rnd ds) := shape_two _ _ _ _ _ rfl rfl rfl
theorem Shape.vwiden (cu : Cue) (d : BitVec 5) (a : BitVec 5) (p : BitVec 3) (fs : BitVec 4) (fd : BitVec 4) (rnd : BitVec 2) : Shape.Statement (.vwiden cu d a p fs fd rnd) := shape_two _ _ _ _ _ rfl rfl rfl
theorem Shape.vnarrow (cu : Cue) (d : BitVec 5) (a : BitVec 5) (p : BitVec 3) (fs : BitVec 4) (fd : BitVec 4) (rnd : BitVec 2) (ds : Bool) : Shape.Statement (.vnarrow cu d a p fs fd rnd ds) := shape_two _ _ _ _ _ rfl rfl rfl
theorem Shape.vscl (cu : Cue) (d : BitVec 5) (a : BitVec 5) (b : BitVec 5) (fmt : BitVec 4) (setm : Bool) : Shape.Statement (.vscl cu d a b fmt setm) := shape_two _ _ _ _ _ rfl rfl rfl
theorem Shape.vscld (cu : Cue) (d : BitVec 5) (a : BitVec 5) (b : BitVec 5) (setm : Bool) : Shape.Statement (.vscld cu d a b setm) := shape_two _ _ _ _ _ rfl rfl rfl
theorem Shape.vredsum (cu : Cue) (d : BitVec 5) (a : BitVec 5) (t : BitVec 3) (p : BitVec 3) (rnd : BitVec 2) (o : Bool) : Shape.Statement (.vredsum cu d a t p rnd o) := shape_two _ _ _ _ _ rfl rfl rfl
theorem Shape.vredmax (cu : Cue) (d : BitVec 5) (a : BitVec 5) (t : BitVec 3) (p : BitVec 3) : Shape.Statement (.vredmax cu d a t p) := shape_one _ _ _ _ rfl rfl rfl
theorem Shape.vredmin (cu : Cue) (d : BitVec 5) (a : BitVec 5) (t : BitVec 3) (p : BitVec 3) : Shape.Statement (.vredmin cu d a t p) := shape_one _ _ _ _ rfl rfl rfl
theorem Shape.vdot (cu : Cue) (d : BitVec 5) (a : BitVec 5) (b : BitVec 5) (p : BitVec 3) (fs : BitVec 4) (lg : BitVec 4) (rnd : BitVec 2) (o : Bool) : Shape.Statement (.vdot cu d a b p fs lg rnd o) := shape_two _ _ _ _ _ rfl rfl rfl
theorem Shape.vsortkv (cu : Cue) (d : BitVec 5) (a : BitVec 5) (b : BitVec 5) (t : BitVec 3) (p : BitVec 3) (desc : Bool) (uns : Bool) : Shape.Statement (.vsortkv cu d a b t p desc uns) := shape_two _ _ _ _ _ rfl rfl rfl
theorem Shape.vsegsum (cu : Cue) (d : BitVec 5) (a : BitVec 5) (b : BitVec 5) (t : BitVec 3) (p : BitVec 3) (rnd : BitVec 2) (o : Bool) : Shape.Statement (.vsegsum cu d a b t p rnd o) := shape_two _ _ _ _ _ rfl rfl rfl
theorem Shape.vcmprs (cu : Cue) (d : BitVec 5) (a : BitVec 5) (t : BitVec 3) (p : BitVec 3) : Shape.Statement (.vcmprs cu d a t p) := shape_one _ _ _ _ rfl rfl rfl
theorem Shape.smxStep (cu : Cue) (d : BitVec 5) (a : BitVec 5) (b : BitVec 5) (p : BitVec 3) (lg : BitVec 3) (init : Bool) (bf : Bool) : Shape.Statement (.smxStep cu d a b p lg init bf) := shape_two _ _ _ _ _ rfl rfl rfl
theorem Shape.smxFin (cu : Cue) (d : BitVec 5) (a : BitVec 5) (b : BitVec 5) (p : BitVec 3) (j : BitVec 5) (scl : Bool) : Shape.Statement (.smxFin cu d a b p j scl) := shape_two _ _ _ _ _ rfl rfl rfl
theorem Shape.plogic (cu : Cue) (d : BitVec 5) (a : BitVec 5) (b : BitVec 5) (p : BitVec 3) (lut : BitVec 4) : Shape.Statement (.plogic cu d a b p lut) := shape_two _ _ _ _ _ rfl rfl rfl
theorem Shape.pany (cu : Cue) (d : BitVec 5) (a : BitVec 5) (t : BitVec 3) (p : BitVec 3) : Shape.Statement (.pany cu d a t p) := shape_one _ _ _ _ rfl rfl rfl
theorem Shape.pall (cu : Cue) (d : BitVec 5) (a : BitVec 5) (t : BitVec 3) (p : BitVec 3) : Shape.Statement (.pall cu d a t p) := shape_one _ _ _ _ rfl rfl rfl
theorem Shape.pcnt (cu : Cue) (d : BitVec 5) (a : BitVec 5) (t : BitVec 3) (p : BitVec 3) : Shape.Statement (.pcnt cu d a t p) := shape_one _ _ _ _ rfl rfl rfl
theorem Shape.pfirst (cu : Cue) (d : BitVec 5) (a : BitVec 5) (t : BitVec 3) (p : BitVec 3) : Shape.Statement (.pfirst cu d a t p) := shape_one _ _ _ _ rfl rfl rfl
theorem Shape.psetn (cu : Cue) (d : BitVec 5) (a : BitVec 5) (t : BitVec 3) (p : BitVec 3) : Shape.Statement (.psetn cu d a t p) := shape_one _ _ _ _ rfl rfl rfl
theorem Shape.spStat (cu : Cue) (d : BitVec 5) (a : BitVec 5) (b : BitVec 5) (m0 : BitVec 6) (mc : BitVec 7) (fs : BitVec 4) (fb : BitVec 4) (scl : Bool) (alm : Bool) : Shape.Statement (.spStat cu d a b m0 mc fs fb scl alm) := shape_two _ _ _ _ _ rfl rfl rfl
theorem Shape.spPlain (cu : Cue) (d : BitVec 5) (m0 : BitVec 6) (mc : BitVec 7) (g : Bool) : Shape.Statement (.spPlain cu d m0 mc g) := shape_two _ _ _ _ _ rfl rfl rfl
theorem Shape.mmFeed (cu : Cue) (d : BitVec 5) (a : BitVec 5) (b : BitVec 5) (fs : BitVec 4) (as : Bool) (alm : Bool) (w : BitVec 3) (n : BitVec 3) : Shape.Statement (.mmFeed cu d a b fs as alm w n) := shape_two _ _ _ _ _ rfl rfl rfl
theorem Shape.mmPass (cu : Cue) (d : BitVec 5) (a : BitVec 5) (kd : BitVec 3) (w : BitVec 3) (nv : BitVec 5) (row0 : BitVec 5) (f : Bool) : Shape.Statement (.mmPass cu d a kd w nv row0 f) := shape_two _ _ _ _ _ rfl rfl rfl
theorem Shape.mmTile (cu : Cue) (d : BitVec 5) (n : BitVec 3) : Shape.Statement (.mmTile cu d n) := shape_one _ _ _ _ rfl rfl rfl
theorem Shape.mmZero (cu : Cue) (d : BitVec 5) : Shape.Statement (.mmZero cu d) := shape_one _ _ _ _ rfl rfl rfl
theorem Shape.mmDrain (cu : Cue) (d : BitVec 5) (a : BitVec 5) (b : BitVec 5) (tile : BitVec 3) (fd : BitVec 4) (rnd : BitVec 2) (ds : Bool) (alm : Bool) (row0 : BitVec 5) (nr : BitVec 5) : Shape.Statement (.mmDrain cu d a b tile fd rnd ds alm row0 nr) := shape_two _ _ _ _ _ rfl rfl rfl
theorem Shape.mmRd (cu : Cue) (d : BitVec 5) (a : BitVec 5) (b : BitVec 5) (tile : BitVec 3) (row : BitVec 5) (col : BitVec 8) (i : Bool) : Shape.Statement (.mmRd cu d a b tile row col i) := shape_two _ _ _ _ _ rfl rfl rfl
theorem Shape.ldSp (cu : Cue) (q : BitVec 5) (base : BitVec 5) (off : BitVec 9) : Shape.Statement (.ldSp cu q base off) := shape_one _ _ _ _ rfl rfl rfl
theorem Shape.stSp (cu : Cue) (base : BitVec 5) (off : BitVec 9) : Shape.Statement (.stSp cu base off) := shape_one _ _ _ _ rfl rfl rfl
theorem Shape.bkAdd (cu : Cue) (d : BitVec 5) (a : BitVec 5) (b : BitVec 5) (nb : BitVec 6) (ft : BitVec 4) (len : BitVec 11) (rnd : BitVec 2) : Shape.Statement (.bkAdd cu d a b nb ft len rnd) := shape_two _ _ _ _ _ rfl rfl rfl
theorem Shape.bkMul (cu : Cue) (d : BitVec 5) (a : BitVec 5) (b : BitVec 5) (nb : BitVec 6) (ft : BitVec 4) (len : BitVec 11) (rnd : BitVec 2) : Shape.Statement (.bkMul cu d a b nb ft len rnd) := shape_two _ _ _ _ _ rfl rfl rfl
theorem Shape.bkFma (cu : Cue) (d : BitVec 5) (a : BitVec 5) (b : BitVec 5) (nb : BitVec 6) (ft : BitVec 4) (len : BitVec 11) (rnd : BitVec 2) : Shape.Statement (.bkFma cu d a b nb ft len rnd) := shape_two _ _ _ _ _ rfl rfl rfl
theorem Shape.bkMax (cu : Cue) (d : BitVec 5) (a : BitVec 5) (b : BitVec 5) (nb : BitVec 6) (ft : BitVec 4) (len : BitVec 11) : Shape.Statement (.bkMax cu d a b nb ft len) := shape_two _ _ _ _ _ rfl rfl rfl
theorem Shape.bkMin (cu : Cue) (d : BitVec 5) (a : BitVec 5) (b : BitVec 5) (nb : BitVec 6) (ft : BitVec 4) (len : BitVec 11) : Shape.Statement (.bkMin cu d a b nb ft len) := shape_two _ _ _ _ _ rfl rfl rfl
theorem Shape.bkScale (cu : Cue) (d : BitVec 5) (a : BitVec 5) (nb : BitVec 6) (ft : BitVec 4) (len : BitVec 11) (rnd : BitVec 2) (k : BitVec 5) : Shape.Statement (.bkScale cu d a nb ft len rnd k) := shape_two _ _ _ _ _ rfl rfl rfl
theorem Shape.bkExpsum (cu : Cue) (d : BitVec 5) (a : BitVec 5) (b : BitVec 5) (nb : BitVec 6) (ft : BitVec 4) (len : BitVec 11) (rnd : BitVec 2) (k : BitVec 5) (o : Bool) : Shape.Statement (.bkExpsum cu d a b nb ft len rnd k o) := shape_two _ _ _ _ _ rfl rfl rfl
theorem Shape.bkRed (cu : Cue) (d : BitVec 5) (a : BitVec 5) (nb : BitVec 6) (ft : BitVec 4) (len : BitVec 11) (rnd : BitVec 2) (op : BitVec 2) (acc : Bool) (o : Bool) : Shape.Statement (.bkRed cu d a nb ft len rnd op acc o) := shape_two _ _ _ _ _ rfl rfl rfl
theorem Shape.bkCvt (cu : Cue) (d : BitVec 5) (a : BitVec 5) (nb : BitVec 6) (ft : BitVec 4) (len : BitVec 11) (rnd : BitVec 2) (fs : BitVec 4) : Shape.Statement (.bkCvt cu d a nb ft len rnd fs) := shape_two _ _ _ _ _ rfl rfl rfl
theorem Shape.bkFill (cu : Cue) (d : BitVec 5) (nb : BitVec 6) (ft : BitVec 4) (len : BitVec 11) (k : BitVec 5) : Shape.Statement (.bkFill cu d nb ft len k) := shape_two _ _ _ _ _ rfl rfl rfl
theorem Shape.bkCopy (cu : Cue) (d : BitVec 5) (a : BitVec 5) (len : BitVec 11) : Shape.Statement (.bkCopy cu d a len) := shape_two _ _ _ _ _ rfl rfl rfl
theorem Shape.curtPrep (cu : Cue) (d : BitVec 5) (g : BitVec 4) : Shape.Statement (.curtPrep cu d g) := shape_one _ _ _ _ rfl rfl rfl
theorem Shape.curtWait (cu : Cue) (d : BitVec 5) (st : Bool) (tst : Bool) (g : BitVec 4) : Shape.Statement (.curtWait cu d st tst g) := shape_one _ _ _ _ rfl rfl rfl
theorem Shape.digRd (cu : Cue) (d : BitVec 5) (a : BitVec 5) (wt : Bool) (out : Bool) (w : BitVec 2) : Shape.Statement (.digRd cu d a wt out w) := shape_one _ _ _ _ rfl rfl rfl
theorem Shape.ld (cu : Cue) (q : BitVec 5) (base : BitVec 5) (hint : BitVec 2) (off : BitVec 9) : Shape.Statement (.ld cu q base hint off) := shape_one _ _ _ _ rfl rfl rfl
theorem Shape.lds (cu : Cue) (q : BitVec 5) (base : BitVec 5) (hint : BitVec 2) (off : BitVec 9) : Shape.Statement (.lds cu q base hint off) := shape_one _ _ _ _ rfl rfl rfl
theorem Shape.st (cu : Cue) (q : BitVec 5) (base : BitVec 5) (off : BitVec 9) : Shape.Statement (.st cu q base off) := shape_one _ _ _ _ rfl rfl rfl
theorem Shape.sts (cu : Cue) (q : BitVec 5) (base : BitVec 5) (f4 : BitVec 2) (off : BitVec 9) : Shape.Statement (.sts cu q base f4 off) := shape_one _ _ _ _ rfl rfl rfl
theorem Shape.gather (cu : Cue) (q : BitVec 5) (base : BitVec 5) (hint : BitVec 2) (off : BitVec 9) (idx : BitVec 5) (es : BitVec 2) (sh : BitVec 5) : Shape.Statement (.gather cu q base hint off idx es sh) := shape_two _ _ _ _ _ rfl rfl rfl
theorem Shape.scatter (cu : Cue) (q : BitVec 5) (base : BitVec 5) (off : BitVec 9) (idx : BitVec 5) (es : BitVec 2) (sh : BitVec 5) (o : Bool) : Shape.Statement (.scatter cu q base off idx es sh o) := shape_two _ _ _ _ _ rfl rfl rfl
theorem Shape.pf (cu : Cue) (q : BitVec 5) (base : BitVec 5) (hint : BitVec 2) (off : BitVec 9) : Shape.Statement (.pf cu q base hint off) := shape_one _ _ _ _ rfl rfl rfl
theorem Shape.cpy (cu : Cue) (q : BitVec 5) (base : BitVec 5) (off : BitVec 9) (dst : BitVec 4) (len : BitVec 5) : Shape.Statement (.cpy cu q base off dst len) := shape_two _ _ _ _ _ rfl rfl rfl
theorem Shape.cpy2d (cu : Cue) (q : BitVec 5) (base : BitVec 5) (off : BitVec 9) (dst : BitVec 4) (len : BitVec 5) (rows : BitVec 5) (ss : BitVec 5) (ds : BitVec 5) : Shape.Statement (.cpy2d cu q base off dst len rows ss ds) := shape_two _ _ _ _ _ rfl rfl rfl
theorem Shape.atOp (cu : Cue) (q : BitVec 5) (base : BitVec 5) (off : BitVec 9) (v : BitVec 5) (op : BitVec 3) (sc : BitVec 3) : Shape.Statement (.atOp cu q base off v op sc) := shape_two _ _ _ _ _ rfl rfl rfl
theorem Shape.cas (cu : Cue) (q : BitVec 5) (base : BitVec 5) (off : BitVec 9) (cr : BitVec 5) (n : BitVec 5) (sc : BitVec 3) : Shape.Statement (.cas cu q base off cr n sc) := shape_two _ _ _ _ _ rfl rfl rfl
theorem Shape.red (cu : Cue) (q : BitVec 5) (base : BitVec 5) (off : BitVec 9) (idx : BitVec 5) (op : BitVec 3) (v : Bool) (ix : Bool) (sh : BitVec 5) (sc : BitVec 3) (o : Bool) : Shape.Statement (.red cu q base off idx op v ix sh sc o) := shape_two _ _ _ _ _ rfl rfl rfl
theorem Shape.protSet (cu : Cue) (d : BitVec 5) (a : BitVec 5) (b : BitVec 5) (grp : BitVec 4) (pb : BitVec 4) (sr : BitVec 5) (ur : BitVec 5) (paired : Bool) (stall : Bool) : Shape.Statement (.protSet cu d a b grp pb sr ur paired stall) := shape_two _ _ _ _ _ rfl rfl rfl
theorem Shape.protClr (cu : Cue) (d : BitVec 5) : Shape.Statement (.protClr cu d) := shape_one _ _ _ _ rfl rfl rfl
theorem Shape.fenceAcq (cu : Cue) (sc : BitVec 3) : Shape.Statement (.fenceAcq cu sc) := shape_one _ _ _ _ rfl rfl rfl
theorem Shape.fenceRel (cu : Cue) (sc : BitVec 3) : Shape.Statement (.fenceRel cu sc) := shape_one _ _ _ _ rfl rfl rfl
theorem Shape.fenceAr (cu : Cue) (sc : BitVec 3) : Shape.Statement (.fenceAr cu sc) := shape_one _ _ _ _ rfl rfl rfl
theorem Shape.drain (cu : Cue) : Shape.Statement (.drain cu) := shape_one _ _ _ _ rfl rfl rfl
theorem Shape.ldacq (cu : Cue) (sc : BitVec 3) (q : BitVec 2) (base : BitVec 5) (hint : BitVec 2) (off : BitVec 9) : Shape.Statement (.ldacq cu sc q base hint off) := shape_one _ _ _ _ rfl rfl rfl
theorem Shape.strel (cu : Cue) (sc : BitVec 3) (q : BitVec 2) (base : BitVec 5) (off : BitVec 9) : Shape.Statement (.strel cu sc q base off) := shape_one _ _ _ _ rfl rfl rfl
theorem Shape.lqskip (cu : Cue) (d : BitVec 5) (n : BitVec 2) : Shape.Statement (.lqskip cu d n) := shape_one _ _ _ _ rfl rfl rfl
theorem Shape.colStart (cu : Cue) (d : BitVec 5) (a : BitVec 5) (b : BitVec 5) (n : BitVec 5) (kind : BitVec 2) (op : BitVec 3) (set : BitVec 4) (dg : Bool) (root : BitVec 6) (o : Bool) : Shape.Statement (.colStart cu d a b n kind op set dg root o) := shape_two _ _ _ _ _ rfl rfl rfl
theorem Shape.colWait (cu : Cue) (d : BitVec 5) (a : BitVec 5) (tst : Bool) : Shape.Statement (.colWait cu d a tst) := shape_one _ _ _ _ rfl rfl rfl
theorem Shape.flogOld (cu : Cue) (d : BitVec 5) (w : BitVec 3) : Shape.Statement (.flogOld cu d w) := shape_one _ _ _ _ rfl rfl rfl
theorem Shape.flogStat (cu : Cue) (d : BitVec 5) (clr : Bool) : Shape.Statement (.flogStat cu d clr) := shape_one _ _ _ _ rfl rfl rfl
theorem Shape.flogSeq (cu : Cue) (d : BitVec 5) (a : BitVec 5) (w : BitVec 3) : Shape.Statement (.flogSeq cu d a w) := shape_one _ _ _ _ rfl rfl rfl
theorem Shape.flogPop (cu : Cue) (d : BitVec 5) (a : BitVec 5) : Shape.Statement (.flogPop cu d a) := shape_one _ _ _ _ rfl rfl rfl
theorem Shape.actSpawn (cu : Cue) (a : BitVec 5) : Shape.Statement (.actSpawn cu a) := shape_one _ _ _ _ rfl rfl rfl
theorem Shape.actNext (cu : Cue) (d : BitVec 5) (a : BitVec 5) (b : BitVec 5) : Shape.Statement (.actNext cu d a b) := shape_one _ _ _ _ rfl rfl rfl
theorem Shape.actYield (cu : Cue) : Shape.Statement (.actYield cu) := shape_one _ _ _ _ rfl rfl rfl
theorem Shape.actEnd (cu : Cue) : Shape.Statement (.actEnd cu) := shape_one _ _ _ _ rfl rfl rfl
theorem Shape.lnch (cu : Cue) (d : BitVec 5) (a : BitVec 5) : Shape.Statement (.lnch cu d a) := shape_one _ _ _ _ rfl rfl rfl
theorem Shape.almW (cu : Cue) (a : BitVec 5) (b : BitVec 5) (e : BitVec 4) (ri : Bool) : Shape.Statement (.almW cu a b e ri) := shape_two _ _ _ _ _ rfl rfl rfl
theorem Shape.semSig (cu : Cue) (a : BitVec 5) (b : BitVec 5) (sc : BitVec 3) : Shape.Statement (.semSig cu a b sc) := shape_one _ _ _ _ rfl rfl rfl
theorem Shape.semSigSet (cu : Cue) (a : BitVec 5) (b : BitVec 5) (sc : BitVec 3) : Shape.Statement (.semSigSet cu a b sc) := shape_one _ _ _ _ rfl rfl rfl
theorem Shape.semWait (cu : Cue) (a : BitVec 5) (b : BitVec 5) (sc : BitVec 3) (imm : BitVec 26) (i : Bool) : Shape.Statement (.semWait cu a b sc imm i) := shape_two _ _ _ _ _ rfl rfl rfl
theorem Shape.semRd (cu : Cue) (d : BitVec 5) (a : BitVec 5) (sc : BitVec 3) : Shape.Statement (.semRd cu d a sc) := shape_one _ _ _ _ rfl rfl rfl
theorem Shape.cwait (cu : Cue) (a : BitVec 5) (ch : BitVec 3) : Shape.Statement (.cwait cu a ch) := shape_one _ _ _ _ rfl rfl rfl
theorem Shape.illop (w : Word) (x : Word) : Shape.Statement (.illop w x) := .inl rfl
theorem Shape.backEdgeDecision (e : Engine) : Shape.Statement (.backEdgeDecision e) := .inl rfl
theorem Shape.instructionComplete (e : Engine) : Shape.Statement (.instructionComplete e) := .inl rfl
theorem Shape.heldOperationLeave (e : Engine) : Shape.Statement (.heldOperationLeave e) := .inl rfl
theorem Shape.hubOperationPerform (e : Engine) : Shape.Statement (.hubOperationPerform e) := .inl rfl
theorem Shape.generationAdvance (e : Engine) : Shape.Statement (.generationAdvance e) := .inl rfl
theorem Shape.semSignalPerform (e : Engine) : Shape.Statement (.semSignalPerform e) := .inl rfl
theorem Shape.semWaitYieldTest (e : Engine) : Shape.Statement (.semWaitYieldTest e) := .inl rfl
theorem Shape.intermissionRequest (hard : Bool) : Shape.Statement (.intermissionRequest hard) := .inl rfl
theorem Shape.priorityWaitExpiry (die : Nat) (prio : Nat) : Shape.Statement (.priorityWaitExpiry die prio) := .inl rfl
theorem Shape.stealRequest (thief : Nat) : Shape.Statement (.stealRequest thief) := .inl rfl
theorem Shape.upsetReport (back : Nat) : Shape.Statement (.upsetReport back) := .inl rfl
theorem Shape.bankCommandStart (bank : Nat) : Shape.Statement (.bankCommandStart bank) := .inl rfl
theorem Shape.copySectorTransfer (ch : Nat) : Shape.Statement (.copySectorTransfer ch) := .inl rfl
theorem Shape.collectivePerform (ctx : Nat) (set : Nat) (peers : List ColPeer) (far : ColFar) : Shape.Statement (.collectivePerform ctx set peers far) := .inl rfl
theorem Shape.digestMessage (ctx : Nat) (set : Nat) (pos : Nat) (member : Nat) (digest : BitVec 128) : Shape.Statement (.digestMessage ctx set pos member digest) := .inl rfl
theorem Shape.tlbMissWalk (ctx : Nat) (va : DWord) : Shape.Statement (.tlbMissWalk ctx va) := .inl rfl
theorem Shape.cowResolution (ctx : Nat) (va : DWord) (page : Option (BitVec 52 × List SavedSector)) : Shape.Statement (.cowResolution ctx va page) := .inl rfl
theorem Shape.invalidation (ctx : Nat) (lo : Nat) (hi : Nat) : Shape.Statement (.invalidation ctx lo hi) := .inl rfl
theorem Shape.contextCreation (ctx : Nat) (ttb : BitVec 52) (fabric : List Nat) (routes : List (List Nat)) (self : Nat) (store : StoreArea) : Shape.Statement (.contextCreation ctx ttb fabric routes self store) := .inl rfl
theorem Shape.ringRegistration (q : Nat) (ctx : Nat) (cls : Nat) (size : Nat) (base : Nat) : Shape.Statement (.ringRegistration q ctx cls size base) := .inl rfl
theorem Shape.doorbell (q : Nat) (tail : Word) : Shape.Statement (.doorbell q tail) := .inl rfl
theorem Shape.slotMapping (q : Nat) : Shape.Statement (.slotMapping q) := .inl rfl
theorem Shape.launch (src : LaunchSrc) : Shape.Statement (.launch src) := .inl rfl
theorem Shape.level (src : LaunchSrc) : Shape.Statement (.level src) := .inl rfl
theorem Shape.fence (src : LaunchSrc) : Shape.Statement (.fence src) := .inl rfl
theorem Shape.cancel (src : LaunchSrc) : Shape.Statement (.cancel src) := .inl rfl
theorem Shape.cancelComplete (src : LaunchSrc) : Shape.Statement (.cancelComplete src) := .inl rfl
theorem Shape.startBarrier (id : Nat) (gens : List Word) (lost : Bool) : Shape.Statement (.startBarrier id gens lost) := .inl rfl
theorem Shape.launchCompletion (id : Nat) : Shape.Statement (.launchCompletion id) := .inl rfl
theorem Shape.codingGroupConfig (ctx : Nat) (grp : Nat) (cfg : Option GroupCfg) : Shape.Statement (.codingGroupConfig ctx grp cfg) := .inl rfl
theorem Shape.replicaConfig (ctx : Nat) (set : Nat) (cfg : Option ReplicaCfg) : Shape.Statement (.replicaConfig ctx set cfg) := .inl rfl
theorem Shape.keyTableWrite (idx : Nat) (bound : Bool) (mask : DWord) (keys : BitVec 512) : Shape.Statement (.keyTableWrite idx bound mask keys) := .inl rfl
theorem Shape.sceneLoad (ctx : Nat) (image : List Byte) : Shape.Statement (.sceneLoad ctx image) := .inl rfl
theorem Shape.registerWrite (reg : RegTarget) (v : DWord) : Shape.Statement (.registerWrite reg v) := .inl rfl
theorem Shape.delta (ctx : Nat) (grp : Nat) (member : Nat) (entry : Nat) (sector : Nat) (syms : List Byte) : Shape.Statement (.delta ctx grp member entry sector syms) := .inl rfl
theorem Shape.deltaAck (ctx : Nat) (grp : Nat) (member : Nat) : Shape.Statement (.deltaAck ctx grp member) := .inl rfl
theorem Shape.endOfDeltas (ctx : Nat) (grp : Nat) (member : Nat) : Shape.Statement (.endOfDeltas ctx grp member) := .inl rfl
theorem Shape.staged (ctx : Nat) (grp : Nat) (member : Nat) (round : Word) : Shape.Statement (.staged ctx grp member round) := .inl rfl
theorem Shape.abort (ctx : Nat) (grp : Nat) (msg : AbortMsg) : Shape.Statement (.abort ctx grp msg) := .inl rfl
theorem Shape.exch (ctx : Nat) (grp : Nat) (member : Nat) (round : Word) (epoch : BitVec 16) (dec : Bool) : Shape.Statement (.exch ctx grp member round epoch dec) := .inl rfl
theorem Shape.applyDone (ctx : Nat) (grp : Nat) : Shape.Statement (.applyDone ctx grp) := .inl rfl
theorem Shape.rollbackDone (ctx : Nat) (grp : Nat) : Shape.Statement (.rollbackDone ctx grp) := .inl rfl
theorem Shape.rebuild (ctx : Nat) (grp : Nat) (part : RebuildPart) : Shape.Statement (.rebuild ctx grp part) := .inl rfl
theorem Shape.rebuildComplete (ctx : Nat) (grp : Nat) (take : Rebuilt) : Shape.Statement (.rebuildComplete ctx grp take) := .inl rfl
theorem Shape.reopen (ctx : Nat) (grp : Nat) : Shape.Statement (.reopen ctx grp) := .inl rfl
theorem Shape.lossPoint (ctx : Nat) (peer : Nat) : Shape.Statement (.lossPoint ctx peer) := .inl rfl
theorem Shape.peerAccess (ctx : Nat) (peer : Nat) (core : Nat) (gens : List DWord) (key : Byte) (req : MemReq) : Shape.Statement (.peerAccess ctx peer core gens key req) := .inl rfl
theorem Shape.remoteResponse (ans : RemoteAns) : Shape.Statement (.remoteResponse ans) := .inl rfl
theorem Shape.hostRead (off : HostPlace) (len : Nat) : Shape.Statement (.hostRead off len) := .inl rfl
theorem Shape.hostWrite (off : Nat) (bytes : HostData) : Shape.Statement (.hostWrite off bytes) := .inl rfl
theorem Shape.energyAccrual (die : Nat) (uj : Nat) (shares : List (Nat × Nat)) : Shape.Statement (.energyAccrual die uj shares) := .inl rfl
theorem Shape.creditRefill (ctx : Nat) (die : Nat) (mj : Nat) : Shape.Statement (.creditRefill ctx die mj) := .inl rfl
theorem Shape.sceneUnload (ctx : Nat) (id : Word) : Shape.Statement (.sceneUnload ctx id) := .inl rfl
theorem Shape.coreReplacement (phys : Option Nat) : Shape.Statement (.coreReplacement phys) := .inl rfl
theorem Shape.dirtyLineEviction (line : Nat) (bad : Bool) : Shape.Statement (.dirtyLineEviction line bad) := .inl rfl
theorem Shape.scrubRead (sector : Nat) (symbols : Nat) : Shape.Statement (.scrubRead sector symbols) := .inl rfl
theorem Shape.forcedRefresh (stack : Nat) (pc : Nat) : Shape.Statement (.forcedRefresh stack pc) := .inl rfl
theorem Shape.refresh (stack : Nat) (pc : Nat) : Shape.Statement (.refresh stack pc) := .inl rfl
theorem Shape.requestPromotion (stack : Nat) (pc : Nat) : Shape.Statement (.requestPromotion stack pc) := .inl rfl
theorem Shape.slotIdleExpiry (q : Nat) : Shape.Statement (.slotIdleExpiry q) := .inl rfl
theorem Shape.countingWindowEnd (stack : Option Nat) : Shape.Statement (.countingWindowEnd stack) := .inl rfl
theorem Shape.laneFailure (link : Nat) : Shape.Statement (.laneFailure link) := .inl rfl
theorem Shape.linkIdleTimeout (link : Nat) : Shape.Statement (.linkIdleTimeout link) := .inl rfl
theorem Shape.peerLossNotice (ctx : Nat) (peer : Nat) : Shape.Statement (.peerLossNotice ctx peer) := .inl rfl
theorem Shape.admtail (v : DWord) : Shape.Statement (.admtail v) := .inl rfl
theorem Shape.admbase (v : DWord) : Shape.Statement (.admbase v) := .inl rfl
theorem Shape.linkWidthChange (width : Nat) : Shape.Statement (.linkWidthChange width) := .inl rfl
theorem Shape.backInvalidateResponse (line : Nat) : Shape.Statement (.backInvalidateResponse line) := .inl rfl
theorem Shape.biasFlip (page : Nat) (device : Bool) : Shape.Statement (.biasFlip page device) := .inl rfl
theorem Shape.understudyNaming (ctx : Nat) (grp : Nat) (us : Option (Nat × Nat)) : Shape.Statement (.understudyNaming ctx grp us) := .inl rfl
theorem Shape.priorityClassWrite (cls : Nat) (min : Nat) : Shape.Statement (.priorityClassWrite cls min) := .inl rfl
theorem Shape.contextEnd (ctx : Nat) : Shape.Statement (.contextEnd ctx) := .inl rfl
theorem Shape.firmwareLoad (version : Word) (image : List Byte) (sig : List Byte) : Shape.Statement (.firmwareLoad version image sig) := .inl rfl
theorem Shape.attestationRequest (nonce : BitVec 256) : Shape.Statement (.attestationRequest nonce) := .inl rfl
theorem Shape.checkpoint (ctx : Nat) (ranges : SaveList) : Shape.Statement (.checkpoint ctx ranges) := .inl rfl
theorem Shape.restore (ctx : Nat) (sectors : List SavedSector) (rounds : List (Nat × Word)) : Shape.Statement (.restore ctx sectors rounds) := .inl rfl
theorem Shape.energyBudgetWrite (watts : Nat) : Shape.Statement (.energyBudgetWrite watts) := .inl rfl
theorem Shape.bringUp (fail : Option Nat) : Shape.Statement (.bringUp fail) := .inl rfl
theorem Shape.hostKeyWindowWrite (win : Nat) (key : BitVec 8) (en : Bool) : Shape.Statement (.hostKeyWindowWrite win key en) := .inl rfl
theorem Shape.slotWaitExpiry (q : Nat) : Shape.Statement (.slotWaitExpiry q) := .inl rfl
theorem Shape.linkLevelRetry (link : Nat) : Shape.Statement (.linkLevelRetry link) := .inl rfl
theorem Shape.cartenRetrainDone (link : Nat) : Shape.Statement (.cartenRetrainDone link) := .inl rfl
theorem Shape.cuePointPass : Shape.Statement .cuePointPass := .inl rfl
theorem Shape.actPlacement : Shape.Statement .actPlacement := .inl rfl
theorem Shape.actEndRendezvous : Shape.Statement .actEndRendezvous := .inl rfl
theorem Shape.actYieldRendezvous : Shape.Statement .actYieldRendezvous := .inl rfl
theorem Shape.fullImageSuspension : Shape.Statement .fullImageSuspension := .inl rfl
theorem Shape.regionExpiry : Shape.Statement .regionExpiry := .inl rfl
theorem Shape.stealRestExpiry : Shape.Statement .stealRestExpiry := .inl rfl
theorem Shape.slowResultDelivery : Shape.Statement .slowResultDelivery := .inl rfl
theorem Shape.deadlock : Shape.Statement .deadlock := .inl rfl
theorem Shape.globalWritePerform : Shape.Statement .globalWritePerform := .inl rfl
theorem Shape.globalLoadPerform : Shape.Statement .globalLoadPerform := .inl rfl
theorem Shape.atomicPerform : Shape.Statement .atomicPerform := .inl rfl
theorem Shape.reductionPerform : Shape.Statement .reductionPerform := .inl rfl
theorem Shape.brkResume : Shape.Statement .brkResume := .inl rfl
theorem Shape.hrel : Shape.Statement .hrel := .inl rfl
theorem Shape.hostReleaseComplete : Shape.Statement .hostReleaseComplete := .inl rfl
theorem Shape.hostLinkLoss : Shape.Statement .hostLinkLoss := .inl rfl
theorem Shape.handoverSwitch : Shape.Statement .handoverSwitch := .inl rfl
theorem Shape.thermalStop : Shape.Statement .thermalStop := .inl rfl
theorem Shape.powerLoss : Shape.Statement .powerLoss := .inl rfl
theorem Shape.hostLinkDown : Shape.Statement .hostLinkDown := .inl rfl
theorem Shape.hostLinkUp : Shape.Statement .hostLinkUp := .inl rfl
theorem Shape.hostRetrainDone : Shape.Statement .hostRetrainDone := .inl rfl
theorem Shape.correctedSramError : Shape.Statement .correctedSramError := .inl rfl

end Sys2Proof.Laws
end

