-- ==== Sys2Proof/Laws/Regs.lean ====
section
/-! SUPPORT. Laws of registers, tokens and slow results: read after write, and what the delivery of slow results, the pushes of
tokens, the start and the issue of an instruction leave alone. -/

namespace Sys2Proof.Machine

open Sys2Proof

/-! ### Registers of an engine -/

/-- A scalar register after a write of one. -/
theorem EngState.sreg_setS (x : EngState) (n m : BitVec 5) (v : Word) :
    (x.setS n v).sreg m = if m = n ∧ n ≠ 0 then v else x.sreg m := by
  have hlt : n.toNat < 32 := n.isLt
  by_cases hn : n = 0
  · have h2 : x.setS n v = x := by unfold EngState.setS; rw [if_pos hn]
    rw [h2, if_neg (fun h => h.2 hn)]
  · have h2 : x.setS n v = { x with s := vset x.s n.toNat v } := by unfold EngState.setS; rw [if_neg hn]
    rw [h2]
    unfold EngState.sreg
    by_cases hm : m = n
    · rw [hm, if_neg hn, if_pos ⟨rfl, hn⟩, vget_vset, if_pos ⟨rfl, hlt⟩]
    · have h1 : n.toNat ≠ m.toNat := fun h => hm (BitVec.eq_of_toNat_eq h.symm)
      rw [if_neg (c := m = n ∧ n ≠ 0) (fun h => hm h.1), vget_vset, if_neg (c := n.toNat = m.toNat ∧ _) (fun h => h1 h.1)]

/-- A flag after a write of one. -/
theorem EngState.flag_setFlag (x : EngState) (n m : BitVec 2) (v : Bool) :
    (x.setFlag n v).flag m = if m = n then v else x.flag m := by
  have hlt : n.toNat < 4 := n.isLt
  unfold EngState.flag EngState.setFlag
  by_cases hm : m = n
  · rw [hm, if_pos rfl, vget_vset, if_pos ⟨rfl, hlt⟩]
  · have h1 : n.toNat ≠ m.toNat := fun h => hm (BitVec.eq_of_toNat_eq h.symm)
    rw [if_neg hm, vget_vset, if_neg (fun h => h1 h.1)]

/-- A branch target after a write of one. -/
theorem EngState.target_setTarget (x : EngState) (n m : BitVec 2) (v : BitVec 13) :
    (x.setTarget n v).target m = if m = n then v else x.target m := by
  have hlt : n.toNat < 4 := n.isLt
  unfold EngState.target EngState.setTarget
  by_cases hm : m = n
  · rw [hm, if_pos rfl, vget_vset, if_pos ⟨rfl, hlt⟩]
  · have h1 : n.toNat ≠ m.toNat := fun h => hm (BitVec.eq_of_toNat_eq h.symm)
    rw [if_neg hm, vget_vset, if_neg (fun h => h1 h.1)]

/-- A loop level after a write of one. -/
theorem EngState.level_setLevel (x : EngState) (n m : BitVec 2) (v : LoopLevel) :
    (x.setLevel n v).level m = if m = n then v else x.level m := by
  have hlt : n.toNat < 4 := n.isLt
  unfold EngState.level EngState.setLevel
  by_cases hm : m = n
  · rw [hm, if_pos rfl, vget_vset, if_pos ⟨rfl, hlt⟩]
  · have h1 : n.toNat ≠ m.toNat := fun h => hm (BitVec.eq_of_toNat_eq h.symm)
    rw [if_neg hm, vget_vset, if_neg (fun h => h1 h.1)]

/-- A flag is no scalar register. -/
@[simp] theorem EngState.flag_setS (x : EngState) (n : BitVec 5) (v : Word) (m : BitVec 2) :
    (x.setS n v).flag m = x.flag m := by
  simp [EngState.flag]

/-- A scalar register is no flag. -/
@[simp] theorem EngState.sreg_setFlag (x : EngState) (n : BitVec 2) (v : Bool) (m : BitVec 5) :
    (x.setFlag n v).sreg m = x.sreg m := rfl

/-! ### Engines and tokens -/

/-- The live state with an engine put back is the live state. -/
@[simp] theorem Live.setEng_self (l : Live) (e : Engine) : l.setEng e (l.eng e) = l := by cases e <;> rfl

/-- The moving engine after a change of it. -/
@[simp] theorem State.modEng_eng (s : State) (f : EngState → EngState) : (s.modEng f).eng = f s.eng := by
  simp [State.eng]

/-- What tokens carry is no count. -/
@[simp] theorem Live.tokens_setTold (l : Live) (t : Told) (i : Nat) : (l.setTold t).tokens i = l.tokens i := rfl

/-- Popping what tokens carry leaves their counts. -/
@[simp] theorem Live.tokens_hear (l : Live) (e : Engine) (i n j : Nat) : (l.hear e i n).tokens j = l.tokens j := rfl

/-- A token queue after a count is set. -/
theorem Live.tokens_setTokens (l : Live) (i j n : Nat) :
    (l.setTokens i n).tokens j = if i = j ∧ i < 8 then n else l.tokens j := by
  simp only [Live.tokens, Live.setTokens, vget_vset]

/-- Tokens are no part of an engine. -/
@[simp] theorem Live.modEng_tokens (l : Live) (e : Engine) (f : EngState → EngState) (i : Nat) :
    (l.modEng e f).tokens i = l.tokens i := by
  simp [Live.tokens]

theorem fromPrevIdx_lt (e : Engine) : fromPrevIdx e < 8 := by cases e <;> decide
theorem fromNextIdx_lt (e : Engine) : fromNextIdx e < 8 := by cases e <;> decide
theorem toPrevIdx_lt (e : Engine) : toPrevIdx e < 8 := by cases e <;> decide
theorem toNextIdx_lt (e : Engine) : toNextIdx e < 8 := by cases e <;> decide
theorem fromPrevIdx_ne (e : Engine) : fromPrevIdx e ≠ fromNextIdx e := by cases e <;> decide
theorem toPrevIdx_ne (e : Engine) : toPrevIdx e ≠ toNextIdx e := by cases e <;> decide

/-! ### Slow results -/

/-- The delivery of a slow result changes the scalar registers and flags of X, FPFLAGS and the registers still awaited, and nothing
else. -/
theorem Live.deliver_eq (l : Live) (r : Slow) :
    l.deliver r = { l with ex := { l.ex with s := (l.deliver r).ex.s, c := (l.deliver r).ex.c },
                           fpflags := l.fpflags ||| r.flags, pendReg := (l.deliver r).pendReg } := by
  unfold Live.deliver EngState.setS
  by_cases h : r.dst = 0
  · simp only [if_pos h]; cases r.cflag <;> rfl
  · simp only [if_neg h]; cases r.cflag <;> rfl

/-- A run of deliveries changes the scalar registers and flags of X, FPFLAGS and the registers still awaited, and nothing else. -/
theorem Live.deliverAll_eq (rs : List Slow) : ∀ l : Live,
    rs.foldl Live.deliver l =
      { l with ex := { l.ex with s := (rs.foldl Live.deliver l).ex.s, c := (rs.foldl Live.deliver l).ex.c },
               fpflags := (rs.foldl Live.deliver l).fpflags, pendReg := (rs.foldl Live.deliver l).pendReg } := by
  induction rs with
  | nil => intro l; rfl
  | cons r rs ih =>
    intro l
    rw [List.foldl_cons, ih]
    conv => rhs; rw [ih]
    rw [Live.deliver_eq l r]

/-- A counted instruction changes pending slow results, the scalar registers and flags of X, FPFLAGS and the registers still awaited,
and nothing else. -/
theorem Live.countSlow_eq (l : Live) :
    l.countSlow = { l with ex := { l.ex with s := l.countSlow.ex.s, c := l.countSlow.ex.c },
                           fpflags := l.countSlow.fpflags, slow := l.countSlow.slow, pendReg := l.countSlow.pendReg } := by
  unfold Live.countSlow
  split
  · rfl
  · rw [Live.deliverAll_eq]

/-- With no slow result due, a counted instruction only counts. -/
theorem Live.countSlow_none (l : Live) (h : ∀ r ∈ l.slow, 1 < r.left) :
    l.countSlow = { l with slow := l.slow.map fun r => { r with left := r.left - 1 } } := by
  unfold Live.countSlow
  split
  · rename_i h1; simp [h1]; rw [← h1]
  · have h1 : (l.slow.filter fun r => decide (r.left ≤ 1)) = [] := by
      rw [List.filter_eq_nil_iff]; intro r hr; have := h r hr; simp; omega
    have h2 : (l.slow.filter fun r => decide (1 < r.left)) = l.slow := by
      rw [List.filter_eq_self]; intro r hr; have := h r hr; simp; omega
    simp only [h1, h2, List.foldl_nil]

/-! ### Pushes -/

/-- The pushes of an engine change its list of issued instructions and its two queues, and nothing else. -/
theorem Live.settle_eq (l : Live) (e : Engine) :
    l.settle e = { l.modEng e (fun x => { x with retire := ((l.settle e).eng e).retire }) with
                     tok := (l.settle e).tok, told := (l.settle e).told } := by
  unfold Live.settle
  split
  · rename_i h
    cases e <;> simp [Live.modEng, Live.setEng, Live.eng] at * <;> rfl
  · cases e <;> rfl

/-- The pushes of an engine reach its two queues only. -/
theorem Live.settle_tokens (l : Live) (e : Engine) (i : Nat) (h1 : i ≠ toPrevIdx e) (h2 : i ≠ toNextIdx e) :
    (l.settle e).tokens i = l.tokens i := by
  unfold Live.settle
  split
  · rfl
  · simp only [Live.tokens_setTokens, Live.modEng_tokens, Live.tokens_setTold]
    rw [if_neg (fun h => h2 h.1.symm), if_neg (fun h => h1 h.1.symm)]

end Sys2Proof.Machine
end

