-- ==== Sys2Proof/Laws/Shake.lean ====
section
/-! SUPPORT. The lengths of the hash function's lanes and outputs, so that no proof evaluates a permutation. -/

namespace Sys2Proof.Machine

open Sys2Proof

@[simp] theorem rowsAndConstant_length (rc : Nat) (a : List Nat) : (rowsAndConstant rc a).length = 25 := by
  simp [rowsAndConstant]

theorem permuteLanes_length (a : List Nat) (h : a.length = 25) : (permuteLanes a).length = 25 := by
  unfold permuteLanes
  generalize roundWords = rs
  induction rs generalizing a with
  | nil => exact h
  | cons rc rs ih => exact ih _ (rowsAndConstant_length rc _)

theorem absorb_length (rate n : Nat) : ∀ a m : List Nat, a.length = 25 → (absorb rate n a m).length = 25 := by
  induction n with
  | zero => intro a m h; exact h
  | succ n ih =>
    intro a m h
    exact ih _ _ (permuteLanes_length _ (by simp [xorBytes, lanesOfBytes, h]))

theorem shake32_length (rate : Nat) (m : List Nat) : (shake32 rate m).length = 32 := by
  have h := absorb_length rate ((padShake rate m).length / rate) (List.replicate 25 0) (padShake rate m) (by simp)
  show (((absorb rate ((padShake rate m).length / rate) (List.replicate 25 0) (padShake rate m)).take 4).flatMap bytesOfLane).length = 32
  generalize absorb rate ((padShake rate m).length / rate) (List.replicate 25 0) (padShake rate m) = x at h
  match x, h with
  | a :: b :: c :: d :: t, _ => rfl

@[simp] theorem shake128_length (m : List Byte) : (shake128 m).length = 32 := by simp [shake128, shake32_length]

@[simp] theorem shake256_length (m : List Byte) : (shake256 m).length = 32 := by simp [shake256, shake32_length]

end Sys2Proof.Machine
end

