-- ==== Sys2Proof/Laws/Vector.lean ====
section
/-! SUPPORT. What the shared operation of the vector instructions does: one lemma for an instruction whose operands are there,
and the type it works in. -/

namespace Sys2Proof.Machine

open Sys2Proof Sys2Proof.Safety

/-! ### What the reads of sources leave alone -/

/-- An operation that leaves the almanac entry of every engine alone. -/
def Live.SameAlment (l m : Live) : Prop := ∀ e, (m.eng e).alment = (l.eng e).alment

theorem Live.settle_alment (l : Live) (e : Engine) : l.SameAlment (l.settle e) := by
  intro f
  rw [Live.settle_eq]
  cases e <;> cases f <;> rfl

theorem Live.retireDone_alment (l : Live) (e : Engine) (n : Nat) : l.SameAlment (l.retireDone e n) := by
  intro f
  unfold Live.retireDone
  rw [Live.settle_alment]
  cases e <;> cases f <;> rfl

theorem Live.pushDrains_alment (ds : List (Nat × List VReg)) : ∀ l : Live, l.SameAlment (l.pushDrains ds) := by
  induction ds with
  | nil => intro l f; cases f <;> rfl
  | cons d ds ih =>
    intro l f
    obtain ⟨q, es⟩ := d
    unfold Live.pushDrains
    simp only
    split
    · rw [Live.retireDone_alment, ih]; cases f <;> rfl
    · cases f <;> rfl

theorem Live.pushDrain_alment (l : Live) : l.SameAlment l.pushDrain := by
  intro f
  unfold Live.pushDrain
  split
  · rfl
  · rw [Live.pushDrains_alment]

theorem Live.takeV_alment (l : Live) (f : BitVec 5) : l.SameAlment (l.takeV f).2.2 := by
  intro e
  unfold Live.takeV
  split
  · split <;> cases e <;> rfl
  · rfl

/-- Reading sources leaves the almanac entry of every engine alone. -/
theorem Live.takeAll_alment (fs : List (BitVec 5)) : ∀ l : Live, l.SameAlment (l.takeAll fs).2.2 := by
  induction fs with
  | nil => intro l; exact l.pushDrain_alment
  | cons f fs ih =>
    intro l e
    simp only [Live.takeAll]
    rw [ih, Live.takeV_alment]

/-- The entry that an instruction fixes at its start (R106). -/
theorem opened_alment (s : State) (cu : Cue) : (opened s cu).eng.alment = s.almNow.2 := by
  simp only [opened, State.begun, State.eng, State.modLive, State.setLive_live, State.setLive_cur]
  split
  · rw [if_neg (by decide), Live.countSlow_eq]
    rename_i h
    simp [h, Live.eng, Live.modEng, Live.setEng]
  · simp [Live.modEng]

/-! ### A vector instruction that can run -/

/-- The type check of an instruction whose type is legal passes. -/
theorem typeCheck_ok {s : State} {t : BitVec 3} {tys : List VTy} {ty : VTy} (h : Typed s t tys ty) :
    typeCheck t (fun x => tys.contains x) s = none := by
  obtain ⟨h1, ⟨h2, h3⟩ | ⟨h2, h3, h4⟩⟩ := h
  · rw [typeCheck, if_neg h2]
  · have h5 : almSmBad s.almNow.2 = false := by simp [almSmBad]; omega
    simp [typeCheck, h2, h5, h4, h1]

/-- The type of an instruction as its body finds it. -/
theorem ty_of_ready {s u : State} {op : BitVec 7} {cu : Cue} {uses srcs dsts : List (BitVec 5)} {vs : List VReg}
    {t : BitVec 3} {tys : List VTy} {ty : VTy} (hv : VecReady s op cu uses srcs dsts vs u) (h : Typed s t tys ty) :
    u.ty t = ty := by
  obtain ⟨h1, ⟨h2, h3⟩ | ⟨h2, h3, h4⟩⟩ := h
  · rw [State.ty, if_neg h2, h3]
  · have h5 : u.eng.alment = s.almNow.2 := by
      rw [← opened_alment s cu]
      obtain ⟨-, -, h6, h7⟩ := hv
      have h8 := Live.takeAll_alment srcs (opened s cu).core.live
      rw [h6] at h8
      rw [h7]
      simpa [State.eng] using h8 (opened s cu).cur
    simp [State.ty, h2, h5, h4]

/-- A vector instruction that can run completes with its effect. -/
theorem vecOp_ready {i : Instr} {cu : Cue} {op : BitVec 7} {uses srcs dsts : List (BitVec 5)} {alm : State → Option Trap}
    {f : List VReg → State → State} {s u : State} {vs : List VReg} (hv : VecReady s op cu uses srcs dsts vs u)
    (ha : alm s = none) :
    vecOp i cu op uses alm srcs dsts f s = .next (closed (f vs u) (if isWide op then 2 else 1) cu) := by
  obtain ⟨h1, h2, h3, h4⟩ := hv
  refine Issue.run_done (by exact h1) rfl rfl rfl ha rfl rfl ?_
  simp only [h2, h3]
  rw [← h4]

/-- The same with a check of the type, for an effect that depends on it. -/
theorem vecOp_typed {i : Instr} {cu : Cue} {op : BitVec 7} {uses srcs dsts : List (BitVec 5)} {t : BitVec 3}
    {tys : List VTy} {ty : VTy} {f : VTy → List VReg → State → State} {s : State} (h : Typed s t tys ty) :
    ∀ (vs : List VReg) (u : State), VecReady s op cu uses srcs dsts vs u →
      vecOp i cu op uses (typeCheck t fun x => tys.contains x) srcs dsts (fun vs s => f (s.ty t) vs s) s =
        .next (closed (f ty vs u) (if isWide op then 2 else 1) cu) := by
  intro vs u hv
  rw [vecOp_ready hv (typeCheck_ok h), ty_of_ready hv h]

end Sys2Proof.Machine
end

