-- ==== Sys2Proof/Laws/Xmss.lean ====
section
/-! SUPPORT. A signature that a tree makes leads back to the root of that tree, so it verifies under the tree's public key. -/

namespace Sys2Proof.Machine

open Sys2Proof

/-! ### Numbers as byte strings -/

@[simp] theorem bigEndian_length (n v : Nat) : (bigEndian n v).length = n := by simp [bigEndian]

theorem ofBigEndian_append (bs : List Byte) (b : Byte) : ofBigEndian (bs ++ [b]) = 256 * ofBigEndian bs + b.toNat := by
  simp [ofBigEndian]

theorem bigEndian_succ (n v : Nat) : bigEndian (n + 1) v = bigEndian n (v / 256) ++ [BitVec.ofNat 8 v] := by
  simp only [bigEndian, List.range_succ, List.map_append, List.map_cons, List.map_nil]
  congr 1
  · apply List.map_congr_left
    intro i hi
    rw [List.mem_range] at hi
    rw [show n + 1 - 1 - i = (n - 1 - i) + 1 by omega, Nat.pow_succ, Nat.mul_comm, Nat.div_div_eq_div_mul]
  · simp

/-- A number that fits n bytes is read back from them. -/
theorem ofBigEndian_bigEndian (n : Nat) : ∀ v : Nat, v < 256 ^ n → ofBigEndian (bigEndian n v) = v := by
  induction n with
  | zero => intro v h; simp at h; simp [bigEndian, ofBigEndian, h]
  | succ n ih =>
    intro v h
    rw [bigEndian_succ, ofBigEndian_append, ih (v / 256) (by rw [Nat.pow_succ] at h; omega)]
    simp only [BitVec.toNat_ofNat]
    omega

theorem ofBigEndian_lt (bs : List Byte) : ofBigEndian bs < 256 ^ bs.length := by
  rw [← List.reverse_reverse bs]
  induction bs.reverse with
  | nil => simp [ofBigEndian]
  | cons b bs ih =>
    rw [List.reverse_cons, ofBigEndian_append, List.length_append, List.length_singleton, Nat.pow_succ]
    have := b.isLt
    omega

/-- Bytes are written back from the number that they write. -/
theorem bigEndian_ofBigEndian (bs : List Byte) : bigEndian bs.length (ofBigEndian bs) = bs := by
  rw [← List.reverse_reverse bs]
  induction bs.reverse with
  | nil => rfl
  | cons b bs ih =>
    rw [List.reverse_cons, List.length_append, List.length_singleton, bigEndian_succ, ofBigEndian_append]
    have hb := b.isLt
    rw [show (256 * ofBigEndian bs.reverse + b.toNat) / 256 = ofBigEndian bs.reverse by omega, ih]
    congr 2
    apply BitVec.eq_of_toNat_eq
    simp only [BitVec.toNat_ofNat]
    omega

/-- So they are from a bit vector of their width. -/
theorem bigEndian_bitVec (bs : List Byte) (n w : Nat) (hn : bs.length = n) (hw : w = 8 * n) :
    bigEndian n (BitVec.ofNat w (ofBigEndian bs)).toNat = bs := by
  subst hn hw
  rw [BitVec.toNat_ofNat, Nat.mod_eq_of_lt, bigEndian_ofBigEndian]
  rw [Nat.pow_mul]
  exact ofBigEndian_lt bs

/-! ### Lengths -/

@[simp] theorem keyed_length (kind : Nat) (key m : List Byte) : (keyed kind key m).length = 32 := by simp [keyed]

@[simp] theorem pairHash_length (seed : List Byte) (a : HashAt) (l r : List Byte) : (pairHash seed a l r).length = 32 := by
  simp [pairHash]

theorem chainSteps_length (seed : List Byte) (leaf ch : Nat) : ∀ (n j : Nat) (x : List Byte), x.length = 32 →
    (chainSteps seed leaf ch n j x).length = 32 := by
  intro n
  induction n with
  | zero => intro j x h; exact h
  | succ n ih => intro j x _; exact ih _ _ (keyed_length _ _ _)

/-- Steps of a chain come one after another. -/
theorem chainSteps_add (seed : List Byte) (leaf ch m : Nat) : ∀ (n j : Nat) (x : List Byte),
    chainSteps seed leaf ch m (j + n) (chainSteps seed leaf ch n j x) = chainSteps seed leaf ch (n + m) j x := by
  intro n
  induction n with
  | zero => intro j x; simp [chainSteps]
  | succ n ih =>
    intro j x
    rw [show n + 1 + m = (n + m) + 1 by omega]
    simp only [chainSteps]
    rw [← ih (j + 1), show j + (n + 1) = j + 1 + n by omega]

/-- Every string of a list has 32 bytes. -/
def all32 (xs : List (List Byte)) : Prop := ∀ x ∈ xs, x.length = 32

theorem endsLevel_all32 (seed : List Byte) (leaf height : Nat) : ∀ (i : Nat) (xs : List (List Byte)), all32 xs →
    all32 (endsLevel seed leaf height i xs) := by
  intro i xs
  fun_induction endsLevel seed leaf height i xs with
  | case1 i l r rest ih =>
    intro h x hx
    rcases List.mem_cons.1 hx with rfl | hx
    · exact pairHash_length _ _ _ _
    · exact ih (fun y hy => h y (List.mem_cons_of_mem _ (List.mem_cons_of_mem _ hy))) x hx
  | case2 i rest _ => exact id

theorem endsLevel_ne (seed : List Byte) (leaf height i : Nat) (xs : List (List Byte)) (h : xs ≠ []) :
    endsLevel seed leaf height i xs ≠ [] := by
  match xs, h with
  | [x], _ => simp [endsLevel]
  | x :: y :: rest, _ => simp [endsLevel]

theorem leafNode_length (seed : List Byte) (leaf : Nat) (ends : List (List Byte)) (h : all32 ends) (hn : ends ≠ []) :
    (leafNode seed leaf ends).length = 32 := by
  unfold leafNode
  generalize List.range 7 = hs
  induction hs generalizing ends with
  | nil =>
    match ends, hn with
    | x :: _, _ => exact h x List.mem_cons_self
  | cons k hs ih => exact ih _ (endsLevel_all32 _ _ _ _ _ h) (endsLevel_ne _ _ _ _ _ hn)

@[simp] theorem TreeKey.starts_length (k : TreeKey) (leaf : Nat) : (k.starts leaf).length = 67 := by simp [TreeKey.starts]

theorem TreeKey.starts_all32 (k : TreeKey) (leaf : Nat) : all32 (k.starts leaf) := by
  intro x hx
  obtain ⟨i, -, rfl⟩ := List.mem_map.1 hx
  exact keyed_length _ _ _

theorem TreeKey.node_length (k : TreeKey) (h i : Nat) : (k.node h i).length = 32 := by
  cases h with
  | succ h => exact pairHash_length _ _ _ _
  | zero =>
    apply leafNode_length
    · intro x hx
      obtain ⟨⟨y, j⟩, hy, rfl⟩ := List.mem_map.1 hx
      exact chainSteps_length _ _ _ _ _ _ (k.starts_all32 i y (List.fst_mem_of_mem_zipIdx hy))
    · intro h0
      have := congrArg List.length h0
      simp at this

/-! ### Pieces -/

theorem pieces32_flatten (xs : List (List Byte)) (rest : List Byte) (h : all32 xs) : pieces32 xs.length (xs.flatten ++ rest) = xs := by
  induction xs with
  | nil => rfl
  | cons x xs ih =>
    have hx : x.length = 32 := h x List.mem_cons_self
    have ih := ih fun y hy => h y (List.mem_cons_of_mem _ hy)
    simp only [pieces32, List.length_cons, List.range_succ_eq_map, List.map_cons, List.map_map, List.flatten_cons, List.append_assoc]
    congr 1
    · simp [← hx]
    · refine Eq.trans ?_ ih
      simp only [pieces32]
      apply List.map_congr_left
      intro i _
      have : List.drop (32 * (i + 1)) (x ++ (xs.flatten ++ rest)) = List.drop (32 * i) (xs.flatten ++ rest) := by
        rw [show 32 * (i + 1) = x.length + 32 * i by omega, List.drop_append]
        simp
      show List.take 32 (List.drop (32 * (i + 1)) (x ++ (xs.flatten ++ rest))) = _
      rw [this]

/-! ### One-time signatures and paths -/

theorem chainDigits_length (d : List Byte) (h : d.length = 32) : (chainDigits d).length = 67 := by
  have : (d.flatMap fun b => [b.toNat / 16, b.toNat % 16]).length = 2 * d.length := by
    clear h
    induction d with
    | nil => rfl
    | cons b d ih => simp only [List.flatMap_cons, List.length_append, ih, List.length_cons, List.length_nil]; omega
  simp only [chainDigits, List.length_append, this, h, List.length_cons, List.length_nil]

theorem chainDigits_le (d : List Byte) : ∀ x ∈ chainDigits d, x ≤ 15 := by
  intro x hx
  simp only [chainDigits, List.mem_append, List.mem_flatMap, List.mem_cons, List.not_mem_nil, or_false] at hx
  rcases hx with ⟨b, -, h | h⟩ | h | h | h <;> first | omega | (have := b.isLt; omega)

/-- The chains of a one-time signature end where the chains of the key end. -/
theorem chainEnds_sign (seed : List Byte) (leaf : Nat) (d : List Byte) (hd : d.length = 32) (starts : List (List Byte))
    (hs : starts.length = 67) :
    chainEnds seed leaf ((List.zip starts (chainDigits d)).zipIdx.map fun x => chainSteps seed leaf x.2 x.1.2 0 x.1.1) d =
      starts.zipIdx.map fun x => chainSteps seed leaf x.2 15 0 x.1 := by
  have hl := chainDigits_length d hd
  apply List.ext_getElem
  · simp [chainEnds, hl, hs]
  · intro i h1 h2
    have hi : i < 67 := by simpa [hs] using h2
    have hx : (chainDigits d)[i]'(by omega) ≤ 15 := chainDigits_le d _ (List.getElem_mem _)
    simp only [chainEnds, List.getElem_map, List.getElem_zipIdx, List.getElem_zip, Nat.zero_add]
    have := chainSteps_add seed leaf i (15 - (chainDigits d)[i]'(by omega)) ((chainDigits d)[i]'(by omega)) 0 (starts[i]'(by omega))
    rw [Nat.zero_add, show (chainDigits d)[i]'(by omega) + (15 - (chainDigits d)[i]'(by omega)) = 15 by omega] at this
    exact this

/-- The path of a leaf leads from its node to the one above it. -/
theorem climb_path (k : TreeKey) (leaf : Nat) : ∀ (n h : Nat),
    climb k.seed leaf h (k.node h (leaf / 2 ^ h)) ((List.range' h n).map fun j => k.node j (Nat.xor (leaf / 2 ^ j) 1)) =
      k.node (h + n) (leaf / 2 ^ (h + n)) := by
  intro n
  induction n with
  | zero => intro h; simp [climb]
  | succ n ih =>
    intro h
    have step : (if leaf / 2 ^ h % 2 = 0 then
          pairHash k.seed ⟨2, 0, h, leaf / 2 ^ (h + 1)⟩ (k.node h (leaf / 2 ^ h)) (k.node h (Nat.xor (leaf / 2 ^ h) 1))
        else pairHash k.seed ⟨2, 0, h, leaf / 2 ^ (h + 1)⟩ (k.node h (Nat.xor (leaf / 2 ^ h) 1)) (k.node h (leaf / 2 ^ h))) =
        k.node (h + 1) (leaf / 2 ^ (h + 1)) := by
      have hd : leaf / 2 ^ (h + 1) = leaf / 2 ^ h / 2 := by rw [Nat.pow_succ, Nat.div_div_eq_div_mul]
      have hx : Nat.xor (leaf / 2 ^ h) 1 = if leaf / 2 ^ h % 2 = 0 then leaf / 2 ^ h + 1 else leaf / 2 ^ h - 1 := by
        generalize leaf / 2 ^ h = y
        show y ^^^ 1 = _
        have h2 : (y ^^^ 1) / 2 = y / 2 := by rw [Nat.xor_div_two]; simp
        have h3 : (y ^^^ 1) % 2 = (y % 2 + 1) % 2 := by
          have h := Nat.xor_mod_two_pow (a := y) (b := 1) (n := 1)
          rcases Nat.mod_two_eq_zero_or_one y with e | e <;> simp [e] at h ⊢ <;> exact h
        split <;> omega
      rw [hd, hx]
      simp only [TreeKey.node]
      split
      · rw [show leaf / 2 ^ h = 2 * (leaf / 2 ^ h / 2) by omega]; simp
      · congr 1
        · congr 1; omega
        · congr 1; omega
    simp only [List.range'_succ, List.map_cons, climb]
    rw [step, ih (h + 1), show h + 1 + n = h + (n + 1) by omega]

/-! ### Signing and verifying -/

/-- A signature made with a leaf of a tree leads to the root of the tree. -/
theorem TreeKey.sign_root (k : TreeKey) (leaf : Nat) (m : List Byte) (hl : leaf < 2 ^ 20) (root : List Byte) (hr : root = k.root) :
    xmssRoot root k.seed m (k.sign leaf m) = root ∧ (k.sign leaf m).length = 2820 ∧ ofBigEndian ((k.sign leaf m).take 4) = leaf := by
  subst hr
  obtain ⟨r, hrl, hsr⟩ : ∃ r : List Byte, r.length = 32 ∧ keyed 3 k.random (bigEndian 32 leaf) = r := ⟨_, keyed_length _ _ _, rfl⟩
  have hdl : (xmssDigest r k.root leaf m).length = 32 := keyed_length _ _ _
  obtain ⟨d, hd⟩ : ∃ d, xmssDigest r k.root leaf m = d := ⟨_, rfl⟩
  rw [hd] at hdl
  let cs := (List.zip (k.starts leaf) (chainDigits d)).zipIdx.map fun x => chainSteps k.seed leaf x.2 x.1.2 0 x.1.1
  let ps := (List.range 20).map fun h => k.node h (Nat.xor (leaf / 2 ^ h) 1)
  have hcl : cs.length = 67 := by simp [cs, chainDigits_length d hdl]
  have hc : all32 cs := by
    intro x hx
    obtain ⟨⟨⟨y, e⟩, j⟩, hy, rfl⟩ := List.mem_map.1 hx
    exact chainSteps_length _ _ _ _ _ _ (k.starts_all32 leaf y (List.of_mem_zip (List.fst_mem_of_mem_zipIdx hy)).1)
  have hp : all32 ps := by
    intro x hx
    obtain ⟨h, -, rfl⟩ := List.mem_map.1 hx
    exact k.node_length _ _
  have hpl : ps.length = 20 := by simp [ps]
  have flat : ∀ xs : List (List Byte), all32 xs → xs.flatten.length = 32 * xs.length := by
    intro xs h
    induction xs with
    | nil => rfl
    | cons x xs ih =>
      rw [List.flatten_cons, List.length_append, ih fun y hy => h y (List.mem_cons_of_mem _ hy), h x List.mem_cons_self,
        List.length_cons]
      omega
  have hsig : k.sign leaf m = bigEndian 4 leaf ++ (r ++ (cs.flatten ++ ps.flatten)) := by
    simp only [TreeKey.sign, hsr, hd, cs, ps, List.flatMap_def, List.append_assoc]
  have e4 : (k.sign leaf m).take 4 = bigEndian 4 leaf := by
    rw [hsig]; simp
  have hleaf : ofBigEndian (bigEndian 4 leaf) = leaf := ofBigEndian_bigEndian 4 leaf (by omega)
  refine ⟨?_, ?_, by rw [e4, hleaf]⟩
  · have d4 : (k.sign leaf m).drop 4 = r ++ (cs.flatten ++ ps.flatten) := by rw [hsig]; simp
    have d36 : (k.sign leaf m).drop 36 = cs.flatten ++ ps.flatten := by
      rw [show 36 = 4 + 32 from rfl, ← List.drop_drop, d4]; simp [hrl]
    have d2180 : (k.sign leaf m).drop 2180 = ps.flatten := by
      rw [show 2180 = 36 + 2144 from rfl, ← List.drop_drop, d36]
      have := flat cs hc
      simp [this, hcl]
    have t4 : (r ++ (cs.flatten ++ ps.flatten)).take 32 = r := by simp [hrl]
    have p1 : pieces32 67 (cs.flatten ++ ps.flatten) = cs := hcl ▸ pieces32_flatten cs ps.flatten hc
    have p2 : pieces32 20 ps.flatten = ps := by
      have := pieces32_flatten ps [] hp
      rwa [List.append_nil, hpl] at this
    simp only [xmssRoot, e4, hleaf, d4, d36, d2180, t4, p1, p2, hd]
    rw [chainEnds_sign k.seed leaf d hdl (k.starts leaf) (k.starts_length leaf)]
    have := climb_path k leaf 20 0
    simp only [Nat.pow_zero, Nat.div_one, Nat.zero_add, ← List.range_eq_range'] at this
    rw [Nat.div_eq_of_lt hl] at this
    exact this
  · rw [hsig]
    simp only [List.length_append, bigEndian_length, flat cs hc, flat ps hp, hcl, hpl, hrl]

/-- A signature made with a leaf of a tree verifies under the tree's public key. -/
theorem TreeKey.sign_verifies (k : TreeKey) (leaf : Nat) (m : List Byte) (hl : leaf < 2 ^ 20) :
    xmssVerifies k.root k.seed m (k.sign leaf m) = true := by
  obtain ⟨h1, h2, h3⟩ := k.sign_root leaf m hl k.root rfl
  simp only [xmssVerifies, h1, h2, h3]
  simpa using hl

end Sys2Proof.Machine
end

