-- ==== Sys2Proof/Tests/Slice0.lean ====
section
/-! SUPPORT. Tests: ill-formed instructions are refused, words of the spec decode to the instructions they stand for, single
steps give the values that the spec's rules state, and for each statement with hypotheses a state and operands that meet them. -/

namespace Sys2Proof.Tests

open Sys2Proof Sys2Proof.Machine Sys2Proof.Safety

set_option Elab.async false

/-! ### Well-formedness: an ill-formed term for each check -/

/-- A cue nibble of zeros (R48). -/
def cu0 : Cue := ⟨false, false, false, false⟩

/-- R49, R50, R51, R137, R140: conditions of branches, loop lengths, flag destinations, address registers. -/
theorem test_ill_formed_control_and_scalar :
    ([.br cu0 0 0 3, .br cu0 0 1 0, .bl cu0 0 0 7 1, .bl cu0 0 2 0 1, .loopImmediate cu0 0 3 0, .loopRegister cu0 0 3 0,
      .loopx cu0 0 1 3 0, .cmpEq cu0 4 1 2, .cmpNe cu0 31 1 2, .cmpLtI cu0 4 1 2, .cmpGeI cu0 4 1 2, .cmpLtN cu0 4 1 2,
      .cmpGeN cu0 4 1 2, .fcmpEq cu0 4 1 2, .fcmpLt cu0 4 1 2, .fcmpLe cu0 4 1 2, .fcmpUn cu0 4 1 2, .fadd cu0 1 2 3 2,
      .fsub cu0 1 2 3 3, .fmul cu0 1 2 3 2, .fma cu0 1 2 3 2 4, .fdiv cu0 1 2 3 2, .fsqrt cu0 1 2 2, .fsqrtCk cu0 1 2 2 0,
      .frsq cu0 1 2 3, .fcvtI32F32 cu0 1 2 2, .fcvtN32F32 cu0 1 2 2, .fcvtF32I32 cu0 1 2 2, .fcvtF32N32 cu0 1 2 3,
      .aadd cu0 16 1 2, .aadd cu0 1 16 2, .aaddi cu0 16 1 0, .aaddi cu0 1 31 0, .aset cu0 16 1 2, .agetLo cu0 1 16,
      .agetHi cu0 1 16] : List Instr).all (fun i => !WellFormed i) = true := by decide

/-- R52 to R57, R152, R157 to R167, R171 to R179: destinations, type selectors, conditions, formats and groups of vectors. -/
theorem test_ill_formed_vector :
    ([.vfma cu0 28 1 2 0 0, .vabs cu0 1 2 6 0, .vneg cu0 1 2 6 0, .vexp2 cu0 1 2 3 0, .vlog2 cu0 1 2 6 0, .vrcp cu0 1 2 4 0,
      .vrsq cu0 1 2 5 0, .vsig cu0 1 2 3 0, .vlogic cu0 1 2 3 2 0 8, .vshl cu0 1 2 3 0 0, .vshr cu0 1 2 3 2 0,
      .vsra cu0 1 2 3 6 0, .vsra cu0 1 2 3 2 0, .vcmp cu0 0 1 2 0 0 0, .vcmp cu0 8 1 2 0 0 0, .vcmp cu0 1 1 2 0 0 7,
      .vcmp cu0 1 1 2 3 0 6, .vext cu0 1 2 0 1 true 3, .vext cu0 1 2 0 1 false 3, .vins cu0 28 2 0 0 false 0,
      .vins cu0 1 2 0 0 false 1, .viota cu0 1 2 3 2 0, .vshuf cu0 1 2 3 0 0 5, .vshuf cu0 1 2 3 0 0 4,
      .vslide cu0 1 2 3 0 0 1 true 2 true, .vredsum cu0 1 2 3 0 1 true, .vredsum cu0 1 2 0 0 2 true,
      .vsortkv cu0 1 2 3 0 0 false false, .vsortkv cu0 2 2 3 1 0 false false, .vsortkv cu0 2 2 3 0 0 false true,
      .vsegsum cu0 1 2 3 1 0 0 true, .vsegsum cu0 1 2 3 3 0 1 true, .vsegsum cu0 1 2 3 0 0 2 true, .smxStep cu0 2 3 4 0 1 true false,
      .smxStep cu0 3 3 4 0 2 true false, .plogic cu0 0 1 2 0 0, .plogic cu0 1 8 2 0 0, .plogic cu0 1 2 8 0 0, .pany cu0 4 1 0 0,
      .pany cu0 0 8 0 0, .pall cu0 4 1 0 0, .pcnt cu0 1 8 0 0, .pfirst cu0 1 8 0 0, .psetn cu0 0 1 0 0,
      .psetn cu0 8 1 0 0] : List Instr).all (fun i => !WellFormed i) = true := by decide

/-- R55, R56, R167 to R172: conversions, scales and grouped products. -/
theorem test_ill_formed_formats :
    ([.vcvt cu0 1 2 1 0 0 1 0 false, .vcvt cu0 1 2 0 0 15 1 0 false, .vcvt cu0 1 2 0 0 0 15 0 false, .vcvt cu0 1 2 0 0 0 1 3 false,
      .vcvt cu0 1 2 0 0 0 1 0 true, .vcvt cu0 1 2 0 1 0 3 0 true, .vcvt cu0 1 2 7 0 0 1 0 false, .vwiden cu0 1 2 0 1 0 0,
      .vwiden cu0 2 2 0 0 1 0, .vwiden cu0 2 2 0 1 0 3, .vnarrow cu0 1 3 0 0 1 0 false, .vnarrow cu0 1 2 0 1 0 0 false,
      .vnarrow cu0 1 2 1 0 3 0 true, .vscl cu0 1 2 3 0 true, .vscld cu0 1 2 3 false, .vdot cu0 1 2 3 0 13 2 0 true,
      .vdot cu0 1 2 3 0 10 2 1 true, .vdot cu0 1 2 3 0 0 2 2 true, .vdot cu0 1 2 3 0 3 1 0 true,
      .vdot cu0 1 2 3 0 0 8 0 true] : List Instr).all (fun i => !WellFormed i) = true := by decide

/-- R181 to R184, R207 to R220: the matrix engine. -/
theorem test_ill_formed_matrix :
    ([.spStat cu0 16 1 0 0 1 1 8 false false, .spStat cu0 0 1 0 0 0 1 8 false false, .spStat cu0 0 1 0 63 2 1 8 false false,
      .spStat cu0 0 1 0 0 1 1 7 false false, .spStat cu0 0 1 0 0 1 0 8 false false, .spStat cu0 0 1 0 0 1 1 8 false true,
      .spPlain cu0 16 0 0 true, .spPlain cu0 0 1 0 true, .spPlain cu0 0 0 1 true, .spPlain cu0 1 0 1 false, .spPlain cu0 0 0 0 false,
      .spPlain cu0 0 63 2 false, .mmFeed cu0 1 0 0 0 false false 2 0, .mmFeed cu0 28 1 0 0 false false 2 0,
      .mmFeed cu0 0 1 2 0 false false 2 0, .mmFeed cu0 0 1 0 11 false false 2 0, .mmFeed cu0 0 1 0 0 true false 2 0,
      .mmFeed cu0 0 1 0 1 false true 2 0, .mmFeed cu0 0 1 0 0 false false 5 0, .mmPass cu0 8 0 0 2 0 0 false,
      .mmPass cu0 0 16 0 2 0 0 false, .mmPass cu0 0 0 7 2 0 0 false, .mmPass cu0 0 0 0 5 0 0 false, .mmPass cu0 0 0 0 2 31 1 false,
      .mmPass cu0 0 0 0 4 0 0 true, .mmTile cu0 7 1, .mmZero cu0 8, .mmDrain cu0 2 0 0 0 0 0 false false 0 0,
      .mmDrain cu0 1 1 0 0 0 0 false false 0 0, .mmDrain cu0 0 1 2 0 0 0 false false 0 0, .mmDrain cu0 0 1 0 0 11 0 false false 0 0,
      .mmDrain cu0 0 1 0 0 0 3 false false 0 0, .mmDrain cu0 0 1 0 0 0 0 true false 0 0, .mmDrain cu0 0 1 0 0 1 0 false true 0 0,
      .mmDrain cu0 0 1 0 0 0 0 false false 31 1, .mmRd cu0 1 2 3 0 1 0 false, .mmRd cu0 1 2 3 0 0 0 true] : List Instr).all
      (fun i => !WellFormed i) = true := by decide

/-- R221, R222, R242 to R250, R274 to R280, R302, R326, R352, R360, R381, R389: the scratchpad, memory, hub and act instructions. -/
theorem test_ill_formed_memory_and_hub :
    ([.ldSp cu0 27 1 0, .ldSp cu0 31 1 0, .ldSp cu0 28 16 0, .bkAdd cu0 1 2 3 0 3 0 0, .bkAdd cu0 1 2 3 0 0 0 3,
      .bkMul cu0 1 2 3 0 11 0 0, .bkFma cu0 1 2 3 0 14 0 0, .bkMax cu0 1 2 3 0 3 0, .bkMin cu0 1 2 3 0 3 0, .bkScale cu0 1 2 0 12 0 0 3,
      .bkExpsum cu0 1 2 3 0 2 0 0 4 true, .bkExpsum cu0 1 2 3 0 0 0 2 4 true, .bkRed cu0 1 2 0 0 0 0 3 false true,
      .bkRed cu0 1 2 0 0 0 2 0 false true, .bkCvt cu0 1 2 0 8 0 0 0, .bkCvt cu0 1 2 0 0 0 0 9, .bkCvt cu0 1 2 0 0 0 3 1,
      .bkFill cu0 1 0 9 0 2, .digRd cu0 1 2 false true 1, .digRd cu0 1 2 true false 0, .ld cu0 31 1 0 0, .ld cu0 28 16 0 0,
      .lds cu0 27 1 0 0, .st cu0 31 1 0, .sts cu0 28 1 2 0, .gather cu0 28 1 0 0 28 3 0, .gather cu0 28 1 0 0 31 0 0,
      .scatter cu0 28 1 0 27 0 0 true, .pf cu0 0 16 0 0, .cpy cu0 8 1 0 2 3, .cpy2d cu0 0 16 0 2 3 4 5 6, .atOp cu0 1 2 0 3 1 5,
      .atOp cu0 1 16 0 3 1 0, .cas cu0 1 2 0 3 4 5, .red cu0 28 1 0 0 0 true false 0 0 true, .red cu0 31 1 0 0 1 true false 0 0 true,
      .red cu0 3 1 0 0 1 false true 0 0 true, .red cu0 28 1 0 1 1 true false 0 0 true, .red cu0 28 1 0 0 1 true false 0 5 true,
      .protSet cu0 0 16 1 0 0 2 3 false false, .protSet cu0 0 1 2 0 0 2 0 true false, .fenceAcq cu0 5, .fenceRel cu0 6, .fenceAr cu0 7,
      .ldacq cu0 0 3 1 0 0, .ldacq cu0 5 0 1 0 0, .strel cu0 0 3 1 0, .strel cu0 0 0 16 0, .lqskip cu0 31 0,
      .colStart cu0 1 2 3 4 0 0 0 false 0 true, .colStart cu0 1 2 3 4 1 1 0 false 0 true, .colStart cu0 1 2 3 4 0 1 0 false 1 true,
      .actSpawn cu0 16, .actNext cu0 1 2 1, .lnch cu0 1 16, .almW cu0 1 2 1 true, .almW cu0 1 2 1 false, .semSig cu0 1 2 5,
      .semSigSet cu0 1 2 6, .semWait cu0 1 2 5 0 false, .semWait cu0 1 2 3 0 true, .semWait cu0 1 2 3 1 false, .semRd cu0 1 2 7,
      .ctrRd cu0 1 4 false 1, .ctrRd cu0 1 0 true 2, .ctrRd cu0 1 0 false 6, .ctrRd cu0 1 0 false 0x0C,
      .ctrRd cu0 1 16 false 0x10] : List Instr).all (fun i => !WellFormed i) = true := by decide

/-! ### Decoding: words of the spec's encodings and worked programs -/

/-- The program of the barrier chapter, and words of R130 to R145. -/
theorem test_decode_control (x : Word) :
    decode 0x00200000 x = .ok (.nop cu0) ∧ decode 0x00400000 x = .ok (.cue cu0 0) ∧ decode 0x0060000E x = .ok (.bprep cu0 0 14) ∧
      decode 0x00610017 x = .ok (.bprep cu0 1 23) ∧ decode 0x00C40C15 x = .ok (.loopImmediate cu0 0 3 21) ∧
      decode 0x00C82807 x = .ok (.loopRegister cu0 1 10 7) ∧ decode 0x00884000 x = .ok (.br cu0 1 0 1) ∧
      decode 0x00900000 x = .ok (.br cu0 2 0 0) ∧ decode 0x01400020 x = .ok (.toks cu0 2 0) ∧ decode 0x01000007 x = .ok (.trap cu0 7) ∧
      decode 0x01860023 x = .ok (.csrr cu0 6 0x23) ∧ decode 0x01810108 x = .ok (.csrr cu0 1 0x108) ∧
      decode 0xAA9194C7 0x00000FF0 = .ok (.bkFma ⟨true, false, true, false⟩ 17 18 19 7 0 255 0) :=
  ⟨rfl, rfl, rfl, rfl, rfl, rfl, rfl, rfl, rfl, rfl, rfl, rfl, rfl⟩

/-- Scalar words of the encoding chapter and of the barrier, divergence and cholesky programs. -/
theorem test_decode_scalar (x : Word) :
    decode 0x0281009F x = .ok (.addi cu0 1 0 159) ∧ decode 0x02031887 x = .ok (.xor cu0 3 3 2) ∧
      decode 0x02002050 x = .ok (.cmpEq cu0 0 4 1) ∧ decode 0x020128D1 x = .ok (.cmpNe cu0 1 5 3) ∧
      decode 0x020B2B05 x = .ok (.and cu0 11 5 12) ∧ decode 0x03440880 x = .ok (.fdiv cu0 4 1 2 0) ∧
      decode 0x03462806 x = .ok (.fsqrtCk cu0 6 5 0 1) ∧ decode 0x02C50001 0x02345678 = .ok (.li cu0 5 0x12345678) :=
  ⟨rfl, rfl, rfl, rfl, rfl, rfl, rfl, rfl⟩

/-- Vector words of the encoding chapter and of the programs. -/
theorem test_decode_vector (x : Word) :
    decode 0x94030F00 x = .ok (.vadd ⟨true, false, false, true⟩ 3 1 28 0 0) ∧ decode 0x05BC0818 x = .ok (.vsplat cu0 28 1 3 0) ∧
      decode 0x04DDE098 x = .ok (.vmov cu0 29 28 3 0) ∧ decode 0x058D53D9 x = .ok (.vsel cu0 13 10 15 3 1) ∧
      decode 0x0630EAC0 x = .ok (.vperm cu0 16 29 11 0 0) ∧ decode 0x04C52140 x = .ok (.vrcp cu0 5 4 0 0) ∧
      decode 0x04631200 x = .ok (.vfma cu0 3 2 8 0 0) ∧ decode 0x05C53800 0x00004800 = .ok (.vext cu0 5 7 0 0 true 4) ∧
      decode 0x05E10800 0x00000000 = .ok (.vins cu0 1 1 0 0 false 0) ∧
      decode 0x066C5398 0x00020001 = .ok (.vslide cu0 12 10 14 3 0 1 false 0 true) ∧
      decode 0x05615318 0x00000001 = .ok (.vcmp cu0 1 10 12 3 0 1) :=
  ⟨rfl, rfl, rfl, rfl, rfl, rfl, rfl, rfl, rfl, rfl, rfl⟩

/-- Words of the reductions, sorts, softmax and predicates of the programs. -/
theorem test_decode_vector_groups (x : Word) :
    decode 0x07252002 0x08000000 = .ok (.vredsum cu0 5 4 0 2 0 true) ∧
      decode 0x07AAE258 0x00000000 = .ok (.vsortkv cu0 10 28 9 3 0 false false) ∧
      decode 0x07DC8280 0x08000000 = .ok (.vsegsum cu0 28 16 10 0 0 0 true) ∧
      decode 0x0808F080 0x0000001F = .ok (.smxStep cu0 8 30 2 0 7 true true) ∧
      decode 0x083F4340 0x00000020 = .ok (.smxFin cu0 31 8 13 0 0 true) ∧ decode 0x08E21800 x = .ok (.psetn cu0 2 3 0 0) :=
  ⟨rfl, rfl, rfl, rfl, rfl, rfl⟩

/-- Words of the matrix engine, the scratchpad and the banks: the attention program, and `bk.add.f32 s1, s2, s3, 4, 2` from
R222. -/
theorem test_decode_matrix (x : Word) :
    decode 0x09012002 0x00004302 = .ok (.spStat cu0 1 4 0 2 2 6 8 false false) ∧
      decode 0x09640811 0x0000001F = .ok (.mmPass cu0 4 1 1 2 31 0 false) ∧
      decode 0x49C0B004 0x0000E000 = .ok (.mmDrain ⟨false, true, false, false⟩ 0 22 0 4 0 0 false false 0 7) ∧
      decode 0x09A30000 x = .ok (.mmZero cu0 3) ∧ decode 0x09800000 x = .ok (.mmTile cu0 0 0) ∧
      decode 0x09E40002 0x00002223 = .ok (.mmRd cu0 4 0 0 2 3 17 true) ∧ decode 0x0A1E2841 x = .ok (.ldSp cu0 30 5 65) ∧
      decode 0x0A3F3000 x = .ok (.stSp cu0 6 0) ∧ decode 0x0A4110C3 0x00000010 = .ok (.bkAdd cu0 1 2 3 3 0 1 0) :=
  ⟨rfl, rfl, rfl, rfl, rfl, rfl, rfl, rfl, rfl⟩

/-- Words of global memory, of semaphores and channels, of the hub and of acts. -/
theorem test_decode_memory_and_hub (x : Word) :
    decode 0x0C1C1001 x = .ok (.ld cu0 28 2 0 1) ∧ decode 0x0C3C1000 x = .ok (.lds cu0 28 2 0 0) ∧
      decode 0x0C5C0800 x = .ok (.st cu0 28 1 0) ∧ decode 0x0D240800 0x03000042 = .ok (.atOp cu0 4 1 0 2 2 3) ∧
      decode 0x0D7C0801 0x0800133D = .ok (.red cu0 28 1 1 29 1 true true 4 0 true) ∧ decode 0x0DC00013 x = .ok (.fenceRel cu0 3) ∧
      decode 0x0DE00000 x = .ok (.drain cu0) ∧ decode 0x0F800883 x = .ok (.semSig cu0 1 2 3) ∧
      decode 0x0FA00803 0x04000001 = .ok (.semWait cu0 1 0 3 1 true) ∧ decode 0x0FE03802 x = .ok (.cwait cu0 7 2) ∧
      decode 0x0BA40003 x = .ok (.curtPrep cu0 4 3) ∧ decode 0x0BC50003 x = .ok (.curtWait cu0 5 false false 3) ∧
      decode 0x0E630882 0x08000204 = .ok (.colStart cu0 3 1 2 2 0 1 0 true 0 true) ∧
      decode 0x0E841800 x = .ok (.colWait cu0 4 3 false) ∧ decode 0x0BE5180C x = .ok (.digRd cu0 5 3 true true 0) ∧
      decode 0x0EE43140 x = .ok (.actNext cu0 4 6 5) ∧ decode 0x0F200000 x = .ok (.actEnd cu0) :=
  ⟨rfl, rfl, rfl, rfl, rfl, rfl, rfl, rfl, rfl, rfl, rfl, rfl, rfl, rfl, rfl, rfl, rfl⟩

/-- The fates of example words of the encoding chapter (R48, R55, R64, R69). -/
theorem test_decode_refusals (x : Word) :
    decode 0x05421240 x = .error .reserved ∧ decode 0x02C50001 0x12345678 = .error .extension ∧
      decode 0x02600000 x = .error .opcode ∧ decode 0x00000000 x = .error .opcode :=
  ⟨rfl, rfl, rfl, rfl⟩

/-! ### States that meet the hypotheses of the statements -/

/-- Every token queue full, as far as R14 allows. -/
def live16 : Live := { Live.reset with tok := Vector.replicate 8 16 }

/-- Engine e moves, with every token present and the live state changed by f. -/
def on (e : Engine) (f : Live → Live := id) : State :=
  { State.reset with cur := e, core := { Core.reset 0 with live := f live16 } }

/-- A cue nibble that waits on and pushes every queue (R48). -/
def cu15 : Cue := ⟨true, true, true, true⟩

/-- X moves with s1 = v and s2 = w. -/
def xs (v w : Word) : State := on .x fun l => { l with ex := (l.ex.setS 1 v).setS 2 w }

/-- A moves with a1 = v and a2 = w. -/
def as (v w : DWord) : State := on .a fun l => { l with a := (l.a.set 1 v).set 2 w }

/-- An instruction can start where its engine has started none, every queue holds 16 tokens and no register waits. -/
theorem ready_of {s : State} {op : BitVec 7} {cu : Cue} {np nn : Nat} {uses : List (BitVec 5)}
    (h1 : s.eng.started = false) (h2 : opLegal op s.cur = true) (h3 : s.core.live.tok = Vector.replicate 8 16)
    (h4 : s.core.live.pendReg = []) (h5 : np ≤ 15 := by decide) (h6 : nn ≤ 15 := by decide) : Ready s op cu np nn uses := by
  have ht : ∀ k, k < 8 → s.core.live.tokens k = 16 := by
    intro k hk
    simp only [Live.tokens, h3, vget]
    rw [Vector.getElem?_eq_getElem hk]
    simp
  have hc : ∀ b : Bool, b2n b ≤ 1 := by decide
  have hw := hc cu.wp
  have hn := hc cu.wn
  refine ⟨h1, h2, ?_, ?_, ?_⟩
  · rw [ht _ (by cases s.cur <;> decide)]; omega
  · rw [ht _ (by cases s.cur <;> decide)]; omega
  · rw [h4]; intro r hr; cases hr

/-- The states `on e` are free to start any opcode of e. -/
theorem ready_on (e : Engine) {op : BitVec 7} {cu : Cue} {np nn : Nat} {uses : List (BitVec 5)} (h : opLegal op e = true)
    (h5 : np ≤ 15 := by decide) (h6 : nn ≤ 15 := by decide) : Ready (on e) op cu np nn uses :=
  ready_of (by cases e <;> rfl) h rfl rfl h5 h6

/-- So are those with other scalar registers in X. -/
theorem ready_xs (v w : Word) {op : BitVec 7} {cu : Cue} {np nn : Nat} {uses : List (BitVec 5)} (h : opLegal op .x = true)
    (h5 : np ≤ 15 := by decide) (h6 : nn ≤ 15 := by decide) : Ready (xs v w) op cu np nn uses :=
  ready_of rfl h rfl rfl h5 h6

/-- And those with other address registers. -/
theorem ready_as (v w : DWord) {op : BitVec 7} {cu : Cue} {np nn : Nat} {uses : List (BitVec 5)} (h : opLegal op .a = true)
    (h5 : np ≤ 15 := by decide) (h6 : nn ≤ 15 := by decide) : Ready (as v w) op cu np nn uses :=
  ready_of rfl h rfl rfl h5 h6

/-! ### Witnesses: scalar registers, issue, integers -/

theorem witness_ScalarRegisterFile : (31 : BitVec 5) ≠ 0 ∧ (1 : BitVec 5) ≠ 31 := by decide

/-- A slow result with `left` counted instructions to go. -/
def slowRes (left : Nat) : Slow := ⟨left, 4, 7, 0x10, some (1, true)⟩

/-- X moves with one slow result pending. -/
def slowed (left : Nat) : State := on .x fun l => { l with slow := [slowRes left] }

theorem witness_StartEffect :
    ((0 : Nat) ≠ fromPrevIdx Engine.x ∨ (1 : Nat) ≠ fromPrevIdx Engine.x) ∧ Engine.a ≠ .x ∧ (on .a).cur ≠ .x ∧
      ∀ r ∈ (slowed 2).core.live.slow, 1 < r.left := by decide

theorem witness_SlowResultDeliveryPoint :
    (slowed 2).cur = .x ∧ (slowed 2).core.live.slow = [slowRes 2] ∧ 1 < (slowRes 2).left ∧ (slowRes 1).left ≤ 1 ∧
      (slowRes 1).dst ≠ 0 ∧ (slowRes 1).cflag = some (1, true) ∧ ({ slowRes 0 with cflag := none } : Slow).cflag = none ∧
      (on .x fun l => { l with slow := [slowRes 1, slowRes 0, slowRes 2], pendReg := [(.x, 4), (.x, 5)] }).cur = .x := by decide

theorem witness_IssueEffect : Engine.a ≠ (on .x).cur ∧ (9 : Nat) ≠ toPrevIdx Engine.x ∧ (9 : Nat) ≠ toNextIdx Engine.x := by decide

theorem witness_IntegerGroup :
    Ready (xs 0x80000000 0xFFFFFFFF) 0x10 cu15 0 0 [3, 1, 2] ∧ Ready (on .b) 0x15 cu15 0 0 [31, 0] ∧ 4 ≤ (4 : BitVec 5).toNat :=
  ⟨ready_xs _ _ rfl, ready_on .b rfl, by decide⟩

theorem witness_BitGroupAndImmediates :
    Ready (on .m) 0x11 cu15 0 0 [3, 1, 2] ∧ Ready (on .a) 0x14 cu15 0 0 [0, 31] ∧ Ready (on .b) 0x16 cu15 0 0 [31] :=
  ⟨ready_on .m rfl, ready_on .a rfl, ready_on .b rfl⟩

/-- Each case of the divide group: an ordinary divisor, zero, and the most negative number over -1. -/
theorem witness_DivideGroup :
    (Ready (xs 7 1) 0x12 cu15 0 0 [1, 2] ∧ (opened (xs 7 1) cu15).rs 2 ≠ 0 ∧
        ¬((opened (xs 7 1) cu15).rs 1 = 0x80000000 ∧ (opened (xs 7 1) cu15).rs 2 = 0xFFFFFFFF)) ∧
      (Ready (xs 7 0) 0x12 cu15 0 0 [1, 2] ∧ (opened (xs 7 0) cu15).rs 2 = 0) ∧
      (Ready (xs 0x80000000 0xFFFFFFFF) 0x12 cu15 0 0 [1, 2] ∧ (opened (xs 0x80000000 0xFFFFFFFF) cu15).rs 1 = 0x80000000 ∧
        (opened (xs 0x80000000 0xFFFFFFFF) cu15).rs 2 = 0xFFFFFFFF) :=
  ⟨⟨ready_xs _ _ rfl, by decide, by decide⟩, ⟨ready_xs _ _ rfl, by decide⟩, ⟨ready_xs _ _ rfl, by decide, by decide⟩⟩

theorem witness_AddressGroup :
    Ready (on .a) 0x1D cu15 0 0 [2] ∧ Ready (on .a) 0x1E cu15 0 0 [] ∧ Ready (on .a) 0x1F cu15 0 0 [1, 2] ∧
      Ready (on .a) 0x1F cu15 0 0 [3] ∧ 16 ≤ (16 : BitVec 5).toNat :=
  ⟨ready_on .a rfl, ready_on .a rfl, ready_on .a rfl, ready_on .a rfl, by decide⟩

theorem witness_RegisterWriteFrames :
    (31 : BitVec 5) ≠ 0 ∧ (0 : BitVec 5) ≠ 31 ∧ Engine.b ≠ (on .x).cur ∧ (3 : BitVec 2) ≠ 0 ∧ (15 : BitVec 5).toNat < 16 ∧
      (0 : BitVec 5) ≠ 15 := by decide

/-! ### Witnesses: floating point -/

theorem witness_Rounding :
    ((0 : Int) < 1 ∧ (-149 : Int) < 0) ∧ (0x7F800000 < 2 ^ 32 ∧ (fp32.decode 0x7F800000).isNan = false) ∧
      (0x80000001 < 2 ^ 32 ∧ (fp32.decode 0x80000001).isNan = false) := by decide

theorem witness_FloatArithmetic :
    (1 : BitVec 2).toNat < 2 ∧ Ready (xs 0x3F800000 0x7F800001) 0x18 cu15 0 0 [0, 1, 2] ∧
      Ready (xs 0x00000001 0xFF7FFFFF) 0x19 cu15 0 0 [3, 1, 2, 31] :=
  ⟨by decide, ready_xs _ _ rfl, ready_xs _ _ rfl⟩

/-- The value of s1 in the states `xs`. -/
theorem xs_rf (v w : Word) : (opened (xs v w) cu15).rf 1 = fp32.decode v.toNat ∧ (opened (xs v w) cu15).rf 2 = fp32.decode w.toNat :=
  ⟨rfl, rfl⟩

/-- NaN in either place, in both and in neither; values at and beyond each end of the integer ranges; both infinities. -/
theorem witness_FloatCompareAndConvert :
    (∀ v w, Ready (xs v w) 0x18 cu15 0 0 [3, 1, 2] ∧ Ready (xs v w) 0x18 cu15 0 0 [1, 2] ∧ Ready (xs v w) 0x18 cu15 0 0 [3, 1]) ∧
      ((fp32.decode 0x7FC00000).isNan = true ∧ (fp32.decode 0x80000000).isNan = false) ∧
      (fp32.decode 0x4EFFFFFF = .fin false 0xFFFFFF 7 ∧ ((roundAt .rne 0xFFFFFF 7 false 0).1 : Int) ≤ 2147483647) ∧
      (fp32.decode 0x4F000000 = .fin false 0x800000 8 ∧ 2147483647 < ((roundAt .rne 0x800000 8 false 0).1 : Int)) ∧
      (fp32.decode 0xCF000000 = .fin true 0x800000 8 ∧ -2147483648 ≤ -((roundAt .rne 0x800000 8 false 0).1 : Int)) ∧
      (fp32.decode 0xCF000001 = .fin true 0x800001 8 ∧ -((roundAt .rne 0x800001 8 false 0).1 : Int) < -2147483648) ∧
      (fp32.decode 0x4F7FFFFF = .fin false 0xFFFFFF 8 ∧ ((roundAt .rne 0xFFFFFF 8 false 0).1 : Int) ≤ 4294967295) ∧
      (fp32.decode 0x4F800000 = .fin false 0x800000 9 ∧ 4294967295 < ((roundAt .rne 0x800000 9 false 0).1 : Int)) ∧
      (fp32.decode 0xBF800000 = .fin true 0x800000 (-23) ∧ -((roundAt .rne 0x800000 (-23) false 0).1 : Int) < 0) ∧
      fp32.decode 0x7F800000 = .inf false ∧ fp32.decode 0xFF800000 = .inf true :=
  ⟨fun _ _ => ⟨ready_xs _ _ rfl, ready_xs _ _ rfl, ready_xs _ _ rfl⟩, by decide, by decide, by decide, by decide, by decide, by decide,
    by decide, by decide, rfl, rfl⟩

/-- NaN, a finite value over zero, zero over zero, infinities, a negative value, and each of them under a root. -/
theorem witness_SlowFloatGroup :
    (∀ v w, Ready (xs v w) 0x1A cu15 0 0 [1, 2] ∧ Ready (xs v w) 0x1A cu15 0 0 [1]) ∧
      (fp32.decode 0x7F800001).isNan = true ∧ fp32.decode 0x00000001 = .fin false 1 (-149) ∧
      fp32.decode 0x80000000 = .fin true 0 (-149) ∧ fp32.decode 0x80000001 = .fin true 1 (-149) ∧
      fp32.decode 0xFF800000 = .inf true ∧ fp32.decode 0x7F800000 = .inf false :=
  ⟨fun _ _ => ⟨ready_xs _ _ rfl, ready_xs _ _ rfl⟩, rfl, rfl, rfl, rfl, rfl, rfl⟩

/-! ### Witnesses: control flow, exceptions, control registers -/

/-- Engine e with its state changed by f moves. -/
def eng (e : Engine) (f : EngState → EngState) : State := on e fun l => l.setEng e (f (l.eng e))

/-- So is a state whose engine has started nothing. -/
theorem ready_eng (e : Engine) (f : EngState → EngState) {op : BitVec 7} {cu : Cue} {np nn : Nat} {uses : List (BitVec 5)}
    (h : opLegal op e = true) (h1 : (f .reset).started = false := by rfl) (h5 : np ≤ 15 := by decide) (h6 : nn ≤ 15 := by decide) :
    Ready (eng e f) op cu np nn uses :=
  ready_of (by cases e <;> exact h1) h (by cases e <;> rfl) (by cases e <;> rfl) h5 h6

theorem witness_NopBprepTokens :
    Ready (on .a) 0x01 cu15 0 0 [] ∧ Ready (on .x) 0x03 cu15 0 0 [] ∧ Ready (on .m) 0x09 cu15 (15 : BitVec 4).toNat (0 : BitVec 4).toNat [] ∧
      Ready (on .b) 0x0A cu15 0 0 [] ∧ (on .b).eng.retire = [] ∧ (1 : BitVec 2) ≠ 0 :=
  ⟨ready_on .a rfl, ready_on .x rfl, ready_on .m rfl, ready_on .b rfl, rfl, by decide⟩

/-- One completed instruction whose pushes fill a queue exactly, and one whose pushes do not fit. -/
theorem witness_NopBprepTokens_pushes :
    let s := fun (n : Nat) => State.setLive .reset (Live.reset.setEng .x { EngState.reset with retire := [⟨0, true, n, 1, []⟩] })
    ((s 16).core.live.eng .x).retire = [⟨0, true, 16, 1, []⟩] ∧ (s 16).core.live.tokens (toPrevIdx .x) = 0 ∧
      (s 17).core.live.tokens (toNextIdx .x) = 0 ∧ (17 : Nat) ≠ 16 ∧ Engine.a ≠ .x ∧ (s 16).core.live.drainReady = [] := by decide +kernel

theorem witness_BranchWithTwoSlots :
    Ready (on .x) 0x04 cu15 0 0 [] ∧ Ready (on .x) 0x05 cu15 0 0 [31] ∧ (on .x).eng.slots = 0 ∧
      WellFormed (.br cu15 3 3 2) = true ∧ WellFormed (.bl cu15 0 0 0 31) = true ∧
      ∀ n, ((on .x).eng.level n).act = true → ((on .x).eng.level n).stop.toNat ≠ (on .x).eng.pc :=
  ⟨ready_on .x rfl, ready_on .x rfl, rfl, rfl, rfl, by decide⟩

/-- A level whose body is words 1 to w. -/
def lvl (w : BitVec 13) (n : Word) (sq : Nat) (xf : Option (BitVec 2)) : LoopLevel := ⟨true, n, 0, 1, w, xf, sq, 0, 0, false⟩

/-- Engine M at end word 7 with levels 0 and 1. -/
def looped (v o : LoopLevel) : EngState :=
  ({ EngState.reset with backEdge := some 7 }.setLevel 0 v).setLevel 1 o

/-- One level that ends at word 7: its last iteration, more of them, and its exit flag set; and with a taken branch whose slots have
issued, or not yet. -/
theorem witness_BackEdges :
    let x := looped (lvl 7 1 0 none) .zero
    let y := (looped (lvl 7 2 0 (some 3)) .zero)
    (x.backEdge = some 7 ∧ x.redir = none ∧ (x.level 0).act = true ∧ (x.level 0).stop.toNat = 7 ∧
      (∀ m, m ≠ 0 → (x.level m).act = true → (x.level m).stop.toNat ≠ 7) ∧ (x.level 0).cnt.toNat ≤ 1) ∧
    ((y.level 0).cnt.toNat = 2 ∧ (∀ m, m ≠ 0 → (y.level m).act = true → (y.level m).stop.toNat ≠ 7) ∧
      (y.level 0).xf = some 3 ∧ y.flag 3 = false ∧ (y.setFlag 3 true).flag 3 = true) ∧
    (let z := { y with redir := some 9 }
     z.backEdge = some 7 ∧ (z.level 0).act = true ∧ z.redir = some 9 ∧ z.slots = 0 ∧ 0 < ({ z with slots := 1 } : EngState).slots) := by decide

/-- Two levels that end at word 7, the newer in its last iteration or not; no level there, with a taken branch in its slots and
past them. -/
theorem witness_BackEdges_two :
    let x := fun n => looped (lvl 7 n 1 none) (lvl 7 2 0 none)
    ((x 1).backEdge = some 7 ∧ (x 1).redir = none ∧ (0 : BitVec 2) ≠ 1 ∧ ((x 1).level 1).act = true ∧
      ((x 1).level 1).seq < ((x 1).level 0).seq ∧ ((x 1).level 0).cnt.toNat ≤ 1 ∧ 1 < ((x 1).level 1).cnt.toNat ∧
      1 < ((x 2).level 0).cnt.toNat ∧
      (∀ k, k ≠ 0 → k ≠ 1 → ((x 1).level k).act = true → ((x 1).level k).stop.toNat ≠ 7)) ∧
    (∀ n, ((looped .zero .zero).level n).act = true → ((looped .zero .zero).level n).stop.toNat ≠ 7) ∧
    (looped .zero .zero).redir = none ∧
    ({ looped .zero .zero with redir := some 9, slots := 1 } : EngState).slots = 1 := by decide

/-- The longest body, from the latch and from the instruction, and a count of zero and of one. -/
theorem witness_LoopEntry :
    (∀ f : EngState → EngState, (f .reset).started = false → Ready (eng .m f) 0x06 cu15 0 0 [1] ∧ Ready (eng .m f) 0x07 cu15 0 0 [1]) ∧
      Ready (on .m) 0x06 cu15 0 0 [] ∧ (on .m).eng.slots = 0 ∧ ((on .m).eng.level 2).pend = false ∧
      (1 ≤ 1023 ∧ 1023 - 1 < 1023 ∧ 1023 ≤ 8191 ∧ (on .m).eng.tags.contains (1023 + 1) = false) ∧
      (let v : LoopLevel := { LoopLevel.zero with pend := true, lstart := 8191, lend := 8191 }
       v.pend = true ∧ v.lstart.toNat ≤ v.lend.toNat ∧ v.lend.toNat ≤ 8191) ∧
      ((0 : BitVec 8).setWidth 32 : Word) = 0 ∧ ((255 : BitVec 8).setWidth 32 : Word) ≠ 0 :=
  ⟨fun f h => ⟨ready_eng .m f rfl h, ready_eng .m f rfl h⟩, ready_on .m rfl, rfl, by decide, by decide, by decide, rfl, by decide⟩

/-- Bounds that end before they start, one word too long, past word 8,191 and before an extension word; a slot pending. -/
theorem witness_RefusedControl :
    (on .x).eng.started = false ∧ ((0 : Nat) < 1 ∧ 1023 ≤ 1024 - 1 ∧ 8191 < 8192 ∧
      (eng .x fun x => { x with tags := [8] }).eng.tags.contains (7 + 1) = true) ∧
      0 < (eng .x fun x => { x with slots := 1 }).eng.slots ∧
      Ready (eng .x fun x => { x with slots := 2 }) 0x04 cu15 0 0 [] ∧ Ready (eng .x fun x => { x with slots := 1 }) 0x05 cu15 0 0 [] ∧
      Ready (eng .x fun x => { x with slots := 1 }) 0x02 cu15 0 0 [] ∧ Ready (eng .x fun x => { x with slots := 1 }) 0x06 cu15 0 0 [] ∧
      Ready (eng .x fun x => { x with slots := 1 }) 0x07 cu15 0 0 [] :=
  ⟨rfl, by decide, by decide, ready_eng .x _ rfl, ready_eng .x _ rfl, ready_eng .x _ rfl, ready_eng .x _ rfl, ready_eng .x _ rfl⟩

theorem witness_HandlerEntry :
    (1 : Nat) ∈ [1, 4, 5, 6] ∧ 6 ∈ [1, 4, 5, 6] ∧
      ((eng .x fun x => { x with tvec := 0x80001FFF }).core.live.eng .x).tvec.getLsbD 31 = true ∧
      (eng .x fun x => { x with tvec := 0x80001FFF }).core.live.slow = [] ∧ (∀ r ∈ (on .x).eng.retire, r.done = true) ∧
      (let s := eng .x fun x => { x with retire := [⟨0, false, 0, 0, []⟩] }
       s.cur ≠ .m ∧ ∃ r ∈ s.eng.retire, r.done = false) := by decide

/-- A context with nothing in it (R354). -/
def ctx0 : Ctx :=
  { ttb := 0, level := 0, scenes := [], sems := [], semTold := [], fabric := [0], routes := [[]], self := 0, lost := [], traffic := [], lossDue := [],
    groups := [], minorities := [], reps := [], prot := [], waiting := [], flog := [], flogLost := 0, flogSeq := 1, colNext := 1, colQ := [], colStat := [],
    devQ := [], devHead := 0, devTail := 0, devServed := 0, devHalted := false, store := 4, area := 0x100000, ectx := Vector.replicate 4 0,
    credit := Vector.replicate 4 1, cowAsked := [], cowRefused := [] }

/-- The record of an all-zero launch. -/
def rec0 : LaunchRec := ⟨List.replicate 128 0⟩

/-- A launch with one act created. -/
def launch1 : Launch :=
  { id := 1, src := .device 0, seq := 0, ctx := 0, record := rec0, det := 0, status := 0, toYield := [], open_ := 1, ended := 0,
    faulted := 0, bad := 0, dropped := 0, barrier := false, cancelled := false, started := false, binds := [], doneWritten := false,
    away := none }

/-- An act of that launch and context 0, at the given priority in its record's flags. -/
def act1 : Act := { blankAct with launch := 1 }

/-- A core that runs an act of context c, with engine e to move and the live state changed by f. -/
def running (e : Engine) (c : Ctx := ctx0) (f : Live → Live := id) : State :=
  { on e f with ctxs := [(0, c)], launches := [launch1], core := { Core.reset 0 with live := f live16, act := some act1 } }

/-- Such a state is ready for any opcode of e. -/
theorem ready_running (e : Engine) (c : Ctx) (f : Live → Live) {op : BitVec 7} {cu : Cue} {np nn : Nat} {uses : List (BitVec 5)}
    (h : opLegal op e = true) (h1 : ((f live16).eng e).started = false) (h3 : (f live16).tok = Vector.replicate 8 16)
    (h4 : (f live16).pendReg = []) (h5 : np ≤ 15 := by decide) (h6 : nn ≤ 15 := by decide) : Ready (running e c f) op cu np nn uses :=
  ready_of h1 h h3 h4 h5 h6

/-- A core whose act ends so. -/
def leaving (k : Ending) (c : Ctx := ctx0) : State := { running .a c with core := { (running .a c).core with ending := some k } }

/-- A cause that never enters the handler, and a handleable one with EN = 0; an ending under way with nothing left to do. -/
theorem witness_FaultEndsTheAct :
    ((8 : Nat) ∉ [1, 4, 5, 6] ∧ ((running .x).core.live.eng .x).tvec.getLsbD 31 = false ∧ (running .x).core.live.slow = [] ∧
      (running .x).core.ending = none ∧ ((running .x).core.live.eng .x).started = false) ∧
    (let s := leaving (.fault 8 .x 0 0)
     s.core.ending = some (.fault 8 .x 0 0) ∧ s.core.live.acc.all (fun x => decide (x.eng ≠ .x) || x.left) = true ∧ s.spent = true ∧
       s.chansIdle = true ∧ s.core.act = some act1 ∧ s.ctxAt act1.ctx = some ctx0 ∧ ctx0.flog.length < 256 ∧
       s.launches = [launch1] ∧ act1.launch = launch1.id) ∧
    ctx0.flogSeq + 1 ≠ 0 ∧ ({ ctx0 with flogSeq := 0xFFFFFFFF } : Ctx).flogSeq + 1 = 0 := by
  refine ⟨⟨by decide, rfl, rfl, rfl, rfl⟩, ⟨rfl, by decide, by decide +kernel, by decide +kernel, rfl, rfl, by decide, rfl, rfl⟩, by decide, rfl⟩

/-- M has started the `brk 7` of word 0 and waits at it. -/
def atBrk : State :=
  { State.reset with core := { Core.reset 0 with
      halt := true
      live := Live.reset.setEng .m { EngState.reset with started := true, phase := 1, imem := [(0, 0x01600007)] } } }

theorem witness_TrapAndBreakpoint :
    (running .m).eng.retire = [] ∧ Ready (running .m) 0x08 cu15 0 0 [] ∧ Ready (running .m) 0x0B cu15 0 0 [] ∧
      (running .m).core.hen = false ∧
      (let s := { running .m with core := { (running .m).core with hen := true } }
       Ready s 0x0B cu15 0 0 [] ∧ s.core.hen = true ∧ s.eng.retire = []) ∧
      atBrk.core.halt = true ∧ atBrk.core.live.brkAt = some (.m, cu0, 7) ∧
      { atBrk with cur := .m }.eng.fetched = .brk cu0 7 ∧ (atBrk.core.live.eng .a).started = false :=
  ⟨rfl, ready_of rfl rfl rfl rfl, ready_of rfl rfl rfl rfl, rfl, ⟨ready_of rfl rfl rfl rfl, rfl, rfl⟩, rfl, rfl, rfl, rfl⟩

/-- A register of every kind is read in its engine; ACCST in M with no pass; RW and W1C registers; forbidden accesses. -/
theorem witness_CsrInstructions :
    (∀ e, Ready (on e) 0x0C cu15 0 0 [3] ∧ Ready (on e) 0x0D cu15 0 0 [3, 1] ∧ Ready (on e) 0x0E cu15 0 0 [3, 1] ∧
      Ready (on e) 0x0F cu15 0 0 [3, 1]) ∧
      (opened (on .m) cu15).csr .m (0x24 : BitVec 11).toNat = some 0 ∧ (on .m).core.live.pass = none ∧
      csrWritable (0x24 : BitVec 11).toNat = true ∧ csrWritable (4 : BitVec 11).toNat = true ∧ csrClears (4 : BitVec 11).toNat = false ∧
      (opened (on .x) cu15).csr .x (4 : BitVec 11).toNat = some 0 ∧ (on .a).csr .a (0x7FF : BitVec 11).toNat = none ∧
      (0x113 : BitVec 11) ∈ [(0 : BitVec 11), 0x113] ∧ (on .a).eng.started = false :=
  ⟨fun e => by cases e <;> exact ⟨ready_on _ rfl, ready_on _ rfl, ready_on _ rfl, ready_on _ rfl⟩, rfl, rfl, rfl, rfl, rfl, rfl, rfl,
    by decide, rfl⟩

theorem witness_CsrMap : (7 : Nat) < 8 ∧ (0x7FF : Nat) ∈ [5, 6, 7, 0x7FF] := by decide

theorem witness_CsrWrites : Engine.a ≠ (on .m).cur := by decide

/-- A handler is entered once: TVEC.EN is a bit of a register that a CSR write sets (R189). -/
theorem test_tvec_write : ((on .a).setCsr 4 0xFFFFFFFF).eng.tvec = 0x80001FFF := by decide

/-- An overflowing sum wraps (R115), and s0 stays zero (R111). -/
theorem test_add_wraps :
    ((xs 0xFFFFFFFF 2).ws 3 ((xs 0xFFFFFFFF 2).rs 1 + (xs 0xFFFFFFFF 2).rs 2)).rs 3 = 1 ∧ ((xs 5 6).ws 0 9).rs 0 = 0 := by decide

/-- Two negative words: the signed and the unsigned high halves of their product (R115). -/
theorem test_mulh_and_mulhn :
    (match exec (.mulh cu0 3 1 2) (xs 0xFFFFFFFF 0xFFFFFFFF), exec (.mulhn cu0 3 1 2) (xs 0xFFFFFFFF 0xFFFFFFFF) with
      | .next t, .next u => decide (t.rs 3 = 0 ∧ u.rs 3 = 0xFFFFFFFE)
      | _, _ => false) = true := by decide

/-- -7 / 2 truncates to -3 with remainder -1, pending for the 14th counted instruction (R118, R124). -/
theorem test_div_truncates :
    (match exec (.divI cu0 3 1 2) (xs 0xFFFFFFF9 2), exec (.remI cu0 3 1 2) (xs 0xFFFFFFF9 2) with
      | .next t, .next u => decide (t.core.live.slow = [⟨14, 3, 0xFFFFFFFD, 0, none⟩] ∧
          u.core.live.slow = [⟨14, 3, 0xFFFFFFFF, 0, none⟩] ∧ t.rs 3 = 0)
      | _, _ => false) = true := by decide

/-- 1 + 2^-24 rounds to even, which is 1, and is inexact (R93, R97). -/
theorem test_fadd_ties_to_even :
    (match exec (.fadd cu0 3 1 2 0) (xs 0x3F800000 0x33800000) with
      | .next t => decide (t.rs 3 = 0x3F800000 ∧ t.core.live.fpflags = flagNX)
      | _ => false) = true := by decide

/-- `addi s1, s0, 159` of the barrier program, run by step as the first instruction. -/
theorem test_step_addi :
    (match step (State.reset.withFetchWord 32 0x0281009F) with
      | .next t => decide (t.rs 1 = 159 ∧ t.eng.pc = 1)
      | _ => false) = true := by decide

/-! ### Witnesses: vectors -/

/-- A filled load-queue entry with no marks. -/
def entry0 : LEntry := ⟨0, true, VReg.zero, none, none, none⟩

/-- X moves with two entries in lq0 and nothing in the store queues. -/
def queued : State := on .x fun l => l.setLoadQ 0 [entry0, entry0]

/-- An X instruction with two register sources and a register destination can run. -/
theorem vec_two {op : BitVec 7} (uses : List (BitVec 5)) (d : BitVec 5) (hd : d.toNat < 28) (h : opLegal op .x = true) :
    VecReady (on .x) op cu15 uses [1, 2] [d] [VReg.zero, VReg.zero] (opened (on .x) cu15) :=
  ⟨ready_on .x h, by
    simp only [Live.vecWait]
    have h1 : (opened (on .x) cu15).core.live.srcWait [1, 2] = none := rfl
    rw [h1]
    have h2 : (opened (on .x) cu15).core.live.dstWait d = none := by
      unfold Live.dstWait
      simp [isQueue, Nat.not_le.2 hd]
    simp [h2], rfl, rfl⟩

/-- One with queue fields as well: two entries of lq0 and a store queue with room (R53, R149). -/
theorem vec_queue {op : BitVec 7} (uses : List (BitVec 5)) (h : opLegal op .x = true) :
    ∃ u, VecReady queued op cu15 uses [28, 28] [31] [VReg.zero, VReg.zero] u :=
  ⟨(opened queued cu15).setLive ((opened queued cu15).core.live.setLoadQ 0 []), ready_of rfl h rfl rfl, rfl, rfl, rfl⟩

/-- One source, none, and no destination. -/
theorem vec_forms {op : BitVec 7} (uses : List (BitVec 5)) (h : opLegal op .x = true) :
    VecReady (on .x) op cu15 uses [1] [31] [VReg.zero] (opened (on .x) cu15) ∧
      VecReady (on .x) op cu15 uses [1] [] [VReg.zero] (opened (on .x) cu15) ∧
      VecReady (on .x) op cu15 uses [1, 2] [] [VReg.zero, VReg.zero] (opened (on .x) cu15) ∧
      VecReady (on .x) op cu15 uses [] [31] [] (opened (on .x) cu15) ∧ VecReady (on .x) op cu15 uses [] [] [] (opened (on .x) cu15) :=
  ⟨⟨ready_on .x h, rfl, rfl, rfl⟩, ⟨ready_on .x h, rfl, rfl, rfl⟩, ⟨ready_on .x h, rfl, rfl, rfl⟩, ⟨ready_on .x h, rfl, rfl, rfl⟩,
    ⟨ready_on .x h, rfl, rfl, rfl⟩⟩

/-- Every type is given by its own selector, and FP32 by an almanac entry of zeros (R55, R106). -/
theorem typed_all : ∀ t : BitVec 3, t ≠ 7 → Typed (on .x) t allTypes (VTy.ofTs t) := by
  intro t ht
  refine ⟨?_, .inl ⟨ht, rfl⟩⟩
  revert t; decide

theorem typed_almanac : Typed (on .x) 7 allTypes .f32 := ⟨by decide, .inr ⟨rfl, by decide, rfl⟩⟩

theorem witness_VectorSources :
    (queued.core.live.drains = [] ∧ (27 : BitVec 5).toNat < 28 ∧ 28 ≤ (28 : BitVec 5).toNat ∧
      queued.core.live.loadQ ((28 : BitVec 5).toNat - 28) = [entry0, entry0] ∧ entry0.filled = true ∧ entry0.trap = none ∧
      queued.core.live.loadQ ((31 : BitVec 5).toNat - 28) = [] ∧
      8 ≤ ((queued.core.live.setStoreQ 3 (List.replicate 8 VReg.zero)).storeQ ((31 : BitVec 5).toNat - 28)).length) ∧
    (let e : LEntry := { entry0 with poison := some 0, mmx := some 64, refused := some 128 }
     let s := on .x fun l => l.setLoadQ 3 [e]
     Ready s 0x26 cu15 0 0 [] ∧ s.core.live.loadQ ((31 : BitVec 5).toNat - 28) = [e] ∧ e.filled = true ∧ e.poison = some 0 ∧
       ({ e with poison := none } : LEntry).mmx = some 64 ∧ Typed s 0 allTypes .f32 ∧ (∀ r ∈ s.eng.retire, r.done = true) ∧
       ∃ r ∈ (s.modEng fun x => { x with retire := [⟨0, false, 0, 0, []⟩] }).eng.retire, r.done = false) :=
  ⟨⟨rfl, by decide, by decide, rfl, rfl, rfl, rfl, by decide⟩, ready_of rfl rfl rfl rfl, rfl, rfl, rfl, rfl,
    ⟨by decide, .inl ⟨by decide, rfl⟩⟩, (fun _ h => nomatch h), ⟨_, List.mem_singleton.2 rfl, rfl⟩⟩

theorem witness_ElementWrites :
    (8 : Nat) ∈ [8, 16, 32] ∧ 32 ∈ [8, 16, 32] ∧ (List.replicate 128 ((1 : Nat), (0 : Flags))).length = 4096 / 32 ∧
      (27 : BitVec 5).toNat < 28 ∧ 28 ≤ (28 : BitVec 5).toNat :=
  ⟨by decide, by decide, rfl, by decide, by decide⟩

/-- The floating-point types and the integer types of R154. -/
theorem witness_VectorArithmetic :
    (VTy.ofTs 0).ieee? = some fp32 ∧ (VTy.ofTs 3).ieee? = none ∧ Typed (on .x) 0 allTypes (VTy.ofTs 0) ∧
      Typed (on .x) 6 allTypes (VTy.ofTs 6) ∧ Typed (on .x) 7 allTypes .f32 ∧
      VecReady (on .x) 0x20 cu15 [] [1, 2] [27] [VReg.zero, VReg.zero] (opened (on .x) cu15) ∧
      ∃ u, VecReady queued 0x25 cu15 [] [28, 28] [31] [VReg.zero, VReg.zero] u :=
  ⟨rfl, rfl, typed_all 0 (by decide), typed_all 6 (by decide), typed_almanac, vec_two [] 27 (by decide) rfl, vec_queue [] rfl⟩

theorem witness_VectorUnary :
    Typed (on .x) 0 signTypes .f32 ∧ Typed (on .x) 3 signTypes (VTy.ofTs 3) ∧ Typed (on .x) 2 floatTypes (VTy.ofTs 2) ∧
      VecReady (on .x) 0x26 cu15 [] [1] [31] [VReg.zero] (opened (on .x) cu15) ∧ fp16 ∈ [fp32, bf16, fp16] ∧
      (4095 < 4096 ∧ (4095 : Nat) ≠ 0) :=
  ⟨⟨by decide, .inl ⟨by decide, rfl⟩⟩, ⟨by decide, .inl ⟨by decide, rfl⟩⟩, ⟨by decide, .inl ⟨by decide, rfl⟩⟩,
    (vec_forms [] rfl).1, by decide, by decide⟩

theorem witness_VectorLogicAndCompare :
    Typed (on .x) 6 intTypes (VTy.ofTs 6) ∧ Typed (on .x) 3 sraTypes (VTy.ofTs 3) ∧ (6 : BitVec 3).toNat < 7 ∧
      VTy.ofTs 2 ∈ floatTypes ∧ VecReady (on .x) 0x28 cu15 [] [1, 2] [27] [VReg.zero, VReg.zero] (opened (on .x) cu15) ∧
      VecReady (on .x) 0x2B cu15 [] [1, 2] [] [VReg.zero, VReg.zero] (opened (on .x) cu15) :=
  ⟨⟨by decide, .inl ⟨by decide, rfl⟩⟩, ⟨by decide, .inl ⟨by decide, rfl⟩⟩, by decide, by decide, vec_two [] 27 (by decide) rfl,
    (vec_forms [] rfl).2.2.1⟩

theorem witness_VectorConditions :
    (VTy.ofTs 3).ieee? = none ∧ (VTy.ofTs 0).ieee? = some fp32 ∧ fp32.decode 0x80000000 = .fin true 0 (-149) ∧
      fp32.decode 1 = .fin false 1 (-149) ∧ ((fp32.decode 0x7FC00000).isNan || (fp32.decode 1).isNan) = true ∧
      fp32.decode 0x7F800000 = .inf false ∧ fp32.decode 0xFF800000 = .inf true := by decide

theorem witness_VectorScalarsAndRearrangement :
    Typed (on .x) 1 allTypes (VTy.ofTs 1) ∧ VTy.ofTs 5 ∈ intTypes ∧ (4 : BitVec 3).toNat < 5 ∧
      VecReady (on .x) 0x2D cu15 [1] [] [31] [] (opened (on .x) cu15) ∧ VecReady (on .x) 0x2E cu15 [3, 4] [1] [] [VReg.zero] (opened (on .x) cu15) ∧
      VecReady (on .x) 0x2F cu15 [1, 4] [] [] [] (opened (on .x) cu15) ∧
      VecReady (on .x) 0x33 cu15 [4] [1, 2] [27] [VReg.zero, VReg.zero] (opened (on .x) cu15) :=
  ⟨typed_all 1 (by decide), by decide, by decide, (vec_forms [1] rfl).2.2.2.1, (vec_forms [3, 4] rfl).2.1, (vec_forms [1, 4] rfl).2.2.2.2,
    vec_two [4] 27 (by decide) rfl⟩

/-- Scaled and unscaled formats, and both ratios of widening and narrowing (R99, R167). -/
theorem witness_VectorConversions :
    (14 : BitVec 4) ≠ 15 ∧ (2 : BitVec 2).toNat < 3 ∧ fmtScaled 3 = true ∧ fmtScaled 9 = true ∧ fmtW 0 = 2 * fmtW 1 ∧ fmtW 0 = 4 * fmtW 3 ∧
      (26 : BitVec 5).toNat + fmtW 0 / fmtW 1 ≤ 28 ∧ VecReady (on .x) 0x34 cu15 [] [1] [31] [VReg.zero] (opened (on .x) cu15) ∧
      VecReady (on .x) 0x35 cu15 [] [1] [] [VReg.zero] (opened (on .x) cu15) ∧ VecReady (on .x) 0x36 cu15 [] [] [31] [] (opened (on .x) cu15) ∧
      VecReady (on .x) 0x38 cu15 [] [1, 2] [27] [VReg.zero, VReg.zero] (opened (on .x) cu15) :=
  ⟨by decide, by decide, rfl, rfl, rfl, rfl, by decide, (vec_forms [] rfl).1, (vec_forms [] rfl).2.1, (vec_forms [] rfl).2.2.2.1,
    vec_two [] 27 (by decide) rfl⟩

theorem witness_VectorReductions :
    (1 : BitVec 2).toNat < 2 ∧ Typed (on .x) 0 allTypes (VTy.ofTs 0) ∧ (VTy.ofTs 0).ieee? = some fp32 ∧ (VTy.ofTs 4).ieee? = none ∧
      VecReady (on .x) 0x39 cu15 [] [1] [31] [VReg.zero] (opened (on .x) cu15) ∧ (12 : BitVec 4).toNat < 13 ∧
      WellFormed (.vdot cu15 3 1 2 0 12 1 0 true) = true ∧ WellFormed (.vdot cu15 3 1 2 0 9 10 1 true) = true ∧
      VecReady (on .x) 0x3C cu15 [] [1, 2] [27] [VReg.zero, VReg.zero] (opened (on .x) cu15) :=
  ⟨by decide, typed_all 0 (by decide), rfl, rfl, (vec_forms [] rfl).1, by decide, by decide, by decide, vec_two [] 27 (by decide) rfl⟩

theorem witness_VectorSort :
    ((3 : BitVec 3) = 0 ∨ (3 : BitVec 3) = 3) ∧ VecReady (on .x) 0x3D cu15 [] [1, 2] [] [VReg.zero, VReg.zero] (opened (on .x) cu15) :=
  ⟨by decide, (vec_forms [] rfl).2.2.1⟩

theorem witness_VectorSegmentSums :
    (1 : BitVec 2).toNat < 2 ∧ VecReady (on .x) 0x3E cu15 [] [1, 2] [27] [VReg.zero, VReg.zero] (opened (on .x) cu15) :=
  ⟨by decide, vec_two [] 27 (by decide) rfl⟩

/-- The smallest and the largest group, and a bad, an empty and an ordinary group (R175). -/
theorem witness_OnlineSoftmax :
    2 ≤ (2 : BitVec 3).toNat ∧ (0 : Nat) < 128 / 2 ^ (7 : BitVec 3).toNat ∧
      VecReady (on .x) 0x40 cu15 [4] [1] [] [VReg.zero] (opened (on .x) cu15) ∧
      VecReady (on .x) 0x41 cu15 [] [1, 2] [27] [VReg.zero, VReg.zero] (opened (on .x) cu15) ∧
      ([fp32.decode 0x7F800000].any fun v => v.isNan || v == FVal.inf false) = true ∧
      ([fp32.decode 0xFF800000].any fun v => v.isNan || v == FVal.inf false) = false ∧
      [fp32.decode 0xFF800000].foldl FVal.max (.inf true) = FVal.inf true ∧
      [fp32.decode 0x3F800000].foldl FVal.max (.inf true) ≠ FVal.inf true :=
  ⟨by decide, by decide, (vec_forms [4] rfl).2.1, vec_two [] 27 (by decide) rfl, by decide, by decide, by decide, by decide⟩

theorem witness_PredicateGroup :
    Ready (on .x) 0x42 cu15 0 0 [] ∧ Typed (on .x) 4 allTypes (VTy.ofTs 4) ∧ (on .x).core.live.drains = [] ∧
      Ready (on .x) 0x43 cu15 0 0 [] ∧ Ready (on .x) 0x44 cu15 0 0 [] ∧ Ready (on .x) 0x45 cu15 0 0 [3] ∧
      Ready (on .x) 0x46 cu15 0 0 [3] ∧ Ready (on .x) 0x47 cu15 0 0 [3] :=
  ⟨ready_on .x rfl, typed_all 4 (by decide), rfl, ready_on .x rfl, ready_on .x rfl, ready_on .x rfl, ready_on .x rfl, ready_on .x rfl⟩

/-- `vshl` by the width gives 0, `vsra` by the width the sign (R158). -/
theorem test_vector_shift_by_width :
    (match exec (.vsra cu0 3 1 2 3 0) ((on .x).setLive { live16 with v := (live16.v.set 1 ⟨0x80000000, 0⟩).set 2 ⟨32, 0⟩ }) with
      | .next t => decide (elem 32 (t.core.live.vreg 3).data 0 = 0xFFFFFFFF ∧ elem 32 (t.core.live.vreg 3).data 1 = 0)
      | _ => false) = true := by decide +kernel

/-! ### Witnesses: the matrix engine, the scratchpad and the banks -/

theorem getD_replicate_none (n k : Nat) : vget (Vector.replicate n (none : Option Mark)) k none = none := by
  simp only [vget]
  by_cases h : k < n
  · rw [Vector.getElem?_eq_getElem h]; simp
  · rw [Vector.getElem?_eq_none (Nat.le_of_not_lt h)]; rfl

/-- No macro is stationary at bring-up. -/
theorem reset_marks (m : Nat) : (on .m).core.live.mark m = none := getD_replicate_none 64 m

/-- A scene that declares macro 0 stationary for group 3. -/
def statScene : Scene := ⟨0, false, [], [[0, 0, 0, 0]], [], [], [(0, 1, .mxi8, 3)], [], 0, 0, true⟩

/-- M moves in an act of that scene. -/
def declaring : State :=
  { on .m with ctxs := [(0, { ctx0 with scenes := [statScene] })],
               core := { Core.reset 0 with live := live16, act := some act1, scene := some (0, 0) } }

/-- The last macro and the last source that fits, an odd source, a macro of another group, and no mark at all. -/
theorem witness_MatrixStationary :
    (Ready (on .m) 0x48 cu15 0 0 [1, 2] ∧ (63 : BitVec 6).toNat + (1 : BitVec 7).toNat ≤ 64 ∧ statPairs (1 : BitVec 4).toNat 8 = true) ∧
      Ready (eng .m fun x => x.setS 1 33) 0x48 cu15 0 0 [1, 2] ∧ ((opened (eng .m fun x => x.setS 1 33) cu15).rs 1).toNat % 32 ≠ 0 ∧
      ((opened (on .m) cu15).rs 1).toNat % 32 = 0 ∧ ((opened (on .m) cu15).rs 1).toNat + 1 * (256 * 256 * 16 / 8) ≤ 2 ^ 22 ∧
      ((on .m fun l => l.setMark 63 (some ⟨2, .mxi8⟩)).core.live.mark 63 = some ⟨2, .mxi8⟩ ∧ (2 : Nat) ≠ (1 : BitVec 5).toNat) ∧
      (∀ m, (on .m).core.live.mark m = none) ∧ (∀ m j, (63 ≤ m ∧ m < 63 + 1) → j < 1 → 0 + (j + 1) * (256 * 256 * 16 / 8) ≤ 65536 * m) ∧
      (∀ m, (on .m).declared m = none) ∧ (on .m).scene = none ∧ (on .m).core.live.pass = none ∧ (on .m).core.live.spDrains = [] :=
  ⟨⟨ready_on .m rfl, by decide, rfl⟩, ready_eng .m _ rfl, by decide, by decide, by decide, by decide, reset_marks,
    fun m j hm hj => by omega, fun _ => rfl, rfl, rfl, rfl⟩

theorem witness_MatrixStationary_plain :
    Ready (on .m) 0x49 cu15 0 0 [] ∧ Ready declaring 0x49 cu15 0 0 [] ∧ declaring.declared 0 = some (3, .mxi8) ∧
      (0 ≤ 0 ∧ 0 < 0 + (1 : BitVec 7).toNat) ∧ (∀ m, (on .m).declared m = none) ∧ (on .m).core.live.pass = none :=
  ⟨ready_on .m rfl, ready_of rfl rfl rfl rfl, rfl, by decide, fun _ => rfl, rfl⟩

/-- M with two entries in lq0. -/
def fedM : State := on .m fun l => l.setLoadQ 0 [entry0, entry0]

/-- A feed of one FP32 vector takes two entries. -/
theorem feed_entries : List.replicate ((1 * 256 * fmtW 0 / 8 + 511) / 512) (28 : BitVec 5) = [28, 28] := by decide

/-- A feed of one vector from lq0 can run. -/
theorem witness_MatrixFeed_queue :
    ((28 : BitVec 5) ≠ 0 ∧ fedM.core.live.rowbuf.length + 1 ≤ 8 ∧ fedM.core.live.pass = none ∧ fedM.core.live.spDrains = []) ∧
      ∃ u, VecReady fedM 0x4A cu15 [0, 0] (List.replicate ((1 * 256 * fmtW 0 / 8 + 511) / 512) 28) [] [VReg.zero, VReg.zero] u := by
  refine ⟨⟨by decide, by decide, rfl, rfl⟩, ?_⟩
  rw [feed_entries]
  exact ⟨(opened fedM cu15).setLive ((opened fedM cu15).core.live.setLoadQ 0 []), ready_of rfl rfl rfl rfl, rfl, rfl, rfl⟩

/-- A feed of eight vectors from the scratchpad; an odd offset; a row buffer that stays full. -/
theorem witness_MatrixFeed :
    (Ready (on .m) 0x4A cu15 0 0 [1, 2] ∧ (4 : BitVec 3).toNat < 5 ∧ ((opened (on .m) cu15).rs 1).toNat % 32 = 0 ∧
        0 + (7 + 1) * 256 * fmtW 0 / 8 ≤ 2 ^ 22 ∧ (on .m).core.live.rowbuf.length + (7 + 1) ≤ 8 ∧ (on .m).core.live.pass = none ∧
        (on .m).core.live.spDrains = []) ∧
      ((opened (eng .m fun x => x.setS 1 33) cu15).rs 1).toNat % 32 ≠ 0 ∧
      8 < (on .m fun l => { l with rowbuf := [⟨8, [], [], []⟩] }).core.live.rowbuf.length + (7 + 1) ∧
      (almSm (on .m).almNow.2 < 8 ∧ almA (on .m).almNow.2 ≤ 10) :=
  ⟨⟨ready_on .m rfl, by decide, by decide, by decide, by decide, rfl, rfl⟩, by decide, by decide, by decide⟩

/-- A vector of width 8. -/
def avec8 : AVec := ⟨8, [], [], []⟩

/-- M with the one macro 63 stationary for group 5 and n vectors of width 8 in the row buffer. -/
def stat63 (n : Nat) : State :=
  on .m fun l => { l.setMark 63 (some ⟨5, .mxi8⟩) with rowbuf := List.replicate n avec8 }

/-- Only macro 63 is marked there. -/
theorem stat63_mark (n m : Nat) (k : Mark) : (stat63 n).core.live.mark m = some k ↔ m = 63 ∧ k = ⟨5, .mxi8⟩ := by
  show vget (vset (Vector.replicate 64 none) 63 (some ⟨5, .mxi8⟩)) m none = some k ↔ _
  simp only [vget, vset]
  by_cases hm : m = 63
  · subst hm; simp [eq_comm]
  · by_cases h : m < 64
    · simp [Vector.getElem?_eq_getElem h, hm, Ne.symm hm]
    · simp [Vector.getElem?_eq_none (Nat.le_of_not_lt h), hm]

/-- One macro, one row, no group, a vector missing, one at hand, one of another width, and a pass under way. -/
theorem witness_MatrixFeedAndPass :
    (∀ n, Ready (stat63 n) 0x4B cu15 0 0 [] ∧ (stat63 n).core.live.spDrains = []) ∧ (7 : BitVec 5).toNat < 8 ∧ (2 : BitVec 3).toNat < 5 ∧ (31 : BitVec 5).toNat + (0 : BitVec 5).toNat < 32 ∧
      (∀ m k, (stat63 0).core.live.mark m = some k → k.group ≠ (4 : BitVec 5).toNat) ∧
      ((0 : Nat) < 1 ∧ (∀ n m, (63 ≤ m ∧ m < 63 + 1) ↔ (stat63 n).core.live.mark m = some ⟨(5 : BitVec 5).toNat, .mxi8⟩) ∧
        (∀ n m k, (stat63 n).core.live.mark m = some k → k.group = (5 : BitVec 5).toNat → k.fmt = .mxi8) ∧ 1 % 2 ^ 0 = 0 ∧ 7 + 1 / 2 ^ 0 * 1 ≤ 8) ∧
      (∀ n, (stat63 n).core.live.pass = none) ∧ (∃ v ∈ (stat63 1).core.live.rowbuf.take 1, v.w ≠ 6) ∧
      (∀ v ∈ (stat63 1).core.live.rowbuf.take 1, v.w = 8) ∧ 1 ≤ (stat63 1).core.live.rowbuf.length ∧
      (∀ v ∈ (stat63 0).core.live.rowbuf.take 1, v.w = 8) ∧ (stat63 0).core.live.rowbuf.length < 1 :=
  ⟨fun n => ⟨ready_of rfl rfl rfl rfl, rfl⟩, by decide, by decide, by decide,
    fun m k h => by rw [((stat63_mark 0 m k).1 h).2]; decide,
    ⟨by decide, fun n m => by rw [stat63_mark]; constructor <;> intro h <;> simp_all; omega,
      fun n m k h _ => by rw [((stat63_mark n m k).1 h).2], by decide, by decide⟩,
    fun _ => rfl, ⟨avec8, by decide, by decide⟩, by decide, by decide, by decide, by decide⟩

/-- A pass of tile 7 under way, and the drain of the last row. -/
theorem witness_MatrixTilesAndDrain :
    (let p : PassRun := ⟨0, 7, 5, 63, .mxi8, 1, 1, 8, 1, 0, false, 0, []⟩
     let s := on .m fun l => { l with pass := some p }
     Ready s 0x4C cu15 0 0 [] ∧ s.core.live.pass ≠ none ∧ Ready s 0x4D cu15 0 0 [] ∧ s.core.live.pass = some p ∧ p.hits 7 = true) ∧
      (Ready (on .m) 0x4C cu15 0 0 [] ∧ Ready (on .m) 0x4D cu15 0 0 [] ∧ (on .m).core.live.pass = none ∧ (7 : BitVec 5).toNat < 8) ∧
      Ready (on .m) 0x4F cu15 0 0 [3, 1, 2] ∧
      (Ready (on .m) 0x4E cu15 0 0 [1, 2] ∧ ((opened (on .m) cu15).rs 1).toNat % 32 = 0 ∧ 0 + 32 * fmtW 0 * 32 ≤ 2 ^ 22 ∧
        fmtScaled 0 = false ∧ (on .m).core.live.drains = []) ∧
      ((opened (eng .m fun x => x.setS 1 33) cu15).rs 1).toNat % 32 ≠ 0 ∧
      (let s := eng .m fun x => x.setS 2 0x2000
       ((opened s cu15).rs 1).toNat + 32 * fmtW 3 * 32 ≤ ((opened s cu15).rs 2).toNat ∧ ((opened s cu15).rs 2).toNat + 8 * 32 ≤ 2 ^ 22) ∧
      (almSm (on .m).almNow.2 < 8 ∧ almOut (on .m).almNow.2 ≤ 10) :=
  ⟨⟨ready_of rfl rfl rfl rfl, by simp [on], ready_of rfl rfl rfl rfl, rfl, rfl⟩,
    ⟨ready_on .m rfl, ready_on .m rfl, rfl, by decide⟩, ready_on .m rfl, ⟨ready_on .m rfl, by decide, by decide, rfl, rfl⟩, by decide,
    by decide, by decide⟩

/-- A drain whose last write to the scratchpad is still to be made, and one that a pass holds back. -/
theorem witness_MatrixTilesAndDrain_writes :
    let s := on .m fun l => { l with spDrains := [⟨4, [(65536, [1, 2])]⟩], em := { l.em with retire := [⟨4, false, 0, 0, []⟩] } }
    s.core.live.drainReady ≠ [] ∧
      (s.setLive { s.core.live with pass := some ⟨0, 7, 5, 1, .mxi8, 1, 1, 8, 1, 1, false, 0, []⟩ }).core.live.drainReady = [] := by
  decide +kernel

/-- The last entry of the scratchpad, one past it, an odd offset, a full load queue, an empty store queue and two full entries. -/
theorem witness_ScratchpadAccess :
    (let o := fun v : DWord => (opened (as v 0) cu15).ra 1 + (0 : BitVec 9).signExtend 64 * 512
     (∀ v, Ready (as v 0) 0x50 cu15 0 0 []) ∧ 28 ≤ (30 : BitVec 5).toNat ∧ (o 4193792).toNat % 64 = 0 ∧ (o 4193792).toNat ≤ 4194304 - 512 ∧
       4194304 - 512 < (o 4193856).toNat ∧ (o 4193856).toNat % 64 = 0 ∧ (o 1).toNat % 64 ≠ 0 ∧
       ((as 0 0).core.live.loadQ 2).length < 8 ∧ 8 ≤ ((as 0 0).core.live.setLoadQ 2 (List.replicate 8 entry0) |>.loadQ 2).length) ∧
    (let o := fun v : Word => (opened (eng .b fun x => x.setS 1 v) cu15).rs 1 + (0 : BitVec 9).signExtend 32 * 512
     (∀ v, Ready (eng .b fun x => x.setS 1 v) 0x51 cu15 0 0 [1]) ∧ (o 33).toNat % 64 ≠ 0 ∧ 4194304 - 512 < (o 4193856).toNat ∧
       (o 4193856).toNat % 64 = 0 ∧ (o 65088).toNat % 64 = 0 ∧ (o 65088).toNat ≤ 4194304 - 512 ∧ (on .b).core.live.storeQ 3 = [] ∧
       (on .b fun l => l.setStoreQ 3 [VReg.zero]).core.live.storeQ 3 = VReg.zero :: [] ∧
       ((on .b).core.live.fifo 0).length < 8 ∧ ((on .b).core.live.fifo 1).length < 8) ∧
    (let s := on .x fun l => l.setLoadQ 2 [entry0, entry0]
     Ready s 0x72 cu15 0 0 [] ∧ 28 ≤ (30 : BitVec 5).toNat ∧ s.core.live.loadQ ((30 : BitVec 5).toNat - 28) = [entry0] ++ [entry0] ∧
       [entry0].length = (0 : BitVec 2).toNat + 1 ∧ ∀ e ∈ [entry0], e.filled = true) ∧
    Ready (on .x) 0x7B cu15 0 0 [1, 2] :=
  ⟨⟨fun v => ready_as v 0 rfl, by decide, by decide, by decide, by decide, by decide, by decide, by decide, by decide⟩,
    ⟨fun v => ready_eng .b _ rfl, by decide, by decide, by decide, by decide, by decide, rfl, rfl, by decide, by decide⟩,
    ⟨ready_of rfl rfl rfl rfl, by decide, rfl, rfl, by decide⟩, ready_on .x rfl⟩

/-- Every bank's FIFO is empty at bring-up. -/
theorem reset_fifos (j : Nat) : (on .b).core.live.fifo j = [] := by
  show vget (Vector.replicate 64 []) j [] = []
  simp only [vget]
  by_cases h : j < 64
  · rw [Vector.getElem?_eq_getElem h]; simp
  · rw [Vector.getElem?_eq_none (Nat.le_of_not_lt h)]; rfl

/-- One chunk in bank 63, an odd offset, a range that ends past its bank, and a full FIFO. -/
theorem witness_BankCommands :
    (∀ v op, opLegal op .b = true → Ready (eng .b fun x => x.setS 1 v) op cu15 0 0 [1, 0, 0, 0]) ∧
      (0x003F0000 : Word).toNat % 65536 % 32 = 0 ∧ ((63 : Nat) + 1 ≤ 64 ∧ (0x003F0000 : Word).toNat < 2 ^ 22) ∧
      (0x003F0001 : Word).toNat % 65536 % 32 ≠ 0 ∧ 65536 < (0x0000FFE0 : Word).toNat % 65536 + 64 ∧ 64 < 63 + 2 ∧
      (∀ j, ((on .b).core.live.fifo j).length < 8) ∧
      (∃ j, j = 63 ∧ 8 ≤ (((on .b).core.live.setFifo 63 (List.replicate 8 ⟨0, .stSp cu0 0 0, 0, 0, 0, 0, 0, 0⟩)).fifo j).length) ∧
      ((opened (on .b) cu15).rs 1).toNat + 32 ≤ 4194304 ∧ 4194304 < (4194304 : Word).toNat + 32 :=
  ⟨fun v op h => ready_eng .b _ h, by decide, by decide, by decide, by decide, by decide, fun j => by rw [reset_fifos]; decide,
    ⟨63, rfl, by decide⟩, by decide, by decide⟩

/-- A command at the head of bank 0. -/
def inBank (i : Instr) (dv av bv kv : Word) : State := on .b fun l => l.setFifo 0 [⟨0, i, dv, av, bv, kv, 0, 0⟩]

theorem inBank_fifo (i : Instr) (dv av bv kv : Word) : (inBank i dv av bv kv).core.live.fifo 0 = [⟨0, i, dv, av, bv, kv, 0, 0⟩] := rfl

/-- A command at the heads of two macros of one group. -/
def inTwo : State := on .b fun l =>
  let c : BankCmd := ⟨0, .bkAdd cu0 1 2 3 1 0 0 0, 0, 0, 32, 0, 0, 0⟩
  (((l.setFifo 0 [c]).setFifo 1 [c]).setMark 0 (some ⟨7, .mxi8⟩)).setMark 1 (some ⟨7, .mxi8⟩)

/-- A command in place, one whose sources are clear of its destination, a conversion, and a copy alone at the heads of its banks;
a pass that reads bank 0. -/
theorem witness_BankPerform :
    (inBank (.bkAdd cu0 1 2 3 0 0 0 0) 0 0 32 0).core.live.fifo 0 = [⟨0, .bkAdd cu0 1 2 3 0 0 0 0, 0, 0, 32, 0, 0, 0⟩] ∧
      (inBank (.bkAdd cu0 1 2 3 0 0 0 0) 0 0 32 0).core.ending = none ∧ (inBank (.bkAdd cu0 1 2 3 0 0 0 0) 0 0 32 0).core.live.pass = none ∧
      (13 : BitVec 4) ∈ [(0 : BitVec 4), 1, 2, 12, 13] ∧ (0 + 32 ≤ 32 ∨ 32 + 32 ≤ 0) ∧ (bankTy 1).ieee? = some bf16 ∧
      (0 + 8 * 32 / 8 ≤ 4096 ∧ 32 ∣ 0 ∧ 32 ∣ 4096) ∧ (65536 * 0 ≤ (0x0000FE00 : Word).toNat + 511 ∧ (0x0000FE00 : Word).toNat < 65536 * (0 + 1)) ∧
      (let s := inBank (.bkCopy cu0 1 2 0) 0 32 0 0
       (∀ k, k < 64 → ((0 < 65536 * (k + 1) ∧ 65536 * k < 0 + 32) ∨ (32 < 65536 * (k + 1) ∧ 65536 * k < 32 + 32)) →
         ∃ x xs, s.core.live.fifo k = x :: xs ∧ x.seq = 0) ∧ (32 + 32 ≤ 0 ∨ 0 + 32 ≤ 32)) ∧
      (let p : PassRun := ⟨0, 7, 5, 0, .mxi8, 1, 1, 8, 1, 0, false, 0, []⟩
       p.reads 0 = true ∧ p.rows = 0 ∧ 0 < { p with rows := 1 }.rows) ∧
      (inBank (.bkAdd cu0 1 2 3 0 0 0 0) 0 0 32 0).core.live.mark 0 = none ∧
      (let l := inTwo.core.live
       l.mark 0 = some ⟨7, .mxi8⟩ ∧ l.mark 1 = some ⟨7, .mxi8⟩ ∧ l.fifo 0 = l.fifo 1 ∧ l.fifo 0 ≠ [] ∧ l.bankReady 0 ≠ none ∧
         0 % 65536 + 32 ≤ 65536) :=
  ⟨rfl, rfl, rfl, by decide, by decide, rfl, by decide, by decide,
    ⟨fun k _ hb => by
      have : k = 0 := by omega
      subst this
      exact ⟨_, _, rfl, rfl⟩, by decide⟩, ⟨rfl, rfl, by decide⟩, rfl, by decide +kernel⟩

/-- The command of one chunk in bank 0 leaves its FIFO and adds its elements (R224). -/
theorem test_bank_add :
    (match exec (.bankCommandStart 0) (inBank (.bkAdd cu0 1 2 3 0 13 0 0) 64 0 32 0 |> fun s =>
        s.setLive { s.core.live with scratch := ⟨[(0, 7), (32, 5)], []⟩ }) with
      | .next t => decide (t.core.live.scratch.elem 32 64 0 = 12 ∧ t.core.live.fifo 0 = [])
      | _ => false) = true := by decide +kernel

/-! ### Witnesses: global memory -/

/-- Page 1 of context 0, at page 1 of the module. -/
def page1 (r w cow : Bool) : Trans := ⟨0, 4096, 4096, 4096, r, w, cow, 0, 0, false⟩

/-- A moves in an act of context 0 whose page 1 is in the TLB, with a1 = v, a2 = w and the live state changed by f. -/
def mapped (v w : DWord) (f : Live → Live := id) (t : Trans := page1 true true false) : State :=
  { running .a (f := fun l => f { l with a := (l.a.set 1 v).set 2 w }) with
    core := { Core.reset 0 with live := f { live16 with a := (live16.a.set 1 v).set 2 w }, act := some act1, tlb := [t] } }

/-- A check that passes has pieces. -/
theorem passes_of {u : State} {ck : Checked} (h : (match ck with | .ok _ _ => true | _ => false) = true) : ∃ ps x, Passes u ck ps x := by
  cases ck with
  | ok ps ts => exact ⟨ps, _, ts, rfl, rfl⟩
  | trap t ts => cases h
  | cow p ts => cases h

/-- One that passes with one piece has that piece. -/
theorem passes_one {u : State} {ck : Checked} (h : (match ck with | .ok [_] _ => true | _ => false) = true) :
    ∃ p x, Passes u ck [p] x := by
  cases ck with
  | ok ps ts =>
    match ps with
    | [p] => exact ⟨p, _, ts, rfl, rfl⟩
    | [] => cases h
    | _ :: _ :: _ => cases h
  | trap t ts => cases h
  | cow p ts => cases h

/-- A page with no translation, one that is read only, one that waits for a copy, a misaligned and a far address, and the
last word of a page. -/
theorem witness_AccessChecks :
    ((8188 : DWord).toNat % 4096 + 4 ≤ 4096 ∧ (0 : Nat) < 4) ∧ 2 ^ 56 ≤ (0x0100000000000000 : DWord).toNat ∧
      (0x00FFFFFFFFFFFFFC : DWord).toNat < 2 ^ 56 ∧ (8188 : DWord).toNat % 4 = 0 ∧ (8189 : DWord).toNat % 4 ≠ 0 ∧
      (mapped 0 0).ctxAt (mapped 0 0).ctxId = some ctx0 ∧ (mapped 0 0).translate 0 0 0 = none ∧
      (mapped 0 0).translate 0 0 8188 = some (page1 true true false) ∧
      (mapped 0 0 id (page1 true false true)).translate 0 0 4096 = some (page1 true false true) ∧ ((4096 : DWord), 16 * (mapped 0 0).core.num + ({ write := true } : Want).who) ∉ ctx0.cowRefused ∧
      (mapped 0 0).pairRefuses 1 = false ∧ paSpace (4096 : BitVec 52) = 0 ∧ paPeer (4096 : BitVec 52) = 0 ∧
      paSpace (0xC000000000000 : BitVec 52) = 3 := by
  refine ⟨by decide, by decide, by decide, by decide, by decide, rfl, by decide +kernel, by decide +kernel, by decide +kernel, by decide,
    by decide +kernel, rfl, rfl, rfl⟩

/-- Loads and stores whose checks pass, one that is not mapped, full and empty queues, and an atomic at every scope. -/
theorem witness_GlobalIssue :
    (∀ op, opLegal op .a = true → Ready (mapped 4096 0) op cu15 0 0 [28, 3, 4, 5, 6]) ∧ 28 ≤ (28 : BitVec 5).toNat ∧
      ((mapped 4096 0).core.live.loadQ 0).length < 8 ∧
      8 ≤ ((mapped 4096 0 fun l => l.setLoadQ 0 (List.replicate 8 entry0)).core.live.loadQ 0).length ∧
      (∃ ps x, Passes (opened (mapped 4096 0) cu15) ((opened (mapped 4096 0) cu15).range { write := false } 4096 512 64) ps x) ∧
      (∃ ps x, Passes (opened (mapped 4096 0) cu15) ((opened (mapped 4096 0) cu15).range { write := true, noAlias := true } 7680 512 64) ps x) ∧
      (match (opened (mapped 0 0) cu15).range { write := false } 0 512 64 with | .trap t _ => decide (t.code = 0x10) | _ => false) = true ∧
      (mapped 4096 0).core.live.storeQ 0 = [] ∧ ((mapped 4096 0 fun l => l.setStoreQ 0 [VReg.zero]).core.live.storeQ 0 = VReg.zero :: []) ∧
      (∃ p x, Passes (opened (mapped 4096 0) cu15) ((opened (mapped 4096 0) cu15).range
        { write := true, noAlias := true, noHost := true, noPeer := true } 8188 4 4) [p] x) := by
  refine ⟨fun op h => ready_of rfl h rfl rfl, by decide, by decide, by decide, passes_of (by decide +kernel), passes_of (by decide +kernel),
    by decide +kernel, rfl, rfl, passes_one (by decide +kernel)⟩

/-- An index entry with one element; the last sector of a page as a copy; an odd length; a full channel is not reached. -/
theorem witness_GlobalIssue_indexed :
    (let e : VReg := ⟨(0x80000000 : BitVec 32) ++ (0 : BitVec 4064), 0⟩
     let els := [0, 1].filterMap fun i => let x : Word := BitVec.ofNat 32 (elem 32 e.data (127 - i)); if x = 0x80000000 then none else some (4 * (127 - i), (4096 : DWord) + x.signExtend 64)
     ∃ ps x, Passes (opened (mapped 4096 0) cu15) ((opened (mapped 4096 0) cu15).checkElems 0 0 { write := false } 4 els) ps x) ∧
    (∀ op, opLegal op .a = true → Ready (mapped 4096 8128) op cu15 0 0 [3, 4, 5, 6]) ∧ (4096 : DWord).toNat % 64 = 0 ∧ (8128 : DWord).toNat % 64 = 0 ∧
      (65 : Word).toNat % 64 ≠ 0 ∧ (64 : Word).toNat % 64 = 0 ∧ (opened (mapped 4096 8128) cu15).chanLoad (7 : BitVec 5).toNat < 4 ∧
      (28 : BitVec 5) ≠ 29 := by
  refine ⟨passes_of (by decide +kernel), fun op h => ready_of rfl h rfl rfl, by decide, by decide, by decide, by decide, by decide +kernel,
    by decide⟩

/-- An access of A with a kind, left its core or held. -/
def acc1 (k : AccKind) (left : Bool) : Access := ⟨5, .a, k, left, false, 0, false, none, none, none, []⟩

/-- The core holds that one access. -/
def holding (k : AccKind) (left : Bool) (f : Live → Live := id) : State := mapped 4096 0 fun l => f { l with acc := [acc1 k left] }

/-- Word 1,024 of the module's memory, as page 1 maps it. -/
def piece1 : Piece := ⟨4096, 4096, 4, 0, 0, 0⟩

/-- Bytes of a module with no region, no poison, no hold and no key are at hand. -/
theorem atHand_of {s : State} {p : Piece} (h1 : s.route s.ctxId p.pa = .here) (h2 : s.ctxs = [(0, ctx0)]) (h3 : s.poison = [])
    (h4 : s.holds = []) (h5 : s.secKey = []) (h6 : s.host.hostBias = []) : AtHand s p := by
  refine ⟨h1, ?_, ?_, ?_, ?_⟩
  · simp [State.needSnoop, h6]
  · simp [State.waitingOn, h2, ctx0]
  · intro k _
    refine ⟨by simp [h3], by simp [State.deferredAt, h2, ctx0], by simp [State.regionAt, h2, ctx0], ?_⟩
    intro c m h
    rw [h5] at h
    cases h
  · intro g _ h hh
    rw [h4] at hh
    cases hh

theorem holding_atHand (k : AccKind) (left : Bool) : AtHand (holding k left) piece1 :=
  atHand_of rfl rfl rfl rfl rfl rfl

/-- One access of each kind at the head of the list, before it leaves its core and after; an entry that it fills. -/
theorem witness_GlobalPerform :
    (∀ k left, (holding k left).core.ending = none ∧ (holding k left).core.ring = [] ∧
      (∀ b ∈ (holding k left).core.live.acc, b.seq = (acc1 k left).seq → b = acc1 k left) ∧
      (holding k left).core.live.firstAcc .a = some (acc1 k left) ∧ AtHand (holding k left) piece1) ∧
      (∀ k, (holding k false).core.live.acc.find? (fun b => decide (b.eng = .a) && !b.left) = some (acc1 k false)) ∧
      (∀ k left, (acc1 k left).waits = 0 ∧ (acc1 k left).conf = none ∧ (acc1 k left).keyr = none ∧ (acc1 k left).protr = none ∧
        (acc1 k left).sent = false ∧ (acc1 k left).lost = false ∧ (acc1 k left).eng = .a) ∧
      (paOff piece1.pa + piece1.len ≤ 2 ^ 40 ∧ 0 < piece1.len ∧ piece1.off + piece1.len ≤ 512 ∧ paOff piece1.pa % 4 = 0) ∧
      (holding (.release 4 none) true).covered (acc1 (.release 4 none) true) = true ∧ (holding (.release 4 none) true).livePeers = [] ∧
      (let e : LEntry := ⟨5, false, ⟨0, side7F⟩, none, none, none⟩
       (holding (.load 3 [piece1] false 0 true) true fun l => l.setLoadQ 3 [e]).core.live.loadQ 3 = [e]) :=
  ⟨fun k left => ⟨rfl, rfl, by simp [holding, mapped, running, on], rfl, holding_atHand k left⟩, fun k => rfl,
    fun k left => ⟨rfl, rfl, rfl, rfl, rfl, rfl, rfl⟩, by decide, by decide +kernel, by decide +kernel, rfl⟩

/-- The atomic that A waits for is at its program counter; a copy of one sector; an answer that a load waits for; a peer's read. -/
theorem witness_GlobalPerform_more :
    (∃ cu base off r sc, ({ EngState.reset with imem := [(0, 0x0D240800), (1, 0x03000042)] } : EngState).fetched =
      .atOp cu 4 base off r (BitVec.ofNat 3 2) sc) ∧
    (let c : CopyCmd := ⟨0, 4096, 4160, 64, 1, 0, 0, 0, 0, none, none, false⟩
     let s := { mapped 0 0 with core := { (mapped 0 0).core with chans := vset (mapped 0 0).core.chans 7 ⟨0, [c]⟩ } }
     s.copyHead 7 = some c ∧ c.sent = none ∧ c.got = none ∧ s.core.live.acc = [] ∧ c.row < c.rows ∧ c.off < c.len ∧ s.host.hostBias = [] ∧
       s.copyPiece 7 false c.srcVa = .inr (s, ⟨4096, 4096, 64, 0, 0, 0⟩) ∧ s.copyPiece 7 true c.dstVa = .inr (s, ⟨4160, 4160, 64, 0, 0, 0⟩) ∧
       AtHand s ⟨4096, 4096, 64, 0, 0, 0⟩ ∧ AtHand s ⟨4160, 4160, 64, 0, 0, 0⟩) ∧
    (let a := { acc1 (.load 0 [piece1] false 0 true) true with sent := true }
     (mapped 0 0 fun l => { l with acc := [a] }).core.live.acc.find? (·.sent) = some a) ∧
    (let c := { ctx0 with fabric := [0, 1] }
     let s := running .a c
     s.ctxAt 0 = some c ∧ 1 < c.fabric.length ∧ 1 ≠ c.self ∧ 1 ∉ c.lost ∧ s.linked 0 1 = true ∧ s.livePeers ≠ [] ∧ s.keyBound 0 0 = false ∧
       ({ s with keys := [(3, ⟨1, true, 0⟩)] } : State).keyBound 3 0 = true ∧ s.waitingOn 0 64 = false ∧ s.needSnoop (snoopPeer 0 1) 0 64 = []) := by
  refine ⟨⟨cu0, 1, 0, 2, 3, rfl⟩, ⟨rfl, rfl, rfl, rfl, by decide, by decide, rfl, by decide +kernel, by decide +kernel,
    atHand_of rfl rfl rfl rfl rfl rfl, atHand_of rfl rfl rfl rfl rfl rfl⟩, rfl, rfl, by decide, by decide, by decide, by decide +kernel, by decide +kernel,
    by decide +kernel, by decide +kernel, by decide +kernel, by decide +kernel⟩

/-- A release that waits for peer 1, the last one, and a load for which peer 1 may be heard. -/
theorem witness_GlobalPerform_release :
    let c := { ctx0 with fabric := [0, 1], routes := [[], [0]] }
    let a := { acc1 (.release 4 (some [1])) true with sent := true }
    let s := running .a c fun l => { l with acc := [a] }
    s.core.live.acc.find? (·.sent) = some a ∧ s.linked s.ctxId 1 = true ∧ s.mayHear (s.sentPeer a) = true ∧
      (running .a c).mayHear (some 1) = true ∧ (running .a c).mayHear none = true := by decide +kernel

/-- A release of X with a reduction of A that a token has ordered before it, and with one that nothing orders. -/
theorem witness_GlobalPerform_covered :
    let a := { acc1 (.release 3 none) true with eng := .x, seq := 6, known := [5] }
    let s := holding (.reduce []) true fun l => { l with acc := l.acc ++ [a] }
    s.core.live.firstAcc .x = some a ∧ (∀ b ∈ s.core.live.acc, b.seq = a.seq → b = a) ∧ a.eng ≠ .a ∧
      (∃ x ∈ s.core.live.acc, x.eng = .a ∧ (x.seq < s.core.live.told.floor ∨ x.seq ∈ a.known)) ∧
      s.covered { a with known := [] } = true := by decide +kernel

/-- A selector in range, one of an undefined bit, and a remote one; a value reached and one that is not; a copy still to do. -/
theorem witness_OrderingAndSemaphores :
    (∀ e op, opLegal op e = true → Ready (running e) op cu15 0 0 [1, 2, 3]) ∧ (running .x).eng.retire = [] ∧
      (running .x ctx0 fun l => { l with ex := { l.ex with retire := [⟨0, false, 0, 0, []⟩] } }).eng.retire ≠ [] ∧ (running .x).cur ≠ .m ∧
      ((running .x).core.live.acc = [] ∧ (∀ j, j < 64 → (running .x).core.live.fifo j = []) ∧
        (∀ q, q < 4 → (running .x).core.live.loadQ q = [] ∧ (running .x).core.live.storeQ q = []) ∧ (running .x).core.live.pass = none ∧
        (running .x).core.live.drains = [] ∧ (running .x).core.live.spDrains = []) ∧
      ((0x0003F000 : Word).toNat / 4096 % 64 = 63 ∧ (0x00000FFF : Word).toNat < 2 ^ 19 ∧ (0x00040000 : Word).getLsbD 18 = true) ∧
      ((0x00000FFF : Word).toNat < 4096 ∧ 4096 ≤ (0x00001000 : Word).toNat) ∧
      (running .a { ctx0 with sems := [(7, 3)] }).semVal 0 7 < 4 ∧ (3 : Word) ≤ (running .a { ctx0 with sems := [(7, 3)] }).semVal 0 7 ∧
      ¬(0 - (0x80000000 : Word)).toNat < 2 ^ 31 ∧ (0 - (0x80000001 : Word)).toNat < 2 ^ 31 ∧ (running .a).chanLoad 0 = 0 := by
  refine ⟨fun e op h => ready_of (by cases e <;> rfl) h rfl rfl, rfl, by decide +kernel, by decide, ⟨rfl, fun j _ => reset_fifos j, ?_, rfl, rfl, rfl⟩, by decide,
    by decide, by decide +kernel, by decide +kernel, by decide, by decide, by decide +kernel⟩
  intro q hq
  match q, hq with
  | 0, _ | 1, _ | 2, _ | 3, _ => exact ⟨rfl, rfl⟩

/-- A signal at the head of the list, and an engine that waits with a rival ready or none. -/
theorem witness_OrderingAndSemaphores_events :
    (let a := acc1 (.semSig 7 false 1) true
     let s := mapped 0 0 fun l => { l with acc := [a] }
     s.core.ending = none ∧ s.core.ring = [] ∧ s.core.live.firstAcc .a = some a ∧ a.sent = false ∧ s.ctxAt s.ctxId = some ctx0 ∧
       (7 : Word).getLsbD 18 = false) ∧
    ((running .a).semWaitOf .a = none) ∧
    (let a := acc1 (.hub (.semWait 0 1)) true
     let s := running .a ctx0 fun l =>
       { l with ea := { l.ea with started := true, phase := 1, phaseSeq := 5, imem := [(0, 0x0FA00803), (1, 0x04000001)] }, acc := [a] }
     s.semWaitOf .a = some (0, 1) ∧ s.running = true ∧ s.slotFree = true ∧ s.core.live.firstWait .a = some a ∧ s.core.ring = [] ∧
       s.semVal s.ctxId 0 < 1 ∧ (0 : Word) ≤ s.semVal s.ctxId 0 ∧ s.core.live.ea.phaseSeq = a.seq) ∧
    (let s := running .a ctx0 fun l => { l with ea := { l.ea with started := true, phase := 2 } }
     s.eng.started = true ∧ s.eng.phase = 2 ∧ s.core.live.pendReg = []) ∧
    (∀ c, c < 8 → (vget (running .a).core.chans c ⟨0, []⟩).queue = []) := by
  refine ⟨⟨rfl, rfl, rfl, rfl, rfl, rfl⟩, rfl, by decide +kernel, by decide +kernel, by decide +kernel⟩

/-! ### Witnesses: the hub -/

/-- A coding group of 4 members with 1 share, this module the first, in a state of the curtain. -/
def group4 (st : CState) : Group :=
  { cfg := ⟨4, 1, 0, [0, 1, 2, 3], [0, 1, 2, 3], none⟩, st := st, cr := 41, notices := 0, eod := 0, ackd := false, lost := 0, epoch := 0,
    dec := false, dpend := 0, dpend2 := 0, dbad := false, dbad2 := false, lastab := false, unacked := 0, deltas := [], exch := [],
    concluded := none, concEpoch := 0, applied := false, minority := [], restart := [], rebuilding := none }

/-- A context of a fabric of 4 with coding group 3 and replica set 2 of it. -/
def ctx4 (g : Group) : Ctx :=
  { ctx0 with fabric := [0, 1, 2, 3], routes := [[], [0], [1], [2]], groups := [(3, g)], reps := [(2, ⟨⟨2, 0, [0, 1], 3, 0⟩, 0, 0⟩)] }

/-- A fault-log entry with a sequence number. -/
def flog1 (n : Word) : FLog := ⟨0, 0, 0, n, 0, 0, 0, 0⟩

/-- Reads of every counter index range's ends, of the fault log, of rounds in each state, and of collectives. -/
theorem witness_HubInstructions :
    (∀ op, opLegal op .a = true → Ready (mapped 4096 0) op cu15 0 0 [3, 4]) ∧ (mapped 4096 0).ctxAt (mapped 4096 0).ctxId = some ctx0 ∧
      ((mapped 4096 0).core.detlvl = 0 ∧ (3 : BitVec 5).toNat < 4 ∧ 1 ≤ (4 : BitVec 5).toNat ∧ 10 ≤ (15 : BitVec 5).toNat ∧
        (16 : BitVec 6).toNat ∈ [1, 2, 4, 6, 7, 8, 16]) ∧
      (∃ p x, Passes (opened (mapped 4096 0) cu15) ((opened (mapped 4096 0) cu15).range { write := false } 4096 128 128) [p] x) ∧
      (let s := mapped 4096 0 fun l => { l with ea := { l.ea with started := true, phase := 2 } }
       s.eng.started = true ∧ s.cur = .a ∧ s.eng.phase = 2 ∧ (∀ r ∈ s.core.live.pendReg, r.1 = s.cur → r.2 ≠ 4) ∧ s.devLoad < 64) ∧
      ((4097 : DWord).toNat % 64 ≠ 0 ∧ (4096 : DWord).toNat % 64 = 0 ∧ (mapped 4096 0).colLoad < 16) ∧
      assoc (ctx4 (group4 .open_)).groups (3 : BitVec 4).toNat = some (group4 .open_) ∧
      (group4 .open_).st ∈ [CState.open_, .halted, .beyond] ∧ (group4 .commit).st ∉ [CState.open_, .halted, .beyond] ∧
      assoc ctx0.groups (3 : BitVec 4).toNat = none := by
  refine ⟨fun op h => ready_of rfl h rfl rfl, rfl, by decide, passes_one (by decide +kernel), by decide +kernel, by decide +kernel, rfl, by decide,
    by decide, rfl⟩

/-- A pending collective with a digest, a faulted one, and none. -/
def col1 (st out : Nat) : ColStat := ⟨7, st, 5, true, 2, 0, 0, [], out, 1, 1, 1, none⟩

theorem witness_HubInstructions_collectives :
    (let find := fun (c : Ctx) => c.colStat.find? fun x => x.id == 7
     find { ctx0 with colStat := [col1 0 0] } = some (col1 0 0) ∧ find { ctx0 with colStat := [col1 2 0] } = some (col1 2 0) ∧ find ctx0 = none) ∧
      ((col1 2 0).reason < 256 ∧ (col1 0 0).dg = true ∧ (col1 0 0).out = 0 ∧ 0 < (col1 1 7).out ∧ (col1 1 7).out < 8) ∧
      16 ≤ ({ ctx0 with colQ := List.replicate 16 ⟨1, 0, 0, 0, 0, 1, 2, false, 0, true, 0, none⟩ } : Ctx).colQ.length := by decide

/-- A region of one unit: pages 16 to 31, its undo area 32 to 47 and its parity area 48 to 63, translated by one large page. -/
def region : State :=
  { running .a (ctx4 (group4 .open_)) with
    core := { Core.reset 0 with live := { live16 with a := ((live16.a.set 1 0x10000).set 2 0x20000).set 3 0x30000 }, act := some act1,
                                tlb := [⟨0, 0, 0x200000, 0, true, true, false, 0, 0, false⟩] } }

def regionArgs : ProtArgs := ⟨5, 0x10000, 0x20000, 0x30000, 1, 1, 3, false, false⟩

/-- Every reason of R254 has an argument: a number in use, bases, pages, a group that is absent, one that is not open; and none. -/
theorem witness_HubInstructions_protect :
    Ready region 0x6C cu15 0 0 [3, 4] ∧ assoc (ctx4 (group4 .open_)).prot 5 = none ∧
      (regionArgs.rgn.toNat % 65536 = 0 ∧ (0x10040 : DWord).toNat % 65536 ≠ 0) ∧
      (match (opened region cu15).areas regionArgs (group4 .open_) with
        | some (r, v, p) => decide ((pagesOf r ++ pagesOf v ++ pagesOf p).Nodup) && r.length == 16 && v.length == 16 && p.length == 16
        | none => false) = true ∧
      ((opened (running .a (ctx4 (group4 .open_))) cu15).areas regionArgs (group4 .open_)).isNone = true ∧ region.guarded = [] ∧
      (group4 .open_).st = .open_ ∧ (group4 .prep).st ≠ .open_ ∧
      (match (opened region cu15).areas { regionArgs with par := 0x10000 } (group4 .open_) with
        | some (r, _, p) => r.any fun x => p.any fun y => x.1 == y.1
        | none => false) = true ∧
      ({ region with host := { region.host with hostBias := [16] } } : State).needSnoop (snoopCore 0) (4096 * 16) 4096 ≠ [] ∧
      region.host.hostBias = [] := by
  refine ⟨ready_of rfl rfl rfl rfl, rfl, by decide, by decide +kernel, by decide +kernel, rfl, rfl, by decide, by decide +kernel, by decide +kernel, rfl⟩

/-- A protected entry of group 3. -/
def prot3 : Prot := ⟨false, false, 3, 0, 0, 0, [16], [32], [48], false, 0, false, 0, false, [], [], [], [(16, 0)]⟩

theorem witness_HubInstructions_unprotect :
    Ready (running .a { ctx4 (group4 .open_) with prot := [(5, prot3)] }) 0x6D cu15 0 0 [] ∧
      assoc ({ ctx4 (group4 .open_) with prot := [(5, prot3)] } : Ctx).prot (5 : BitVec 5).toNat = some prot3 ∧
      (running .a { ctx4 (group4 .open_) with prot := [(5, prot3)] }).groupOpen 0 3 = true ∧
      (running .a { ctx4 (group4 .prep) with prot := [(5, prot3)] }).groupOpen 0 3 = false ∧ assoc ctx0.prot (5 : BitVec 5).toNat = none :=
  ⟨ready_of rfl rfl rfl rfl, rfl, rfl, rfl, rfl⟩

/-- An operation of each kind at the hub; rounds that answer each result of `curt.prep`. -/
theorem witness_HubInstructions_perform :
    (∀ op, (holding (.hub op) true).core.live.firstAcc .a = some (acc1 (.hub op) true) ∧ (holding (.hub op) true).core.ending = none ∧
      (holding (.hub op) true).core.ring = [] ∧ (op = .flogStatClr 3 → (holding (.hub op) true).core.live.firstWait .a = none) ∧ (holding (.hub op) true).ctxAt (holding (.hub op) true).ctxId = some ctx0) ∧
      ctx0.devQ.length < 64 ∧ ((group4 .halted).st = .halted ∧ (group4 .staged).st ∈ [CState.prep, .staged, .commit, .exchange, .rollback]) ∧
      (0 < ({ group4 .open_ with dpend := 1 } : Group).dpend ∧ (group4 .open_).dpend = 0 ∧ (group4 .open_).dbad = false ∧ (group4 .open_).lost = 0) ∧
      ctx0.colNext + 1 ≠ 0 :=
  ⟨fun op => ⟨rfl, rfl, rfl, fun h => by rw [h]; rfl, rfl⟩, by decide, by decide, by decide, by decide⟩

/-- Collectives of each kind over two words at 4160 and an output at 4096, with what the other member brings. -/
theorem witness_HubInstructions_collective :
    let q := fun (kd : BitVec 2) => (⟨1, 4160, 4096, 2, kd, 0, 2, false, 1, true, 0, none⟩ : ColDesc)
    let c := fun (kd : BitVec 2) => { ctx4 (group4 .open_) with colQ := [q kd] }
    let s := fun (kd : BitVec 2) => { running .a (c kd) with clusTlb := [(clusterOf hubCore, page1 true true false)] }
    let m := fun (kd : BitVec 2) => if kd = 1 then 4 else if kd = 2 then 1 else 2
    (∀ kd, (s kd).ctxAt 0 = some (c kd) ∧ ((c kd).colQ.find? fun x => x.set == 2) = some (q kd) ∧ (∀ x ∈ (c kd).colQ, x.id = (q kd).id → x = q kd) ∧
      assoc (c kd).reps 2 = some ⟨⟨2, 0, [0, 1], 3, 0⟩, 0, 0⟩ ∧ (s kd).host.hostBias = []) ∧
    (∀ kd, (∀ n ∈ [0, 1], n ∉ (c kd).lost) ∧ (s kd).linked 0 1 = true ∧ ¬((q kd).kind = 2 ∧ (q kd).count % 2 ≠ 0) ∧
      (match (s kd).colCheck 0 1 true 4096 (4 * m kd) with | .ok [po] _ => po == ⟨4096, 4096, 4 * m kd, 0, 0, 0⟩ | _ => false) = true ∧
      (match (s kd).colCheck 0 1 false 4160 8 with | .ok [pin] _ => pin == ⟨4160, 4160, 8, 0, 0, 0⟩ | _ => false) = true) ∧
    ((s 0).route 0 (4096 : BitVec 52) = .here ∧ (s 0).waitingOn 4096 16 = false ∧ (s 0).holds = [] ∧ (s 0).regionAt 1 = none ∧
      64 ∉ (s 0).poison ∧ (s 0).deferredAt 64 = none ∧ (s 0).secKey = []) ∧
    (2 ^ 26 < 2 ^ 26 + 1 ∧ 3 % 2 ≠ 0) := by
  refine ⟨fun kd => ⟨rfl, rfl, by simp, rfl, rfl⟩, by decide +kernel, ⟨rfl, by decide +kernel, rfl, by decide +kernel, by decide, by decide +kernel, rfl⟩,
    by decide⟩

/-- A member over a link that is down; a collective whose output waits for a peer, still to be told and told; and outputs of a fault that
wait for the host and that wait for nothing. -/
theorem witness_HubInstructions_away :
    let q : ColDesc := ⟨1, 4160, 4096, 2, 0, 0, 2, false, 1, true, 0, none⟩
    let s := { running .a { ctx4 (group4 .open_) with colQ := [q] } with clusTlb := [(clusterOf hubCore, page1 true true false)] }
    ({ s with links := s.links.set 0 ⟨0, 8, false, true, 0⟩ } : State).linked 0 1 = false ∧
      (∀ p ∈ (⟨[1], [1], false⟩ : ColAway).peers, p ∉ (ctx4 (group4 .open_)).lost ∧ s.linked 0 p = true) ∧
      (s.outputWait 0 q 2).isNone = true ∧
      (({ s with host := { s.host with hostBias := [1] } } : State).outputWait 0 q 2).isSome = true := by
  refine ⟨by decide +kernel, by decide +kernel, by decide +kernel, by decide +kernel⟩

theorem witness_HubInstructions_digest :
    let c := { ctx4 (group4 .open_) with colStat := [col1 0 0] }
    (c.colStat.find? fun y => y.set == 2 && y.pos == 0 && y.out == 0) = some (col1 0 0) ∧ (1 : Nat) < 2 ∧ ([0, 1].getD 1 0) ∉ c.lost ∧
      (col1 0 0).st = 0 := by decide

/-! ### Witnesses: acts and cores -/

/-- A scene with one cue point at word 0 of every stream, one live word and one range of 64 bytes. -/
def scene1 : Scene := ⟨0, false, [[0x00400000], [0x00400000], [0x00400000], [0x00400000]], [[0, 0, 0, 0]], [[0x5001]], [(0, 64, 64)], [], [], 0, 0, true⟩

def ctxS : Ctx := { ctx0 with scenes := [scene1] }

/-- All four engines wait at rendezvous n of an act of that scene. -/
def met (n : Nat) (w : Word) : State :=
  let x : EngState := { EngState.reset with rend := some n, started := true, phase := 1, imem := [(0, w)] }
  running .a ctxS fun l => { l with ea := x, ex := x, em := x, eb := x }

theorem witness_ActInstructions :
    Ready (running .a) 0x77 cu15 0 0 [1, 2, 3] ∧ ((1 : BitVec 5) ≠ 3 ∨ (1 : BitVec 5) = 0) ∧ Ready (mapped 4096 0) 0x76 cu15 0 0 [] ∧
      (running .a).core.claims = [] ∧
      (let s := { running .a with core := { (running .a).core with claims := [(.a, 0, 5, 2)] } }
       (s.core.claims.find? fun x => x.1 == s.cur && x.2.1 == s.eng.claims) = some (.a, 0, 5, 2)) ∧
      (∃ p x, Passes (opened (mapped 4096 0) cu15) ((opened (mapped 4096 0) cu15).range { write := false } 4096 64 64) [p] x) ∧
      (mapped 4096 0).spawnScope = 0 :=
  ⟨ready_of rfl rfl rfl rfl, by decide, ready_of rfl rfl rfl rfl, rfl, rfl, passes_one (by decide +kernel), by decide +kernel⟩

/-- The read of `act.spawn`, which A waits for, at the head of the list; a full and an empty wing; a record that is bad. -/
theorem witness_ActInstructions_spawn :
    (let s := holding (.hub (.spawn piece1)) true fun l =>
       { l with ea := { l.ea with started := true, phase := 1, phaseSeq := 5, imem := [(0, 0x0EC00800)] } }
     s.core.ending = none ∧ s.core.ring = [] ∧ s.core.live.firstAcc .a = some (acc1 (.hub (.spawn piece1)) true) ∧ s.core.act = some act1 ∧
       s.ctxAt act1.ctx = some ctx0 ∧ AtHand s piece1 ∧ s.core.live.ea.phaseSeq = 5 ∧ s.core.live.ea.fetched = .actSpawn cu0 1 ∧
       dieOf s.core.num < 4 ∧ s.core.wings.length < 16 ∧ s.core.live.firstWait .a = none ∧ s.cancelledOf act1 = false ∧
       ({ s with launches := [{ launch1 with cancelled := true }] } : State).cancelledOf act1 = true ∧ s.freeStoreSlot 0 = some 0 ∧
       s.slotAt 0 0 % 64 = 0 ∧ ({ s with ctxs := [(0, { ctx0 with store := 0 })] } : State).freeStoreSlot 0 = none) ∧
    ctx0.badRecord blankAct.record = true ∧ ctxS.badRecord blankAct.record = false :=
  ⟨⟨rfl, rfl, rfl, rfl, rfl, atHand_of rfl rfl rfl rfl rfl rfl, rfl, rfl, by decide, by decide, rfl,
    by decide +kernel, by decide +kernel, by decide +kernel, by decide +kernel, by decide +kernel⟩, by decide, by decide⟩

/-- A first arrival, one that meets its fellows, and one at another index. -/
theorem witness_ActInstructions_rendezvous :
    Ready (running .x) 0x02 cu15 0 0 [] ∧ Ready (running .x) 0x78 cu15 0 0 [] ∧ Ready (running .x) 0x79 cu15 0 0 [] ∧
      (running .x).eng.slots = 0 ∧ (∀ f, f ≠ Engine.x → ((running .x).core.live.eng f).rend = none) ∧
      (let s := running .x ctx0 fun l => { l with ea := { l.ea with rend := some 3 } }
       (∀ f, f ≠ Engine.x → (s.core.live.eng f).rend = none ∨ (s.core.live.eng f).rend = some 3) ∧ (s.core.live.eng .a).rend = some 3) ∧
      (running .m ctx0 fun l => { l with pass := some ⟨0, 0, 0, 0, .mxi8, 1, 1, 8, 1, 0, false, 0, []⟩ }).core.live.pass ≠ none := by
  refine ⟨ready_of rfl rfl rfl rfl, ready_of rfl rfl rfl rfl, ready_of rfl rfl rfl rfl, rfl, fun f hf => by cases f <;> first | rfl | exact absurd rfl hf,
    ⟨fun f hf => by cases f <;> first | exact .inl rfl | exact .inr rfl | exact absurd rfl hf, rfl⟩, by decide⟩

/-- A cue point that all engines have reached, an `act.yield` and an `act.end`; marked to yield, and not. -/
theorem witness_ActInstructions_cue :
    ((met 0 0).running = true ∧ (0 : Nat) < 0x2000 ∧ (met 0 0).actScene = some scene1 ∧ (met 0 0).noCopies = true ∧
      (∀ e, ((met 0 0).core.live.eng e).rend = some 0 ∧ ((met 0 0).core.live.eng e).retire = []) ∧
      (met 0 0).core.yieldMark = false ∧ (met 0 0).core.request = none ∧ (met 0 0).quiet = true ∧ (met 0 0).slotFree = true ∧
      (scene1.rangesAt 0).Pairwise (fun x y => x.1 + x.2 ≤ y.1)) ∧
    (∀ e, ((met 0x2000 0x0F000000).core.live.eng e).rend = some 0x2000 ∧
      ∃ cu, ((met 0x2000 0x0F000000).core.live.eng e).fetched = .actYield cu) ∧
    ((met 0x2001 0).quiet = true ∧ (met 0x2001 0).core.act = some act1 ∧
      (met 0x2001 0).core.releasing = none ∧ ∀ e, ((met 0x2001 0).core.live.eng e).rend = some 0x2001 ∧ ((met 0x2001 0).core.live.eng e).retire = []) := by
  refine ⟨⟨rfl, by decide, rfl, by decide +kernel, fun e => by cases e <;> exact ⟨rfl, rfl⟩, rfl, rfl, by decide +kernel, by decide +kernel,
      by decide⟩, fun e => by cases e <;> exact ⟨rfl, cu0, rfl⟩, by decide +kernel, rfl, rfl, fun e => by cases e <;> exact ⟨rfl, rfl⟩⟩

/-- A suspension that may leave: its launch releases at no more than `.chip`, or at `.grp` with peers, with none, and with all heard. -/
theorem witness_ActInstructions_leaving :
    let s := leaving (.suspend 0) ctxS
    let far := { ctxS with fabric := [0, 1], routes := [[], [0]] }
    let grp := fun (c : Ctx) => { leaving (.suspend 0) c with launches := [{ launch1 with record := ⟨[0, 16] ++ List.replicate 126 0⟩ }] }
    s.core.ending = some (.suspend 0) ∧ s.core.act = some act1 ∧ s.actScene = some scene1 ∧ s.slotOf act1 = some 0 ∧
      s.slotAt act1.ctx 0 % 64 = 0 ∧ s.spent = true ∧ s.chansIdle = true ∧ (∀ x ∈ s.core.live.acc, x.eng = .a → x.left = true) ∧
      dieOf s.core.num < 4 ∧ s.core.releasing = none ∧ max 3 s.rsc ≠ 4 ∧ s.livePeers = [] ∧ max 3 (grp far).rsc = 4 ∧ (grp far).livePeers = [1] ∧
      ({ s.core with releasing := some [] } : Core).releasing = some [] ∧ ({ s.core with releasing := some [1] } : Core).releasing = some (1 :: []) := by
  decide +kernel

/-- A waits for a token that X must push and X for one of A (R293), and a slow result that is due. -/
theorem witness_ActInstructions_deadlock :
    let s := running .a ctx0 fun l => { l with tok := Vector.replicate 8 0, ea := { l.ea with wait := some (.token false 1) },
                                                ex := { l.ex with wait := some (.token true 1) } }
    (∀ f ∈ [Engine.a, .x], match s.blocked f with
      | some (.anyOf w) => ∀ g ∈ w, g ∈ [Engine.a, .x]
      | some (.allOf w) => ∃ g ∈ w, g ∈ [Engine.a, .x]
      | none => False) ∧ s.blocked .m = none ∧ s.blocked .b = none ∧ (∀ f ∈ [Engine.a, .x], Engine.a.idx ≤ f.idx) ∧
      (slowed 1).core.live.slow.filter (fun x => decide (x.left ≤ 1)) = [slowRes 1] ∧ (slowed 1).core.live.ex.started = false ∧
      (slowed 1).core.live.ex.backEdge = none ∧ (eng .x fun x => { x with started := true }).core.live.ex.started = true := by
  refine ⟨?_, rfl, rfl, by decide, rfl, rfl, rfl, rfl⟩
  intro f hf
  cases f
  · show ∀ g ∈ [Engine.x], g ∈ [Engine.a, .x]; decide
  · show ∀ g ∈ [Engine.a], g ∈ [Engine.a, .x]; decide
  · exact absurd hf (by decide)
  · exact absurd hf (by decide)

/-- The record of launch 1: one level of one act, at domain and scope 3 of R27. -/
def rec1 : LaunchRec := ⟨List.replicate 32 0 ++ [0, 0, 0x1B, 0] ++ List.replicate 92 0⟩

/-- An idle core with one ready act in the pool of its die. -/
def ready1 (a : Act) (c : Ctx := ctxS) : State :=
  { State.reset with ctxs := [(0, c)], launches := [{ launch1 with record := rec1 }],
                     pools := vset State.reset.pools 0 [(a.record.prio, .act a)] }

/-- A core takes it, with a record that is good, with each image, and with a bad one. -/
theorem witness_ActEvents :
    (ready1 act1).idleCore (ready1 act1).core.num = true ∧
      (match (ready1 act1).pick 0 with | some (.single a (.act b)) => decide (a = act1 ∧ b = act1) | _ => false) = true ∧
      (ready1 act1).ctxAt act1.ctx = some ctxS ∧ ctxS.sceneOf act1.record.scene = some scene1 ∧ ctxS.badRecord act1.record = false ∧
      (∀ o l ch m y, act1.image ≠ .full o l ch m y) ∧ ({ act1 with image := .full 0 live16 (Core.reset 0).chans 0 true } : Act).image =
        .full 0 live16 (Core.reset 0).chans 0 true ∧ ctxS.badRecord { act1.record with cueix := 1 } = true ∧
      liveMapOk (scene1.liveMap 0) = true ∧ (scene1.rangesAt 0).Pairwise (fun x y => x.1 + x.2 ≤ y.1) := by
  refine ⟨by decide +kernel, by decide +kernel, rfl, rfl, by decide +kernel, fun _ _ _ _ _ h => (by cases h), rfl, by decide +kernel, by decide +kernel,
    by decide +kernel⟩

/-- The head of the wings; an act to be saved, ready or waiting; a request by policy. -/
theorem witness_ActEvents_suspend :
    (let s := { ready1 act1 with core := { Core.reset 0 with wings := [act1] }, pools := State.reset.pools }
     s.core.wings = act1 :: [] ∧ s.eligibleAct act1 s.core.num = true ∧ (∀ x ∈ vget s.pools (dieOf s.core.num) [], x.1 ≤ act1.record.prio)) ∧
      ((running .a).core.act = some act1 ∧ (running .a).running = true ∧ (running .a).core.request = none ∧ (running .a).saveable = true ∧
        (running .a).slotFree = true ∧ dieOf (running .a).core.num < 4 ∧ (running .a).core.ending = none) ∧
      ((running .a).slotOf act1 = some 0 ∧ (running .a).slotAt act1.ctx 0 % 64 = 0 ∧ (running .a).core.releasing = none ∧ max 3 (running .a).rsc ≠ 4) ∧
      (let s := { running .a with core := { (running .a).core with ending := some (.image (some (7, 1))), request := some true } }
       s.core.request = some true ∧ s.core.ending = some (.image (some (7, 1))) ∧ s.semVal act1.ctx 7 < 1 ∧ (0 : Word) ≤ s.semVal act1.ctx 7 ∧
         s.saveable = true) := by
  refine ⟨⟨rfl, by decide +kernel, by decide +kernel⟩, ⟨rfl, rfl, rfl, by decide +kernel, by decide +kernel, by decide, rfl⟩, by decide +kernel, rfl, rfl,
    by decide +kernel, by decide +kernel, by decide +kernel⟩

/-- Core 0 runs an act of it whose range is cur to ceil. -/
def robbed (cur ceil : Word) : State :=
  { ready1 act1 with
    pools := State.reset.pools
    core := { Core.reset 0 with act := some act1, actCur := cur, actCeil := ceil } }

/-- The first request of core 2 goes to core 0 (R324); a range of 2 is split and one of 1 is not. -/
theorem witness_ActEvents_steal :
    (2 < 160 ∧ (2 : Nat) ≠ 0 ∧ (robbed 0 2).victimOf 2 ((robbed 0 2).coreAt 2).attempts ((robbed 0 2).coreAt 2).stealsLeft = 0 ∧
      (robbed 0 2).idleCore 2 = true ∧ ((robbed 0 2).coreAt 2).resting = false ∧ ((robbed 0 2).coreAt 2).num = 2 ∧
      (match (robbed 0 2).pick 2 with | none => true | some _ => false) = true) ∧
      (robbed 0 2).busyVictim = false ∧ (robbed 0 2).core.wings = [] ∧ (robbed 0 2).core.act = some act1 ∧
      (robbed 0 2).launchAt act1.launch = some { launch1 with record := rec1 } ∧ ({ launch1 with record := rec1 } : Launch).unstealable = false ∧
      ((robbed 0 2).modCore 2 (Core.asked ((robbed 0 2).toAsk 2 ((robbed 0 2).coreAt 2).stealsLeft))).eligibleAct { act1 with spawned := false } 2 = true ∧
      (robbed 0 2).core.actCur.toNat < (robbed 0 2).core.actCeil.toNat ∧ 0 ∈ ({ robbed 0 2 with replacing := [0] } : State).replacing ∧
      2 ≤ ((robbed 0 2).core.actCeil - (robbed 0 2).core.actCur).toNat ∧ ((robbed 0 1).core.actCeil - (robbed 0 1).core.actCur).toNat < 2 := by
  refine ⟨⟨by decide, by decide, by decide +kernel, by decide +kernel, by decide +kernel, by decide +kernel, by decide +kernel⟩, by decide +kernel,
    rfl, rfl, rfl, by decide +kernel, by decide +kernel, by decide, by decide, by decide, by decide⟩

/-- A ready act of priority 3 and two candidates of lower priority; upsets, corrected errors and spare cores. -/
theorem witness_ActEvents_more :
    (let b := { act1 with record := { blankAct.record with flags := 3 } }
     let s := { ready1 b with core := { Core.reset 0 with act := some act1 } }
     vget s.pools 0 [] = [] ++ (3, .act b) :: [] ∧ dieOf s.core.num = 0 ∧ s.wouldRun s.core.num (.act b) = true ∧ act1.record.prio < 3) ∧
      (∀ x ∈ vget (ready1 act1).pools 0 [], x.1 ≠ 3) ∧ (State.reset.core.resting = false) ∧
      (State.reset.core.live.replayable = true ∧ ({ live16 with winBad := true } : Live).replayable = false ∧ 2 ≤ 2 ∧
        (running .a).core.cancelled = false ∧ (let k : Cut := ⟨live16, false, none, false, 0⟩
          ({ (running .a).core with ring := [k] } : Core).ring[min 5 (1 - 1)]? = some k)) ∧
      (State.reset.core.cor < 1023 ∧ (1023 : Nat) ≤ 1023) ∧ State.reset.core.num < 160 ∧ (running .a).core.act ≠ none ∧ (running .a).core.ending = none ∧
      (State.reset.core.act = none ∧ (43 : Nat) < 44 ∧ (dieOf 0, 43) ∉ State.reset.retired ∧ 43 ≠ State.reset.physOf 0) ∧
      (∀ i, i < 40 → 40 * dieOf 0 + i ≠ 0 → State.reset.available (40 * dieOf 0 + i) = true → State.reset.physOf (40 * dieOf 0 + i) ≠ 43) := by
  refine ⟨by decide +kernel, by decide +kernel, rfl, by decide +kernel, by decide, by decide, by decide, rfl, by decide +kernel, by decide +kernel⟩

/-! ### Witnesses: launches -/

/-- A record of kind k, of CTL c, with one level, span 1 and DONE at page 1. -/
def recOf (k c arg : Byte) : LaunchRec :=
  ⟨[k, c, 0, arg] ++ List.replicate 8 0 ++ [1, 0, 0, 0] ++ List.replicate 16 0 ++ [0, 0, 0x1B, 0] ++ List.replicate 28 0 ++
    [0, 0x10, 0, 0, 0, 0, 0, 0] ++ List.replicate 56 0⟩

/-- A record of kind 1 to 3 with nothing else but DONE at page 1. -/
def bareOf (k arg : Byte) : LaunchRec :=
  ⟨[k, 0, 0, arg] ++ List.replicate 60 0 ++ [0, 0x10, 0, 0, 0, 0, 0, 0] ++ List.replicate 56 0⟩

/-- The device queue of context 0 holds that record, and the hub's cluster holds page 1. -/
def queuedRec (r : LaunchRec) (t : Trans := page1 true true false) : State :=
  { State.reset with ctxs := [(0, { ctxS with devQ := [r.bytes] })], clusTlb := [(clusterOf hubCore, t)] }

/-- Each kind of record is next and its DONE address passes; one whose DONE page is not mapped. -/
theorem witness_LaunchEvents :
    (∀ k ∈ [(0 : Byte), 1, 2, 3], (queuedRec (recOf k 0 0)).nextSource = some (.device 0)) ∧
      (∀ k ∈ [(0 : Byte), 1, 2, 3], (queuedRec (recOf k 0 0)).recordAt (.device 0) = some (recOf k 0 0)) ∧
      (match (queuedRec (recOf 0 0 0)).doneCheck 0 (hubWho 2 4096) (recOf 0 0 0) with | .ok [_] _ => true | _ => false) = true ∧
      (match (queuedRec (recOf 0 0 0) { page1 true true false with ctx := 9 }).doneCheck 0 (hubWho 2 4096) (recOf 0 0 0) with
        | .trap _ _ => true | _ => false) = true ∧ srcNum (.device 0) = 4096 ∧
      ((recOf 0 0 0).formed = true ∧ (recOf 0 20 0).formed = false ∧ (bareOf 1 2).bare = true ∧ (bareOf 2 0).bare = true ∧
        (bareOf 3 0).bare = true ∧ (recOf 2 1 0).bare = false) ∧
      (ctxS.launchStatus (recOf 0 0 0) = 0 ∧ ctxS.sceneOf (recOf 0 0 0).scene = some scene1 ∧ scene1.retiring = false ∧
        (recOf 0 0 0).cueix < scene1.cues.length ∧ (recOf 0 0 0).cor = false ∧ (recOf 0 1 0).cor = true ∧ (recOf 0 0 0).acts = 1) := by
  refine ⟨by decide +kernel, by decide +kernel, by decide +kernel, by decide +kernel, by decide +kernel, by decide +kernel⟩

/-- A ring that may be registered and one that may not; class minima; doorbells; slots free, full and borrowed. -/
theorem witness_LaunchEvents_rings :
    (let r : Ring := ⟨0, 3, 4, 0, 0, 1, false, 0, 0, false⟩
     let s := { queuedRec (recOf 0 0 0) with rings := [(4095, r)] }
     (4095 < 4096 ∧ (queuedRec (recOf 0 0 0)).ring 4095 = none ∧ (queuedRec (recOf 0 0 0)).ctxAt 0 ≠ none ∧ 3 < 4 ∧ 4 ≤ 16) ∧
       s.ring 4095 = some r ∧ s.mapped 4095 = false ∧ s.nextMapped = some 4095 ∧ s.slots.length < 256 ∧ r.unread = true ∧
       ({ s with slots := [⟨4095, 0⟩] } : State).mapped 4095 = true ∧ ({ r with tail := 0 } : Ring).head = 0 ∧ r.head ≠ r.tail ∧
       (s.host.up = true ∧ s.host.retraining = false ∧ s.host.lost = false) ∧ (2 ^ r.size < ((17 : Word) - r.head).toNat) ∧ ((16 : Word) - r.head).toNat ≤ 2 ^ r.size ∧
       (64 + 64 + 64 + 64 ≤ 256 ∧ ¬65 + 64 + 64 + 64 ≤ 256)) ∧
    (let s := { State.reset with classMin := Vector.replicate 4 0, rings := [(4095, ⟨0, 3, 4, 0, 0, 1, false, 0, 0, false⟩)] }
     (s.rings.map (·.1)).Nodup ∧ s.slots.length < 256 ∧ s.nextMapped = some 4095 ∧ (∀ k, k < 4 → s.below k = false)) := by
  refine ⟨by decide +kernel, by decide +kernel⟩

/-- A CANCEL that names a launch of its source, a held one that may complete, a start barrier and a completion. -/
theorem witness_LaunchEvents_more :
    (let s := { queuedRec (bareOf 3 0) with launches := [{ launch1 with seq := 0 }] }
     (s.launches.find? fun l => l.src == .device 0 && l.seq == (bareOf 3 0).scene && l.status == 0 && decide (0 < l.open_)) = some launch1 ∧
       (∀ x ∈ s.parked, x.2.num = x.1) ∧ ({ s with holding := [(.device 0, 1, launch1)] } : State).holding.find? (fun h => h.1 == .device 0) =
         some (.device 0, 1, launch1)) ∧
    (let l := { launch1 with barrier := true, record := recOf 0 2 0 }
     l.barrier = true ∧ [(0 : Word)].length + 1 ≥ l.record.count 0 ∧ l.record.gen = 0) ∧
    (let l := { launch1 with record := recOf 0 0 0, open_ := 0 }
     let s := { queuedRec (recOf 0 0 0) with launches := [l] }
     s.launchAt 1 = some l ∧ l.barrier = false ∧ l.doneWritten = false ∧ l.open_ = 0 ∧
       l.away = none ∧ (match s.doneCheck l.ctx (hubWho 1 1) l.record with | .ok (p :: _) _ => decide (p = ⟨4096, 4096, 32, 0, 0, 0⟩) | _ => false) = true ∧
       s.route l.ctx 4096 = .here ∧ paOff (4096 : BitVec 52) % 32 = 0 ∧ s.regionAt 1 = none ∧ s.deferredAt 64 = none ∧ 64 ∉ s.poison) := by
  refine ⟨⟨by decide +kernel, by decide +kernel, by decide +kernel⟩, by decide +kernel, by decide +kernel⟩

/-- A completion entry in the memory of peer 1, one that is on its way there, and a barrier with a peer over a link that is down. -/
theorem witness_LaunchEvents_peers :
    (let c := { ctxS with fabric := [0, 1], routes := [[], [0]], reps := [(0, ⟨⟨2, 0, [0, 1], 3, 0⟩, 0, 0⟩)] }
     let l := { launch1 with record := recOf 0 0 0, open_ := 0 }
     let s : State := { State.reset with ctxs := [(0, c)], launches := [l], clusTlb := [(clusterOf hubCore, { page1 true true false with pa := 2 ^ 50 + 2 ^ 44 + 4096 })] }
     (match s.doneCheck l.ctx (hubWho 1 1) l.record with | .ok (p :: _) _ => decide (s.route l.ctx p.pa = .peer 1) | _ => false) = true ∧
     (let x := { l with away := some 1 }
      let u : State := { s with launches := [x] }
      u.entryAway = some x ∧ u.launchAt x.id = some x ∧ (∀ a ∈ u.core.live.acc, a.sent = false) ∧ u.core.releasing = none ∧
        (∀ ch, ch < 8 → u.copyHead ch = none)) ∧
     (let r := recOf 0 2 0
      r.rpl = true ∧ c.barrierPeers r = [1] ∧ s.linked 0 1 = true ∧
        ({ s with links := s.links.set 0 ⟨0, 8, false, true, 0⟩ } : State).linked 0 1 = false)) := by
  refine ⟨by decide +kernel, by decide +kernel, by decide +kernel⟩

/-! ### Witnesses: the curtain -/

/-- A context of that fabric whose group 3 is g and which holds one protected entry of it. -/
def curtain (g : Group) (p : List (Nat × Prot) := [(5, prot3)]) : State := { State.reset with ctxs := [(0, { ctx4 g with prot := p })] }

theorem curtain_group (g : Group) (p : List (Nat × Prot)) : (curtain g p).group 0 3 = some g ∧ (curtain g p).ctxAt 0 = some { ctx4 g with prot := p } :=
  ⟨rfl, rfl⟩

/-- A good configuration and ones that break each rule of R350 and R351. -/
theorem witness_CurtainEvents :
    (curtain (group4 .open_) []).ctxAt 0 = some { ctx4 (group4 .open_) with prot := [] } ∧ (ctx4 (group4 .open_)).groupOk 15 (group4 .open_).cfg = true ∧
      (16 ≤ 16 ∧ 3 < 4 ∧ 32 < 33 ∧ 4 < 5 ∧ (∃ d, 1 < [0, 0, 1].count d)) ∧ (∃ p ∈ [(5, prot3)], p.2.cg = 3) ∧
      ({ group4 .halted with minority := [2] } : Group).minority ≠ [] ∧ (ctx4 (group4 .open_)).replicaOk 2 ⟨2, 0, [0, 1], 3, 0⟩ = true ∧
      (∀ q ∈ (ctx4 (group4 .open_)).colQ, q.set ≠ 2) := by
  refine ⟨rfl, by decide +kernel, ⟨by decide, by decide, by decide, by decide, 0, by decide⟩, by decide, by decide, by decide +kernel, by decide⟩

/-- Messages of member 1 in each state that takes them; the last of a round, and one before it. -/
theorem witness_CurtainEvents_messages :
    ((1 : Nat) < (group4 .prep).cfg.n ∧ 1 ≠ (group4 .prep).cfg.self ∧ (group4 .prep).lost.getLsbD 1 = false ∧ (group4 .prep).eod.getLsbD 1 = false) ∧
      (let g := { group4 .prep with ackd := true, eod := 0xF, notices := 0xE }
       g.st = .prep ∧ g.ackd = true ∧ g.eod = allMembers 4 ∧ g.notices ||| memberBit 0 = allMembers 4) ∧
      0 < ({ group4 .prep with unacked := 1 } : Group).unacked ∧ (group4 .prep).round = 42 ∧ (42 : Word) ≠ 41 ∧
      (let g := { group4 .exchange with lost := 4, epoch := 1, exch := [(1, false)] }
       g.others = [1, 3] ∧ g.epoch = 1 ∧ (∀ j ∈ g.others, ∃ y ∈ g.exch ++ [(3, true)], y.1 = j) ∧ ∃ j ∈ g.others, ∀ y ∈ g.exch, y.1 ≠ j) ∧
      (let g := { group4 .halted with concluded := some false, epoch := 1 }
       g.concluded = some false ∧ g.concEpoch.toNat < (2 : BitVec 16).toNat ∧ (0 : BitVec 16).toNat ≤ g.concEpoch.toNat) ∧
      (let s := curtain (group4 .prep)
       s.linked 0 ((group4 .prep).cfg.mem.getD 1 0) = true ∧ (∀ c, s.ctxAt 0 = some c → 1 ∉ c.lost) ∧
         ({ s with links := vset s.links 0 ⟨3, 0, false, true, 0⟩ } : State).linked 0 1 = false) ∧ 3 < 65536 ∧ 65536 ≤ 65536 ∧
      ((group4 .open_).cfg.dom ++ [4]).count 4 ≤ 1 ∧ 1 < ((group4 .open_).cfg.dom ++ [3]).count 3 ∧
      (curtain (group4 .open_)).unabortable 0 3 = false ∧
      (curtain (group4 .open_) [(5, { prot3 with unab := true })]).unabortable 0 3 = true := by
  refine ⟨by decide, by decide, by decide, by decide, by decide, ⟨by decide, by decide, by decide, by decide⟩, by decide,
    ⟨by decide +kernel, fun c h => by cases h; decide, by decide +kernel⟩, by decide, by decide, by decide, by decide, by decide +kernel, by decide +kernel⟩

/-- A round to apply with one staged delta, one after a loss, one to roll back, a group to reopen and one to rebuild. -/
theorem witness_CurtainEvents_rounds :
    ((ctx4 (group4 .commit)).waiting = [] ∧ (∀ p ∈ [(5, prot3)], p.2.deferred = []) ∧ (group4 .commit).lost = 0 ∧
      (group4 .commit).applied = false ∧ (group4 .commit).dbad2 = false) ∧
      (let y : StagedDelta := ⟨5, 0, List.replicate 66 1⟩
       let g := { group4 .commit with deltas := [y] }
       g.deltas = [y] ∧ ((curtain g).entriesOf 0 3).find? (fun p => p.1 == y.entry) = some (5, prot3) ∧ y.syms.length = 66) ∧
      (let g := { group4 .commit with lost := 4 }
       g.lost ≠ 0 ∧ g.concluded = none ∧ g.others ≠ [] ∧ ({ g with concluded := some true } : Group).concluded = some true) ∧
      (let p := { prot3 with undo := [⟨1024, 0, 0, none, false⟩] }
       (curtain (group4 .rollback) [(5, p)]).entriesOf 0 3 = [(5, p)] ∧ p.undo = [⟨1024, 0, 0, none, false⟩]) ∧
      ((group4 .halted).lost = 0 ∧ (group4 .halted).dbad = false ∧ (group4 .open_).st ≠ .halted) ∧
      (let g := { group4 .halted with lost := 4, cfg := { (group4 .halted).cfg with us := some (9, 9) } }
       lowestMember g.lost = some 2 ∧ g.cfg.us = some (9, 9) ∧ g.rebuilding ≠ some 2 ∧ ({ g with rebuilding := some 2 } : Group).rebuilding = some 2) ∧
      ((curtain (group4 .halted)).entriesOf 0 3).find? (fun p => p.1 == 5) = some (5, prot3) := by
  refine ⟨by decide, ⟨rfl, rfl, rfl⟩, by decide, ⟨rfl, rfl⟩, by decide, by decide, rfl⟩

/-- The loss of peer 2, which holds place 2 of group 3; one loss too many; a peer that is no member. -/
theorem witness_CurtainEvents_loss :
    let c := { ctx4 (group4 .open_) with prot := [(5, prot3)] }
    (curtain (group4 .open_)).ctxAt 0 = some c ∧ 2 < c.fabric.length ∧ 2 ≠ c.self ∧ 2 ∉ c.lost ∧ c.fabric.length ≤ 4 ∧ c.colQ = [] ∧ c.colStat = [] ∧
      c.placesOf 2 = [(3, 2)] ∧ assoc c.groups 3 = some (group4 .open_) ∧ (group4 .open_).lost.getLsbD 2 = false ∧ 2 < (group4 .open_).cfg.n ∧
      countMembers (0 ||| memberBit 2) ≤ 1 ∧ 1 < countMembers (1 <<< 3 ||| memberBit 2) ∧
      ({ group4 .open_ with lost := memberBit 2 } : Group).others ≠ [] := by
  refine ⟨rfl, by decide, by decide, by decide, by decide, rfl, rfl, by decide, rfl, by decide, by decide, by decide, by decide, by decide⟩

/-! ### Witnesses: tables, stacks and the host port -/

/-- Stacked memory with tables at 0x10000, 0x11000 and 0x12000 whose entry 0 of level 2 is a leaf of 1 GiB at 0 with those bits. -/
def tabled (leaf : Byte) (c : Ctx := { ctx0 with ttb := 0x10000 }) : State :=
  { State.reset with
    ctxs := [(0, c)]
    keys := [(0, ⟨1, true, 0⟩)]
    mem := [(0x10000, 0x01), (0x10001, 0x10), (0x10002, 0x01), (0x11000, 0x01), (0x11001, 0x20), (0x11002, 0x01), (0x12000, leaf)] }

/-- The translation that such a walk answers. -/
def gib (r w cow : Bool) : Trans := ⟨0, 0, 2 ^ 30, 0, r, w, cow, 0, 0, false⟩

/-- A walk at both ends of a page and one past it, a page asked for and one not, contexts that may and may not be made. -/
theorem witness_HostAndTables :
    ((tabled 0x17).walk 0 0 = some (gib true true false) ∧ (tabled 0x17).walk 0 (2 ^ 30 - 1) = some (gib true true false) ∧
      (gib true true false).covers 0 0 = true ∧ (gib true true false).covers 0 (2 ^ 30 - 1) = true ∧ (tabled 0x17).walk 0 (2 ^ 30) = none) ∧
    (let c : Ctx := { ctx0 with ttb := 0x10000, cowAsked := [(0, 5)] }
     (tabled 0x1B c).ctxAt 0 = some c ∧ (tabled 0x1B c).walk 0 0 = some (gib true false true) ∧ ((0 : DWord), 5) ∈ c.cowAsked ∧ (∀ x ∈ c.cowAsked, x.1 ≠ 4096) ∧ (tabled 0x1B c).guarded = [] ∧
       (paSpace 0x40000000 = 0 ∧ paOpc 0x40000000 = 0 ∧ (0x40000000 : BitVec 52).getLsbD 43 = false ∧ paPeer 0x40000000 = 0 ∧
         (0x40000000 : BitVec 52).toNat % (gib true false true).size = 0) ∧ c.isLocal (BitVec.ofNat 52 (gib true false true).pa) = true) ∧
    ((tabled 0x17).ctxAt 63 = none ∧ (tabled 0x17).ctxAt 0 ≠ none ∧ (0x10000 : BitVec 52).toNat % 4096 = 0 ∧ paSpace 0x10000 = 0 ∧
      paOpc 0x10000 = 0 ∧ (0x10000 : BitVec 52).getLsbD 43 = false ∧ paPeer 0x10000 = 0 ∧ (List.replicate 64 0).length ≤ 64 ∧ 0x100000 % 4096 = 0 ∧ 0x100000 + slotBytes * 4 ≤ Config.memBytes ∧
      (0x10040 : BitVec 52).toNat % 4096 ≠ 0) := by
  refine ⟨by decide +kernel, by decide +kernel, by decide +kernel⟩

/-- A scene image of one cue point: four streams of one word, an almanac, and no ranges, groups or data. -/
def image1 : List Byte :=
  let n4 := fun n => bytesOfNat 4 n
  [0x45, 0x53, 0x46, 0x4A, 1, 0, 1, 0] ++ n4 5 ++ n4 1 ++ List.replicate 16 0 ++
    n4 224 ++ n4 1 ++ n4 228 ++ n4 1 ++ n4 232 ++ n4 1 ++ n4 236 ++ n4 1 ++
    n4 128 ++ n4 136 ++ n4 0 ++ [0, 0, 0, 0] ++ n4 0 ++ n4 160 ++ n4 0 ++ n4 0 ++ n4 240 ++ List.replicate 28 0 ++
    List.replicate 96 0 ++ n4 0x00400000 ++ n4 0x00400000 ++ n4 0x00400000 ++ n4 0x00400000

/-- An image that loads and one that does not; a full scene table; key entries 255 and 256, one in use. -/
theorem witness_HostAndTables_scenes :
    (ctx0.scenes.length < 256 ∧ ctx0.loadStatus image1 = 0 ∧ ctx0.loadStatus [] ≠ 0 ∧ 256 ≤ (List.replicate 256 scene1).length ∧
      ctxS.sceneOf 0 = some scene1 ∧ ctxS.sceneOf 5 = none ∧ (ready1 act1).sceneUsed 0 0 = true ∧
      (queuedRec (recOf 0 0 0)).sceneUsed 0 0 = false) ∧
    (255 < 256 ∧ (256 : Nat) ≤ 256 ∧ (tabled 0x17).keyInUse 0 = true ∧ (tabled 0x17).keyInUse 255 = false) := by
  refine ⟨by decide +kernel, by decide +kernel⟩

/-- Admin ring bases at the ends of R394's sizes, a release that may complete and one that waits, key windows 1023 and 1024. -/
theorem witness_HostAndTables_host :
    ((0x1004 : DWord).toNat % 4096 / 16 = 0 ∧ 4 ≤ (0x1004 : DWord).toNat % 16 ∧ (0x100C : DWord).toNat % 16 ≤ 12 ∧
      (0x1010 : DWord).toNat % 4096 / 16 ≠ 0 ∧ (0x1003 : DWord).toNat % 16 < 4 ∧ 12 < (0x100D : DWord).toNat % 16) ∧
    (let w : Waiting := ⟨3, 16, .poison, 0, .host 0, 64, .host, 7⟩
     let c : Ctx := { ctx4 (group4 .prep) with waiting := [w] }
     (∀ x ∈ [(0, c)], ∀ y ∈ x.2.waiting, y.ret = .host → 6 < y.stamp) ∧ ∃ x ∈ [(0, c)], ∃ y ∈ x.2.waiting, y.ret = .host ∧ y.stamp ≤ 7) ∧
    (1023 < 1024 ∧ (1024 : Nat) ≤ 1024) := by
  refine ⟨by decide, ⟨by decide, by decide⟩, by decide⟩

/-- Pages in host bias and not, at the last page; a line whose snoop is the last of its page, one that still waits for others, and one of a
page to which an access waits. -/
theorem witness_HostAndTables_bias :
    let h := State.reset.host
    let last := 2 ^ 28 - 1
    (h.flips = [] ∧ last < 2 ^ 28 ∧ 2 ^ 28 ≤ last + 1 ∧ last ∉ h.hostBias ∧ last ∈ { h with hostBias := [last] }.hostBias) ∧
      (let line := 64 * last + 63
       let others := (List.range 63).map fun i => (64 * last + i, snoopFlip last)
       let g := { h with hostBias := [last], flips := [last], snoops := [line], pledged := (line, snoopFlip last) :: others, acked := others }
       g.flips = [line / 64] ∧ line ∈ g.snoops ∧ g.up = true ∧ g.retraining = false ∧ (line, snoopFlip last) ∈ g.pledged ∧
         (∀ i, i < 63 → (64 * last + i, snoopFlip last) ∈ g.acked) ∧ (∀ x ∈ g.pledged, x.2 = snoopFlip last) ∧
         (64 * last, snoopFlip last) ∉ h.acked ∧ (∃ x ∈ (64 * last, snoopCore 0) :: g.pledged, x.1 = 64 * last ∧ x.2 ≠ snoopFlip last)) ∧
      (∀ c ∈ (tabled 0x17).ctxs, c.2.waiting = []) := by
  refine ⟨by decide, by decide +kernel, by decide⟩

/-- Lines of the memory-side cache, sectors to scrub at the end of memory, and the last pseudo-channel. -/
theorem witness_HostAndTables_stacks :
    ((∃ l ∈ [(⟨5, 0, 0, true⟩ : CLine)], l.line = 5 ∧ l.dirty = true) ∧ ∀ l ∈ [(⟨5, 0, 0, false⟩ : CLine)], l.line = 5 → l.dirty = false) ∧
      2 ^ 34 - 1 ∉ State.reset.poison ∧ 2 ^ 34 - 1 < 2 ^ 34 ∧ 15 < 16 ∧ 511 < 512 := by
  refine ⟨⟨by decide, by decide⟩, by decide, by decide, by decide, by decide⟩

/-- The host port reaches the last byte of memory through window 1023; a hold, poison, and a PAIRED half refuse it. -/
theorem witness_HostAndTables_access :
    let s : State := { State.reset with host := { State.reset.host with windows := [(1023, 256)] } }
    let a := 2 ^ 40 - 1
    (s.host.up = true ∧ s.host.retraining = false ∧ a < 2 ^ 43 ∧ a % 2 ^ 40 + 1 ≤ 2 ^ 40 ∧ s.waitingOn a 1 = false ∧ s.windowsOn a 1 = true ∧
      State.reset.windowsOn a 1 = false ∧ a / 2 ^ 30 = (a + 1 - 1) / 2 ^ 30 ∧ (∀ g ∈ granules a 1, assoc s.holds g = none) ∧
      (∀ k ∈ sectorsOf a 1, k ∉ s.poison ∧ s.pairRefuses (k / 64) = false ∧ s.regionAt (k / 64) = none ∧ s.deferredAt k = none ∧
        assoc s.secKey k = none)) ∧
      (granules a 1 = [2 ^ 36 - 1] ∧ s.conflicts (.host 0) ⟨.core 0 5, 0, [0, 0, 0, 0]⟩ = true ∧ sectorsOf a 1 = [2 ^ 34 - 1] ∧
        (2 ^ 40 ≤ 2 ^ 40 + a ∧ (2 ^ 40 + a) % 4 ≠ 0)) ∧
      (curtain (group4 .prep) [(5, { prot3 with paired := true })]).pairRefuses 16 = true := by
  refine ⟨by decide +kernel, by decide +kernel, by decide +kernel⟩

/-- The host reads STATE of a module that has failed at step 3, and 0 where BAR0 has no row (R392). -/
theorem test_bar0_reads :
    (match exec (.hostRead (.bar0 0x8018) 8) { State.reset with power := .failed 3 }, exec (.hostRead (.bar0 0x9000) 4) State.reset with
      | .next t, .next u => decide (t.notices = [.hostData [2, 0, 3, 0, 0, 0, 0, 0] false] ∧ u.notices = [.hostData [0, 0, 0, 0] false])
      | _, _ => false) = true := by decide +kernel

/-! ### Witnesses: links, energy, firmware and power -/

/-- Links in every state, routes that a loss leaves down, the host link, and the ends of energy and budget. -/
theorem witness_LinksAndPower :
    (State.reset.links[23]? = some ⟨0, 8, false, false, 0⟩ ∧ 23 < 24 ∧
      (⟨0, 8, false, false, 0⟩ : Link).failed = 0 ∧ (⟨1, 8, false, false, 0⟩ : Link).failed = 1 ∧ 2 ≤ (⟨2, 4, false, false, 0⟩ : Link).failed ∧
      (⟨3, 0, false, true, 0⟩ : Link).down = true) ∧
    (let s : State := { State.reset with links := vset State.reset.links 23 ⟨3, 0, false, true, 0⟩,
                                         ctxs := [(0, { ctx4 (group4 .open_) with routes := [[], [], [23], []] })] }
     ∀ j ∈ [23], s.linkDown j = true) ∧
    (2 < (ctx4 (group4 .open_)).fabric.length ∧ 2 ≠ (ctx4 (group4 .open_)).self ∧ 2 ∉ (ctx4 (group4 .open_)).lost) ∧
    (State.reset.host.up = true ∧ State.reset.host.counting = false ∧ ({ State.reset.host with counting := true } : HostPort).counting = true) ∧
    (3400 ≤ 3400 ∧ 3400 < 3401 ∧ 3 < 4 ∧ 999 ≤ 1000 ∧ (running .a).ctxAt 0 = some ctx0) := by
  refine ⟨by decide +kernel, by decide +kernel, by decide, by decide, by decide, by decide, by decide, by decide, rfl⟩

/-- Firmware with and without an incoming image, the last leaf and the first past it, the last boot. -/
theorem witness_LinksAndPower_firmware :
    State.reset.fw.incoming = none ∧ ({ State.reset.fw with incoming := some ⟨[1], 2⟩ } : Firmware).incoming = some ⟨[1], 2⟩ ∧
      2 ^ 20 ≤ ({ State.reset.fw with leaf := 2 ^ 20 } : Firmware).leaf ∧ ({ State.reset.fw with leaf := 2 ^ 20 - 1 } : Firmware).leaf < 2 ^ 20 ∧
      State.reset.fw.boots + 1 < 2 ^ 20 ∧ 2 ^ 20 ≤ ({ State.reset.fw with boots := 2 ^ 20 - 1 } : Firmware).boots + 1 :=
  ⟨rfl, rfl, Nat.le_refl _, by show 2 ^ 20 - 1 < 2 ^ 20; decide, by show 0 + 1 < 2 ^ 20; decide, by show 2 ^ 20 ≤ 2 ^ 20 - 1 + 1; decide⟩

/-- A tree's secrets, and firmware whose active image they sign with leaf 0. -/
def vendor : TreeKey := ⟨[], [], List.replicate 32 0⟩

def signedImage (image : List Byte) : List Byte := vendor.sign 0 (shake256 image)

def signedFw (image : List Byte) : Firmware :=
  { active := ⟨image, BitVec.ofNat 22560 (ofBigEndian (signedImage image))⟩, incoming := none,
    root := BitVec.ofNat 256 (ofBigEndian vendor.root), seed := BitVec.ofNat 256 (ofBigEndian vendor.seed), leaf := 0, boots := 0 }

/-- It accepts every image that they sign, so it is fit; firmware whose identity leaves are used up is not; and nor is one that does not
accept its image. A signature of another length is refused. -/
theorem witness_LinksAndPower_accepted (image other : List Byte) :
    (signedImage other).length = 2820 ∧
      (signedFw image).accepts ⟨other, BitVec.ofNat 22560 (ofBigEndian (signedImage other))⟩ = true ∧ (signedFw image).unfit = false ∧
      ({ signedFw image with boots := 2 ^ 20 - 1 } : Firmware).unfit = true ∧ ([] : List Byte).length ≠ 2820 := by
  have h : ∀ x, (signedImage x).length = 2820 := fun x => (vendor.sign_root 0 _ (by omega) _ rfl).2.1
  have acc : ∀ x, (signedFw image).accepts ⟨x, BitVec.ofNat 22560 (ofBigEndian (signedImage x))⟩ = true := by
    intro x
    simp only [Firmware.accepts, signedFw]
    rw [bigEndian_bitVec vendor.root 32 256 (vendor.node_length 20 0) rfl, bigEndian_bitVec vendor.seed 32 256 rfl rfl,
      bigEndian_bitVec (signedImage x) 2820 22560 (h x) rfl]
    exact vendor.sign_verifies 0 _ (by omega)
  refine ⟨h other, acc other, ?_, ?_, by simp⟩
  · have := acc image
    simp only [Firmware.unfit]
    show (!(signedFw image).accepts ⟨image, BitVec.ofNat 22560 (ofBigEndian (signedImage image))⟩ || _) = false
    rw [this]
    rfl
  · simp [Firmware.unfit]

/-- Capabilities: untagged, of a length of 64 bytes to be written in host memory, of length 0, and of another space; a fault held. -/
theorem witness_LinksAndPower_capabilities :
    let s := fun (v : BitVec 128) (t : Bool) => ({ State.reset with sm := { State.reset.sm with caps := [(3, ⟨v, t⟩)] } } : State)
    let good : BitVec 128 := BitVec.ofNat 128 (0x1000 + 64 * 2 ^ 64 + 2 ^ 97 + 4 * 2 ^ 100)
    ((s 0 false).sm.cap 3).tag = false ∧ ((s good true).sm.cap 3).tag = true ∧ ((s good true).sm.cap 3).formed = true ∧
      ((s good true).sm.cap 3).len = 64 ∧ ((s good true).sm.cap 3).spc = 0 ∧ ((s good true).sm.cap 3).writes = true ∧
      ((s 0 true).sm.cap 3).formed = false ∧ ((s (BitVec.ofNat 128 (64 * 2 ^ 64 + 2 ^ 98)) true).sm.cap 3).spc ≠ 0 ∧
      ((s 0 true).sm.cap 3).writes = false ∧ ((s good true).sm.cap 3).len < 64 * 2 ∧ (4 : Nat) ≠ 3 ∧ State.reset.sm.refused = none := by
  decide +kernel

/-- A status with no command to answer, one that can go to its slot at once, one that waits for the link, one for a lost host, and one that
has waited; accesses that a capability permits, in host memory and in stacked memory. -/
theorem witness_LinksAndPower_statuses :
    (let h := State.reset.host
     let g := { h with admHead := 1 }
     (h.up = true ∧ h.retraining = false ∧ h.lost = false ∧ h.due = [] ∧ h.admDone = h.admHead ∧ g.admDone ≠ g.admHead ∧ 0 / 64 ∉ h.poison ∧
       { g with lost := true }.lost = true ∧ { g with up := false }.up = false ∧ { g with due := [(64, 3)] }.due = [(64, 3)] ∧
       g.admBase.toNat / 4096 * 4096 + 64 * (g.admDone.toNat % 2 ^ (g.admBase.toNat % 16)) = 0)) ∧
    (let k : CapCell := ⟨BitVec.ofNat 128 (0x1000 + 64 * 2 ^ 64 + 2 ^ 97), true⟩
     let f : CapCell := ⟨BitVec.ofNat 128 (0x1000 + 64 * 2 ^ 64 + 2 ^ 97 + 2 ^ 98), true⟩
     k.tag = true ∧ 1 ≤ k.len ∧ k.spc = 0 ∧ k.kind < 5 ∧ k.value.toNat < 2 ^ 104 ∧ k.value.getLsbD 97 = true ∧ 56 + 8 ≤ k.len ∧ f.spc = 1 ∧
       f.value.getLsbD 97 = true ∧ State.reset.host.linked = true ∧ f.base + 56 + 8 ≤ Config.memBytes ∧
       ∀ y ∈ sectorsOf (f.base + 56) 8, State.reset.deferredAt y = none ∧ assoc State.reset.secKey y = none) := by
  refine ⟨by decide, by decide +kernel⟩

/-- An access past the end of a capability is counted as a fault, and the command being parsed is refused with BOUNDS (R399, R400). -/
theorem test_capability_fault :
    (match exec (.registerWrite (.capUse 3 true 0 60 8) 0) { State.reset with
        sm := { State.reset.sm with caps := [(3, ⟨BitVec.ofNat 128 (64 * 2 ^ 64 + 2 ^ 97), true⟩)] } } with
      | .next t => decide (t.sm.faults = 1 ∧ t.sm.refused = some 1)
      | _ => false) = true := by decide +kernel

/-- A context that is quiescent and one that is not; ranges that can be saved and one that cannot; a sector with an undo record. -/
theorem witness_LinksAndPower_checkpoint :
    ((tabled 0x17).quiescent 0 = true ∧ (running .a).quiescent 0 = false ∧ (tabled 0x17).savedRanges 0 [] = some [] ∧
      (tabled 0x17).savedRanges 0 [(2 ^ 30, 1)] = none ∧ (tabled 0x17).sectorVa 0 64 = some (1, 0) ∧ (List.replicate 64 (7 : Byte)).length = 64 ∧
      (tabled 0x17).regionAt 0 = none ∧ (tabled 0x17).twin 1 = none) ∧
    ((curtain (group4 .halted)).quiescent 0 = true ∧ (ctx4 (group4 .halted)).waiting = [] ∧ assoc (ctx4 (group4 .halted)).groups 3 = some (group4 .halted)) ∧
    (let p := { prot3 with undo := [⟨1024, 0, 0, none, false⟩] }
     (curtain (group4 .open_) [(5, p)]).regionAt (1024 / 64) = some (0, 5, p, 0) ∧ p.paired = false ∧
       (p.undo.find? fun r => r.sector == 1024) = some ⟨1024, 0, 0, none, false⟩ ∧
       assoc (tabled 0x17).secKey 1 = none) := by
  refine ⟨by decide +kernel, by decide +kernel, by decide +kernel⟩

/-- The hash of RFC 8391's signatures on the empty message: FIPS 202's value (R403). -/
theorem test_shake128_empty :
    shake128 [] = bigEndian 32 0x7f9c2ba4e88f827d616045507605853ed73b8093f6efbc88eb1a6eacfa66ef26 := by decide +kernel

/-- AES with a key of 256 bits: the example of FIPS 197 (R345). -/
theorem test_aes256 :
    aesEncrypt (aesKeys (List.range 32)) ((List.range 16).map fun i => 17 * i) =
      (bigEndian 16 0x8ea2b7ca516745bfeafc49904b496089).map (·.toNat) := by decide +kernel

/-! ### Witnesses: the machine -/

/-- Well-formed instructions with one word and with two, and what the decoder reads from them. -/
theorem witness_RoundTrip :
    (WellFormed (.nop cu0) = true ∧ encode (.nop cu0) ≠ []) ∧ (WellFormed (.actEnd cu15) = true ∧ encode (.actEnd cu15) ≠ []) ∧
      (WellFormed (.li cu0 1 5) = true ∧ (encode (.li cu0 1 5)).length = 2) ∧ decode 0x0F200000 0 = .ok (.actEnd cu0) :=
  ⟨by decide, by decide, by decide, rfl⟩

theorem witness_DecodeWords :
    opOf 0x00000000 = 0x00 ∧ opOf 0x02600000 = 0x13 ∧ opOf 0x03600000 = 0x1B ∧ opOf 0x03800000 = 0x1C ∧
      (opAssigned (opOf 0x07200000) = true ∧ isWide (opOf 0x07200000) = true ∧ (0x10000000 : Word).extractLsb' 28 4 ≠ 0) := by decide

/-- An engine that may issue and one that is halted; words that decode and that do not; agendas, turns and power. -/
theorem witness_StepRunsDecoded :
    (let s := running .a
     let s0 : State := { s with turn := Turn.after (.eng .a), cur := .a }
     let s1 : State := s0.setLive (s.core.live.settle .a)
     let x := s1.core.live.eng .a
     s.power = .ready ∧ s.agenda = [] ∧ s.turn = .eng .a ∧ s1.canIssue .a = true ∧ x.pc < 8192 ∧ x.pc ∉ x.tags ∧
       (match decode (x.word x.pc) (x.word (x.pc + 1)) with | .ok _ => false | .error r => decide (r = .opcode)) = true) ∧
    (let s := (State.reset.withFetchWord 32 0x00200000)
     let x := (s.core.live.settle .a).eng .a
     s.power = .ready ∧ s.agenda = [] ∧ s.turn = .eng .a ∧ x.pc < 8192 ∧ x.pc ∉ x.tags ∧
       (match decode (x.word x.pc) (x.word (x.pc + 1)) with | .ok i => decide (i = .nop cu0) | .error _ => false) = true) ∧
    (Instr.parsed (.sceneUnload 0 0) = true ∧ Instr.parsed .thermalStop = false ∧ Instr.powers .thermalStop = false ∧
      State.reset.sm.refused = none ∧ ({ State.reset.sm with refused := some 1 } : Manager).refused = some 1) ∧
    ((∀ e, (State.reset.core.live.eng e).backEdge = none) ∧ ({ State.reset with turn := .uncore } : State).nextEvent = none ∧
      ({ State.reset with power := .stopped } : State).power ≠ .ready) := by
  refine ⟨by decide +kernel, by decide +kernel, by decide, fun e => by cases e <;> rfl, by decide +kernel, by decide⟩

/-- The state after reset has memories in canonical form and a step from it. -/
theorem witness_MemoryCanonical :
    Memory.wf State.reset.mem = true ∧ Sparse.wf (0 : Byte) State.reset.host.mem = true ∧
      (match step State.reset with | .next t => Memory.wf t.mem && Sparse.wf (0 : Byte) t.host.mem | _ => false) = true := by decide +kernel

/-- The last class minimum and the last counters. -/
theorem witness_ResetValues :
    vget State.reset.classMin 3 0 = 64 ∧ vget State.reset.core.pmc 15 0 = 0 ∧ vget State.reset.edie 3 0 = 0 := by decide +kernel

end Sys2Proof.Tests
end

section
/-! PROOF. What the state after bring-up reads as: entries of the register arrays, the four engines, and the statement on reset. -/

namespace Sys2Proof.Machine

open Sys2Proof Sys2Proof.Safety

/-! ### Arrays with one value in every entry -/

/-- An array that holds x everywhere reads x up to its end. -/
theorem vget_replicate_of_lt {α : Type} {n k : Nat} (x d : α) (h : k < n) : vget (Vector.replicate n x) k d = x := by
  simp [vget, h]

/-- An array that holds the default everywhere reads as the default at every position, past its end too. -/
@[simp] theorem vget_replicate_default {α : Type} (n k : Nat) (d : α) : vget (Vector.replicate n d) k d = d := by
  by_cases h : k < n
  · exact vget_replicate_of_lt d d h
  · simp [vget, h]

/-! ### The engines of a core after bring-up (R111, R114, R138) -/

/-- Bring-up leaves the four engines alike. -/
@[simp] theorem Live.eng_reset (e : Engine) : Live.reset.eng e = EngState.reset := by
  cases e <;> rfl

@[simp] theorem EngState.sreg_reset (n : BitVec 5) : EngState.reset.sreg n = 0 := by
  unfold EngState.sreg
  split
  · rfl
  · exact vget_replicate_default 32 n.toNat 0

@[simp] theorem EngState.target_reset (n : BitVec 2) : EngState.reset.target n = 0 :=
  vget_replicate_default 4 n.toNat 0

@[simp] theorem EngState.level_reset (n : BitVec 2) : EngState.reset.level n = LoopLevel.zero :=
  vget_replicate_default 4 n.toNat LoopLevel.zero

@[simp] theorem Live.tokens_reset (i : Nat) : Live.reset.tokens i = 0 :=
  vget_replicate_default 8 i 0

/-- Every register of an engine with a reset column is zero after bring-up, the token queues hold nothing, and no loop level of it is
active (R45). -/
theorem reset_engine_zero (e : Engine) :
    let x := State.reset.core.live.eng e
    x.cause = 0 ∧ x.epc = 0 ∧ x.tval0 = 0 ∧ x.tval1 = 0 ∧ x.tvec = 0 ∧ x.ridx = 0 ∧ x.almlvl = 0 ∧ x.issued = 0 ∧
      (∀ n, x.sreg n = 0 ∧ State.reset.core.live.tokens n.toNat = 0) ∧
      ∀ n, x.target n = 0 ∧ (x.level n).act = false ∧ (x.level n).cnt = 0 ∧ (x.level n).pend = false := by
  have hlive : State.reset.core.live = Live.reset := rfl
  rw [hlive, Live.eng_reset]
  refine ⟨rfl, rfl, rfl, rfl, rfl, rfl, rfl, rfl, fun n => ?_, fun n => ?_⟩
  · exact ⟨EngState.sreg_reset n, Live.tokens_reset n.toNat⟩
  · rw [EngState.level_reset]
    exact ⟨EngState.target_reset n, rfl, rfl, rfl⟩

/-! ### The machine after bring-up -/

/-- Every class minimum is 64 after bring-up. -/
theorem reset_classMin (k : Nat) (h : k < 4) : vget State.reset.classMin k 0 = 64 :=
  vget_replicate_of_lt 64 0 h

/-- The generations of the focused core, those of the collectives and the energy counters of the dies start at zero. -/
theorem reset_generations_zero (i : Nat) :
    vget State.reset.core.gens i 0 = 0 ∧ vget State.reset.colGens i 0 = 0 ∧ vget State.reset.edie i 0 = 0 :=
  ⟨vget_replicate_default 4 i 0, vget_replicate_default 4 i 0, vget_replicate_default 4 i 0⟩

/-- The performance counters start at zero (R389). -/
theorem reset_pmc_zero (i : Nat) : vget State.reset.core.pmc i 0 = 0 :=
  vget_replicate_default 16 i 0

/-- Settles O60: the memories are canonical by `State.reset_canon`, the engines and the arrays read as the lemmas above say, and
every other table or register is an empty list or a constant of `State.reset`. -/
theorem resetValues : Obligations.ResetValues := by
  unfold Obligations.ResetValues
  obtain ⟨hmem, hhost⟩ := State.reset_canon
  have memory_zero (a : Nat) : memAt State.reset a = 0 := rfl
  have scales_one (k : Nat) : Sparse.get 0x7F7F State.reset.secScale k = 0x7F7F := rfl
  have no_key (k ctx : Nat) : State.reset.keyBound k ctx = false := rfl
  have no_ctx (c : Nat) : State.reset.ctxAt c = none := rfl
  exact ⟨hmem, hhost, memory_zero, scales_one, rfl, rfl, no_key, no_ctx, rfl, rfl, rfl, rfl, rfl, rfl,
    reset_classMin, rfl, rfl, rfl, reset_engine_zero, rfl, rfl, rfl,
    fun i _ => reset_generations_zero i, fun i _ => reset_pmc_zero i⟩

end Sys2Proof.Machine
end

section
/-! PROOF. Decode and encode agree (R46 to R71): the fields of joined words read back, so the decoder's candidate for the words of an
instruction is that instruction; a word's bytes read back as the word. -/

namespace Sys2Proof

/-! ### Reading a field of a joined word

The laws `extract_append_lo` and its companions, in the form that `simp` finds whatever way the width of the joined word is
written: as the literal 21 or 28 of a word's fields, or as the sum of the widths. -/

theorem read_lo {n m k j : Nat} (h : BitVec n) (l : BitVec m) (hk : j + k ≤ m) :
    (no_index (h ++ l)).extractLsb' j k = l.extractLsb' j k := extract_append_lo h l hk

theorem read_hi {n m k j : Nat} (h : BitVec n) (l : BitVec m) (hk : m ≤ j) :
    (no_index (h ++ l)).extractLsb' j k = h.extractLsb' (j - m) k := extract_append_hi h l hk

theorem readBit_lo {n m i : Nat} (h : BitVec n) (l : BitVec m) (hk : i < m) :
    (no_index (h ++ l)).getLsbD i = l.getLsbD i := getLsbD_append_lo h l hk

theorem readBit_hi {n m i : Nat} (h : BitVec n) (l : BitVec m) (hk : m ≤ i) :
    (no_index (h ++ l)).getLsbD i = h.getLsbD (i - m) := getLsbD_append_hi h l hk

/-- The function field of `sel` holds the number of the flag in its low bits (R116). -/
theorem read_sel {n : Nat} (h : BitVec n) (c : BitVec 2) :
    (no_index (h ++ (1 : BitVec 4) ++ c)).extractLsb' 0 4 = (1 : BitVec 2) ++ c := by
  rw [← BitVec.extractLsb'_append_extractLsb'_eq_extractLsb' (show 2 = 0 + 2 from rfl)]
  simp (disch := decide) only [read_lo, read_hi, BitVec.extractLsb'_eq_self]
  rfl

/-- The immediate of `li` in its two parts (R117). -/
theorem immediate_parts (v : Word) : v.extractLsb' 28 4 ++ v.extractLsb' 0 28 = v := by
  rw [BitVec.extractLsb'_append_extractLsb'_eq_extractLsb' (show 28 = 0 + 28 from rfl)]
  exact BitVec.extractLsb'_eq_self

/-! ### The words of every instruction -/

/-- How the words of an instruction read back: an event has none; otherwise the opcode is assigned, gives the number of words, and
the candidate that the decoder reads from the opcode and the fields is the instruction. -/
inductive ReadsBack (i : Instr) : Prop
  | event (noWords : encode i = [])
  | one {cu : Cue} {op : BitVec 7} {f : BitVec 21} (words : encode i = one cu op f) (assigned : opAssigned op = true)
      (narrow : isWide op = false) (cand : ∀ y, candidate cu op f y = some i)
  | two {cu : Cue} {op : BitVec 7} {f : BitVec 21} {y : BitVec 28} (words : encode i = two cu op f y)
      (assigned : opAssigned op = true) (wide : isWide op = true) (cand : candidate cu op f y = some i)

/-- Every instruction reads back: the events, then `sel` and `li`, whose fields are cut differently, then the instructions that the
opcode alone names, those that a function field tells apart, and those of two words. -/
theorem readsBack (i : Instr) : ReadsBack i := by
  cases i
  any_goals exact .event rfl
  case sel cu d a b c =>
    refine .one rfl rfl rfl fun _ => show candGroup11 _ _ = _ from ?_
    obtain rfl | rfl | rfl | rfl : c = 0 ∨ c = 1 ∨ c = 2 ∨ c = 3 := by revert c; decide
    all_goals
      simp (disch := decide) only [candGroup11, read_sel, read_lo, read_hi, Nat.reduceSub, BitVec.extractLsb'_eq_self]
      rfl
  case li cu d imm =>
    refine .two rfl rfl rfl (congrArg some ?_)
    simp [read_lo, read_hi, immediate_parts]
  case' nop | cue | bprep | br | bl | loopx | trap | tokw | toks | brk | csrr | csrw | csrs | csrc | addi | ctrRd | aadd
    | aaddi | vadd | vsub | vmul | vfma | vmin | vmax | vshl | vshr | vsra | vsel | vsplat | viota | vperm | vredmax |
    vredmin | vcmprs | pany | pall | pcnt | pfirst | psetn | mmTile | mmZero | ldSp | stSp | curtPrep | curtWait | digRd
    | ld | lds | st | sts | pf | protClr | drain | ldacq | strel | lqskip | colWait | actSpawn | actNext | actYield |
    actEnd | lnch | semRd | cwait =>
    refine .one rfl rfl rfl fun _ => congrArg some ?_
  case' loopImmediate | loopRegister =>
    refine .one rfl rfl rfl fun _ => show candGroup06 _ _ = _ from ?_
    unfold candGroup06
  case' add | sub | mul | mulh | mulhn | and | or | xor | andn | shl | shr | sra | minI | maxI | minN | maxN | cmpEq |
    cmpNe | cmpLtI | cmpGeI | cmpLtN | cmpGeN =>
    refine .one rfl rfl rfl fun _ => show candGroup10 _ _ = _ from ?_
    unfold candGroup10
  case' mov | popc | clz | ctz | bext | bins =>
    refine .one rfl rfl rfl fun _ => show candGroup11 _ _ = _ from ?_
    unfold candGroup11
  case' divI | divN | remI | remN =>
    refine .one rfl rfl rfl fun _ => show candGroup12 _ _ = _ from ?_
    unfold candGroup12
  case' shli | shri | srai =>
    refine .one rfl rfl rfl fun _ => show candGroup15 _ _ = _ from ?_
    unfold candGroup15
  case' fadd | fsub | fmul | fmin | fmax | fcmpEq | fcmpLt | fcmpLe | fcmpUn | fsgn | fsgnN | fsgnX | fcvtI32F32 |
    fcvtN32F32 | fcvtF32I32 | fcvtF32N32 =>
    refine .one rfl rfl rfl fun _ => show candGroup18 _ _ = _ from ?_
    unfold candGroup18
  case' fdiv | fsqrt | fsqrtCk | frsq =>
    refine .one rfl rfl rfl fun _ => show candGroup1A _ _ = _ from ?_
    unfold candGroup1A
  case' aset | agetLo | agetHi =>
    refine .one rfl rfl rfl fun _ => show candGroup1F _ _ = _ from ?_
    unfold candGroup1F
  case' vabs | vneg | vmov | vexp2 | vlog2 | vrcp | vrsq | vsig =>
    refine .one rfl rfl rfl fun _ => show candGroup26 _ _ = _ from ?_
    unfold candGroup26
  case' fenceAcq | fenceRel | fenceAr =>
    refine .one rfl rfl rfl fun _ => show candGroup6E _ _ = _ from ?_
    unfold candGroup6E
  case' flogOld | flogStat | flogSeq | flogPop =>
    refine .one rfl rfl rfl fun _ => show candGroup75 _ _ = _ from ?_
    unfold candGroup75
  case' semSig | semSigSet =>
    refine .one rfl rfl rfl fun _ => show candGroup7C _ _ = _ from ?_
    unfold candGroup7C
  case' fma | vlogic | vcmp | vext | vins | vshuf | vslide | vcvt | vwiden | vnarrow | vscl | vscld | vredsum | vdot |
    vsortkv | vsegsum | smxStep | smxFin | plogic | spStat | spPlain | mmFeed | mmPass | mmDrain | mmRd | bkAdd | bkMul
    | bkFma | bkMax | bkMin | bkScale | bkExpsum | bkRed | bkCvt | bkFill | bkCopy | gather | scatter | cpy | cpy2d |
    atOp | cas | red | protSet | colStart | almW | semWait =>
    refine .two rfl rfl rfl (congrArg some ?_)
  all_goals
    simp (disch := decide) only [read_lo, read_hi, readBit_lo, readBit_hi, Nat.reduceSub, BitVec.extractLsb'_eq_self,
      BitVec.reduceExtractLsb', BitVec.reduceToNat, BitVec.getLsbD_ofBool, decide_true, Bool.true_and]

/-- The decoder reads the words of a well-formed instruction as that instruction, whatever word follows a single one. -/
theorem decode_encode {i : Instr} (x : Word) (wf : WellFormed i = true) (hw : encode i ≠ []) :
    decode ((encode i).getD 0 0) ((encode i).getD 1 x) = .ok i := by
  cases readsBack i with
  | event noWords => exact absurd noWords hw
  | one words assigned narrow cand => exact decode_one _ _ _ x i assigned narrow words (cand _) wf
  | two words assigned wide cand => exact decode_two _ _ _ _ x i assigned wide words cand wf

/-! ### Bytes -/

/-- A word is its four bytes, lowest address first (R4). -/
theorem word_of_its_bytes (w : Word) :
    wordOfBytes (w.extractLsb' 0 8) (w.extractLsb' 8 8) (w.extractLsb' 16 8) (w.extractLsb' 24 8) = w := by
  unfold wordOfBytes
  rw [BitVec.extractLsb'_append_extractLsb'_eq_extractLsb' (show 24 = 16 + 8 from rfl),
    BitVec.extractLsb'_append_extractLsb'_eq_extractLsb' (show 16 = 8 + 8 from rfl),
    BitVec.extractLsb'_append_extractLsb'_eq_extractLsb' (show 8 = 0 + 8 from rfl)]
  exact BitVec.extractLsb'_eq_self

/-- The decoder reads the bytes of one word as the word decodes. -/
theorem decodeBytes_one {w : Word} {i : Instr} (rest : List Byte) (narrow : isWide (opOf w) = false)
    (h : decode w 0 = .ok i) : decodeBytes (bytesOfWord w ++ rest) = .ok (i, rest) := by
  simp only [bytesOfWord, decodeBytes, List.cons_append, List.nil_append, word_of_its_bytes, narrow, Bool.false_and,
    Bool.false_eq_true, if_false, h]

/-- The decoder reads the bytes of two words of format W as the words decode. -/
theorem decodeBytes_two {w x : Word} {i : Instr} (rest : List Byte) (wide : isWide (opOf w) = true)
    (assigned : opAssigned (opOf w) = true) (h : decode w x = .ok i) :
    decodeBytes (bytesOfWord w ++ bytesOfWord x ++ rest) = .ok (i, rest) := by
  simp [bytesOfWord, decodeBytes, word_of_its_bytes, wide, assigned, h]

/-- The decoder reads the bytes of a well-formed instruction as that instruction and leaves what follows. -/
theorem decodeBytes_encodeBytes {i : Instr} (rest : List Byte) (wf : WellFormed i = true) (hw : encode i ≠ []) :
    decodeBytes (encodeBytes i ++ rest) = .ok (i, rest) := by
  have hdec := decode_encode 0 wf hw
  cases readsBack i with
  | event noWords => exact absurd noWords hw
  | @one cu op f words assigned narrow cand =>
    have hbytes : encodeBytes i = bytesOfWord (nibble cu ++ op ++ f) := by rw [encodeBytes, words]; rfl
    rw [words] at hdec
    rw [hbytes]
    exact decodeBytes_one rest (by rw [opOf_one]; exact narrow) hdec
  | @two cu op f y words assigned wide cand =>
    have hbytes : encodeBytes i = bytesOfWord (nibble cu ++ op ++ f) ++ bytesOfWord ((0 : BitVec 4) ++ y) := by
      rw [encodeBytes, words]; rfl
    rw [words] at hdec
    rw [hbytes]
    exact decodeBytes_two rest (by rw [opOf_one]; exact wide) (by rw [opOf_one]; exact assigned) hdec

/-- Settles O56: the words and the bytes of an instruction read back as it, because the decoder's candidate for them is the
instruction; and the decoder accepts nothing that is not well formed or has other words. -/
theorem roundTrip : Obligations.RoundTrip := by
  unfold Obligations.RoundTrip
  refine ⟨fun i x => decode_encode x, fun i rest => decodeBytes_encodeBytes rest, fun w x i h => ?_⟩
  obtain ⟨wf, words, -⟩ := decode_ok h
  exact ⟨wf, words⟩

end Sys2Proof
end

section
/-! PROOF. Words of the spec decode to their instructions, and words that are refused are refused by the row that holds (R46 to R60,
R68, R69). -/

namespace Sys2Proof

/-- An unassigned opcode is refused, whatever the other fields are (R69 row 2). -/
theorem decode_unassigned {w : Word} (x : Word) (h : opAssigned (opOf w) = false) : decode w x = .error .opcode := by
  simp [decode, h]

/-- An extension word with a nonzero top is refused (R69 row 4). -/
theorem decode_extension {w x : Word} (assigned : opAssigned (opOf w) = true) (wide : isWide (opOf w) = true)
    (top : x.extractLsb' 28 4 ≠ 0) : decode w x = .error .extension := by
  have hrow : (isWide (opOf w) && x.extractLsb' 28 4 != 0) = true := by rw [wide, Bool.true_and, bne_iff_ne]; exact top
  rw [decode, if_pos assigned, if_pos hrow]

/-- The opcodes of format W are assigned (R64). -/
theorem opAssigned_of_isWide : ∀ op : BitVec 7, isWide op = true → opAssigned op = true := by decide

/-- The opcodes that are not assigned are these four (R64). -/
theorem opAssigned_eq_false_iff : ∀ op : BitVec 7, opAssigned op = false ↔ op ∈ [(0x00 : BitVec 7), 0x13, 0x1B, 0x1C] := by decide

/-- The first word of a format W instruction is no whole instruction (R48). -/
theorem decodeBytes_short {b0 b1 b2 b3 : Byte} (wide : isWide (opOf (b3 ++ b2 ++ b1 ++ b0)) = true) :
    decodeBytes [b0, b1, b2, b3] = .error .short := by
  have assigned := opAssigned_of_isWide _ wide
  simp only [decodeBytes, wordOfBytes, wide, assigned, Bool.and_self, if_true]

/-- Settles O57: the words of the spec decode by evaluation, whatever word follows; each refusal is the lemma of its row. -/
theorem decodeWords : Obligations.DecodeWords := by
  unfold Obligations.DecodeWords
  refine ⟨fun x => ⟨rfl, rfl, rfl, rfl, rfl, rfl, rfl, rfl, rfl, rfl, rfl, rfl, rfl, rfl⟩, fun w x h => ?_,
    fun w x => decode_extension, fun x => ⟨rfl, rfl⟩, fun b0 b1 b2 b3 => ⟨rfl, rfl, decodeBytes_short⟩⟩
  refine decode_unassigned x ((opAssigned_eq_false_iff _).2 ?_)
  simpa using h

end Sys2Proof
end

section
/-! PROOF. Refused words (R62, R63, R69 rows 1 to 5, R199): the fault of each row, and instructions in an engine that they are not
legal in. -/

namespace Sys2Proof.Machine

open Sys2Proof Sys2Proof.Safety

/-! ### The fault values of the rows, in the order of R69 -/

theorem EngState.refusal_past {x : EngState} (e : Engine) (w v : Word) (hpc : 8192 ≤ x.pc) :
    x.refusal e w v = ⟨1, 8192, 0⟩ := if_pos hpc

/-- The extension word is shown where the tagged word's own bits hold a format W opcode: the model's choice, log 38. -/
theorem EngState.refusal_tagged {x : EngState} (e : Engine) (w v : Word) (hpc : x.pc < 8192) (htag : x.tags.contains x.pc = true) :
    x.refusal e w v = ⟨1, w, if isWide (opOf w) then v else 0⟩ := by
  simp only [EngState.refusal, Nat.not_le.2 hpc, htag, if_false, if_true]

/-- A tag on the word of an unassigned opcode changes nothing: the rows of the tag and of the opcode raise one fault. -/
theorem EngState.refusal_unassigned {x : EngState} (e : Engine) {w : Word} (v : Word) (hpc : x.pc < 8192)
    (hop : opAssigned (opOf w) = false) : x.refusal e w v = ⟨1, w, if isWide (opOf w) then v else 0⟩ := by
  simp [EngState.refusal, Nat.not_le.2 hpc, hop]

theorem EngState.refusal_illegal {x : EngState} {e : Engine} {w : Word} (v : Word) (hpc : x.pc < 8192)
    (htag : x.tags.contains x.pc = false) (hop : opAssigned (opOf w) = true) (hleg : opLegal (opOf w) e = false) :
    x.refusal e w v = ⟨2, w, 0⟩ := by
  simp only [EngState.refusal, Nat.not_le.2 hpc, htag, hop, hleg]
  rfl

theorem EngState.refusal_extension {x : EngState} {e : Engine} {w v : Word} (hpc : x.pc < 8192)
    (htag : x.tags.contains x.pc = false) (hop : opAssigned (opOf w) = true) (hleg : opLegal (opOf w) e = true)
    (hext : isWide (opOf w) = true ∧ v.extractLsb' 28 4 ≠ 0) : x.refusal e w v = ⟨3, w, v⟩ := by
  have hrow : (isWide (opOf w) && v.extractLsb' 28 4 != 0) = true := by
    rw [hext.1, Bool.true_and, bne_iff_ne]; exact hext.2
  simp only [EngState.refusal, Nat.not_le.2 hpc, htag, hop, hleg, hrow]
  rfl

theorem EngState.refusal_reserved {x : EngState} {e : Engine} {w v : Word} (hpc : x.pc < 8192)
    (htag : x.tags.contains x.pc = false) (hop : opAssigned (opOf w) = true) (hleg : opLegal (opOf w) e = true)
    (hext : isWide (opOf w) = false ∨ v.extractLsb' 28 4 = 0) :
    x.refusal e w v = ⟨1, w, if isWide (opOf w) then v else 0⟩ := by
  have hrow : (isWide (opOf w) && v.extractLsb' 28 4 != 0) = false := by
    obtain h | h := hext
    · rw [h, Bool.false_and]
    · rw [h, bne_self_eq_false, Bool.and_false]
  simp only [EngState.refusal, Nat.not_le.2 hpc, htag, hop, hleg, hrow]
  rfl

/-- The row ILLOP raises the fault of the first row that holds. -/
theorem exec_illop {w v : Word} {s : State} {t : Trap} (h : s.eng.refusal s.cur w v = t) :
    exec (.illop w v) s = .next (s.raise t) := by
  subst h
  rfl

/-! ### Instructions in a foreign engine (R64, R69 row 3) -/

/-- An opcode of one engine alone is illegal in the others. -/
theorem opLegal_foreign {op : BitVec 7} {own e : Engine} (hown : ∀ f, opLegal op f = decide (f = own)) (h : e ≠ own) :
    opLegal op e = false := by
  rw [hown e]
  exact decide_eq_false h

/-- An instruction that is illegal in the moving engine raises ILLENG with its first word. -/
theorem exec_illegal {i : Instr} {p : Issue} {s : State} {w : Word} {ws : List Word} (hp : exec i s = p.run s)
    (hw : encode p.i = w :: ws) (hs : s.eng.started = false) (hleg : opLegal p.op s.cur = false) :
    exec i s = .next (s.raise ⟨2, w, 0⟩) := by
  rw [hp, Issue.run, Issue.step_illegal hs hleg, hw]
  rfl

/-- The two low fields of `st.sp` with offset 0 are 11 zero bits. -/
theorem zeros_join {n : Nat} (h : BitVec n) : h ++ (0 : BitVec 2) ++ (0 : BitVec 9) = h ++ (0 : BitVec 11) := by
  rw [BitVec.append_assoc]
  rfl

/-- Settles O22: row by row, and for each engine's own instruction the engine check at issue. -/
theorem refusedWords : Obligations.RefusedWords := by
  unfold Obligations.RefusedWords
  refine ⟨fun s w x => ⟨fun hpc => ?_, fun hpc htag => ?_, fun hpc htag => ⟨fun hop => ?_, fun hop => ?_⟩⟩,
    fun s cu d a b hs => ⟨fun hcur => ?_, fun hcur => ?_, fun hcur => ?_, fun hcur => ?_⟩⟩
  · exact exec_illop (EngState.refusal_past _ w x hpc)
  · exact exec_illop (EngState.refusal_tagged _ w x hpc htag)
  · exact exec_illop (EngState.refusal_unassigned _ x hpc ((opAssigned_eq_false_iff _).2 hop))
  · have assigned : opAssigned (opOf w) = true := by
      rw [← Bool.not_eq_false, opAssigned_eq_false_iff]
      exact hop
    exact ⟨fun hleg => exec_illop (EngState.refusal_illegal x hpc htag assigned hleg), fun hleg =>
      ⟨fun wide top => exec_illop (EngState.refusal_extension hpc htag assigned hleg ⟨wide, top⟩),
        fun hext => exec_illop (EngState.refusal_reserved hpc htag assigned hleg hext)⟩⟩
  · exact exec_illegal rfl rfl hs (opLegal_foreign (fun f => by cases f <;> rfl) hcur)
  · exact exec_illegal rfl rfl hs (opLegal_foreign (fun f => by cases f <;> rfl) hcur)
  · exact exec_illegal rfl rfl hs (opLegal_foreign (fun f => by cases f <;> rfl) hcur)
  · rw [← zeros_join]
    exact exec_illegal rfl rfl hs (opLegal_foreign (fun f => by cases f <;> rfl) hcur)

end Sys2Proof.Machine
end

section
/-! PROOF. Vector sources (R52, R53, R149, R295): what a source field reads and takes, what it waits for, and the fault of a popped
entry's marks. -/

namespace Sys2Proof.Machine

open Sys2Proof Sys2Proof.Safety

/-! ### Load queues -/

theorem vset_vset {α : Type} {n : Nat} (v : Vector α n) (i : Nat) (x y : α) : vset (vset v i x) i y = vset v i y := by
  simp [vset]

theorem Live.loadQ_setLoadQ (l : Live) {q : Nat} (es : List LEntry) (hq : q < 4) : (l.setLoadQ q es).loadQ q = es := by
  simp [Live.loadQ, Live.setLoadQ, vget_vset, hq]

theorem Live.setLoadQ_setLoadQ (l : Live) (q : Nat) (es fs : List LEntry) :
    (l.setLoadQ q es).setLoadQ q fs = l.setLoadQ q fs := by
  simp [Live.setLoadQ, vset_vset]

/-- A queue field names one of four queues (R52). -/
theorem queueOf_lt (f : BitVec 5) : f.toNat - 28 < 4 := by omega

/-! ### What source fields read and take -/

theorem isQueue_of_le {f : BitVec 5} (h : 28 ≤ f.toNat) : isQueue f = true := decide_eq_true h

theorem isQueue_of_lt {f : BitVec 5} (h : f.toNat < 28) : isQueue f = false := decide_eq_false (Nat.not_le.2 h)

theorem Live.pushDrain_none {l : Live} (h : l.drains = []) : l.pushDrain = l := by
  rw [Live.pushDrain, h]

theorem Live.takeAll_nil {l : Live} (h : l.drains = []) : l.takeAll [] = ([], none, l) := by
  rw [Live.takeAll, Live.pushDrain_none h]

/-- A register field reads the register and takes nothing. -/
theorem Live.takeAll_register {l m : Live} {f : BitVec 5} {fs : List (BitVec 5)} {vs : List VReg} {t : Option Trap}
    (hf : f.toNat < 28) (h : l.takeAll fs = (vs, t, m)) : l.takeAll (f :: fs) = (l.vreg f :: vs, t, m) := by
  have hv : l.takeV f = (none, l.vreg f, l) := by rw [Live.takeV, isQueue_of_lt hf]; rfl
  simp [Live.takeAll, hv, h]

/-- A queue field pops the head of its load queue; its marks come before those of the entries after it. -/
theorem Live.takeAll_queue {l m : Live} {f : BitVec 5} {fs : List (BitVec 5)} {vs : List VReg} {t : Option Trap} {e : LEntry}
    {es : List LEntry} (hf : 28 ≤ f.toNat) (hq : l.loadQ (f.toNat - 28) = e :: es)
    (h : (l.setLoadQ (f.toNat - 28) es).takeAll fs = (vs, t, m)) : l.takeAll (f :: fs) = (e.val :: vs, e.trap.or t, m) := by
  have hv : l.takeV f = (some e, e.val, l.setLoadQ (f.toNat - 28) es) := by
    simp only [Live.takeV, isQueue_of_le hf, queueOf, hq, if_true]
  simp only [Live.takeAll, hv, h, Option.bind_some]
  cases e.trap <;> rfl

/-! ### What source and destination fields wait for -/

theorem Live.popWait_zero (l : Live) (q : Nat) : l.popWait q 0 = none := if_pos (Nat.zero_le _)

/-- Sources wait for nothing where each queue has as many filled entries at its head as they take. -/
theorem Live.srcWait_none {l : Live} {fs : List (BitVec 5)}
    (h : ∀ q, (fs.filter fun f => isQueue f && queueOf f == q).length ≤ poppable (l.loadQ q)) : l.srcWait fs = none := by
  rw [Live.srcWait, List.findSome?_eq_none_iff]
  exact fun q _ => if_pos (h q)

/-- Register fields wait for nothing. -/
theorem Live.srcWait_registers {l : Live} {fs : List (BitVec 5)} (h : ∀ f ∈ fs, f.toNat < 28) : l.srcWait fs = none := by
  refine Live.srcWait_none fun q => ?_
  have hnil : (fs.filter fun f => isQueue f && queueOf f == q) = [] :=
    List.filter_eq_nil_iff.2 fun f hf => by simp [isQueue_of_lt (h f hf)]
  rw [hnil]
  exact Nat.zero_le _

/-- Fields that name no queue but q wait for nothing where q has an entry for each of them. -/
theorem Live.srcWait_filled {l : Live} {fs : List (BitVec 5)} {q : Nat} (hfs : ∀ f ∈ fs, isQueue f = true → queueOf f = q)
    (h : fs.length ≤ poppable (l.loadQ q)) : l.srcWait fs = none := by
  refine Live.srcWait_none fun k => ?_
  by_cases hk : q = k
  · subst hk
    exact Nat.le_trans (List.length_filter_le _ fs) h
  · have hnil : (fs.filter fun f => isQueue f && queueOf f == k) = [] :=
      List.filter_eq_nil_iff.2 fun f hf hc => by
        obtain ⟨hque, hnum⟩ := Bool.and_eq_true_iff.1 hc
        exact hk ((hfs f hf hque).symm.trans (beq_iff_eq.1 hnum))
    rw [hnil]
    exact Nat.zero_le _

/-- One queue field waits for its own queue. -/
theorem Live.srcWait_queue (l : Live) {f : BitVec 5} (hf : 28 ≤ f.toNat) : l.srcWait [f] = l.popWait (f.toNat - 28) 1 := by
  have hcount (q : Nat) : ([f].filter fun f => isQueue f && queueOf f == q).length = if f.toNat - 28 = q then 1 else 0 := by
    rw [List.filter_cons, isQueue_of_le hf, Bool.true_and, queueOf]
    by_cases hq : f.toNat - 28 = q
    · simp [hq]
    · simp [hq]
  have hlt := queueOf_lt f
  simp only [Live.srcWait, hcount]
  generalize f.toNat - 28 = k at hlt
  obtain rfl | rfl | rfl | rfl : k = 0 ∨ k = 1 ∨ k = 2 ∨ k = 3 := by omega
  -- The other three queues give nothing to wait for, so what is left is the field's own wait, looked at and returned.
  all_goals simp [List.range_succ, List.findSome?_cons, Live.popWait_zero]
  all_goals cases l.popWait _ 1 <;> rfl

theorem Live.vecWait_sources {l : Live} {fs : List (BitVec 5)} : l.vecWait fs [] = l.srcWait fs := by
  unfold Live.vecWait
  cases l.srcWait fs <;> rfl

theorem Live.vecWait_destination (l : Live) (g : BitVec 5) : l.vecWait [] [g] = l.dstWait g := by
  have hsrc : l.srcWait [] = none := Live.srcWait_none fun q => Nat.zero_le _
  rw [Live.vecWait, hsrc]
  simp

theorem Live.popWait_one_iff {l : Live} {q : Nat} : l.popWait q 1 = some (.lqEntry q 1) ↔ l.loadQ q = [] := by
  unfold Live.popWait
  cases hq : l.loadQ q with
  | nil => simp [poppable]
  | cons e es =>
    cases he : e.filled with
    | true => simp [poppable, he]
    | false => simp [poppable, he]

theorem Live.dstWait_register {l : Live} {g : BitVec 5} (h : g.toNat < 28) : l.dstWait g = none := by
  rw [Live.dstWait, isQueue_of_lt h]
  rfl

theorem Live.dstWait_queue_iff {l : Live} {g : BitVec 5} (h : 28 ≤ g.toNat) :
    l.dstWait g = some (.sqRoom (g.toNat - 28)) ↔ 8 ≤ (l.storeQ (g.toNat - 28)).length := by
  simp [Live.dstWait, isQueue_of_le h, queueOf, Config.queueDepth]
  exact decide_eq_true_iff

/-! ### The start of an instruction leaves queues and issued instructions alone -/

theorem opened_lq (s : State) (cu : Cue) : (opened s cu).core.live.lq = s.core.live.lq := by
  simp only [opened, State.begun, State.modLive_live]
  split
  · rw [if_neg (by decide), Live.countSlow_eq]
    simp
  · simp

theorem opened_drains (s : State) (cu : Cue) : (opened s cu).core.live.drains = s.core.live.drains := by
  simp only [opened, State.begun, State.modLive_live]
  split
  · rw [if_neg (by decide), Live.countSlow_eq]
    simp
  · simp

theorem opened_retire (s : State) (cu : Cue) : (opened s cu).eng.retire = s.eng.retire := by
  simp only [opened, State.begun, State.eng, State.modLive, State.setLive_live, State.setLive_cur]
  split
  · rw [if_neg (by decide), Live.countSlow_eq]
    rename_i h
    simp [h, Live.eng, Live.modEng, Live.setEng]
  · simp [Live.modEng]

/-! ### Precise faults at issue (R194) -/

/-- A fault is taken once every earlier instruction of the engine has completed. -/
theorem State.raiseFrom_taken {s : State} (u : State) (t : Trap) (h : ∀ r ∈ s.eng.retire, r.done = true) :
    s.raiseFrom u t = u.take s.cur t := by
  have hmay : s.mayTake = true := by
    rw [State.mayTake, List.all_eq_true]
    intro r hr
    rw [h r hr, Bool.true_or]
  rw [State.raiseFrom, if_pos hmay]

/-- In X a fault waits for the earlier instructions, and what the instruction took is not gone. -/
theorem State.raiseFrom_waits {s : State} (u : State) (t : Trap) (hx : s.cur = .x) {r : Retire} (hr : r ∈ s.eng.retire)
    (hd : r.done = false) : s.raiseFrom u t = s.stall .external := by
  have hmay : s.mayTake = false := by
    rw [State.mayTake, List.all_eq_false]
    exact ⟨r, hr, by simp [hd, hx, Live.starved]⟩
  have hw : s.earlierWait = .external := by simp [State.earlierWait, hx]
  rw [State.raiseFrom, hmay, hw]
  rfl

/-- An instruction that takes and pushes the tokens of its cue nibble alone, that can start and whose body faults. -/
theorem Issue.run_fault {p : Issue} {s u : State} {t : Trap} (h : Ready s p.op p.cu 0 0 p.uses) (ht : p.takes = (0, 0))
    (hf : p.flush = false) (ha : p.alm s = none) (hc : p.chk s = none) (hs : p.slot = true)
    (hb : p.body (opened s p.cu) = .fault u t) : p.run s = .next ((opened s p.cu).raiseFrom u t) := by
  have h1 : Ready s p.op p.cu p.takes.1 p.takes.2 p.uses := by rw [ht]; exact h
  have h2 : p.start s = opened s p.cu := by simp [Issue.start, Issue.np, Issue.nn, ht, hf, opened]
  rw [Issue.run, Issue.step_ready h1 hc ha (.inl hs), h2, hb]
  rfl

/-- A vector instruction whose popped sources carry a mark faults with it, and what it popped stays popped (R295). -/
theorem vecOp_marked {i : Instr} {cu : Cue} {op : BitVec 7} {uses srcs dsts : List (BitVec 5)} {alm : State → Option Trap}
    {f : List VReg → State → State} {s : State} {vs : List VReg} {t : Trap} {m : Live} (h : Ready s op cu 0 0 uses)
    (ha : alm s = none) (hw : (opened s cu).core.live.vecWait srcs dsts = none)
    (ht : (opened s cu).core.live.takeAll srcs = (vs, some t, m)) :
    vecOp i cu op uses alm srcs dsts f s = .next ((opened s cu).raiseFrom ((opened s cu).setLive m) t) := by
  refine Issue.run_fault (by exact h) rfl rfl ha rfl rfl ?_
  simp only [hw, ht]

/-! ### The marks of an entry, in the order POISON, MMX, XLATE (R295) -/

/-- The two words of a marked address. -/
def markTrap (code : Nat) (a : DWord) : Trap := ⟨code, a.extractLsb' 0 32, a.extractLsb' 32 32⟩

theorem markTrap_eq (code : Nat) (a : DWord) : (⟨code, a.setWidth 32, (a >>> 32).setWidth 32⟩ : Trap) = markTrap code a := by
  have hlo : a.setWidth 32 = a.extractLsb' 0 32 := by ext; simp
  have hhi : (a >>> 32).setWidth 32 = a.extractLsb' 32 32 := by ext; simp
  rw [markTrap, hlo, hhi]

theorem LEntry.trap_poison {e : LEntry} {a : DWord} (h : e.poison = some a) : e.trap = some (markTrap 0x15 a) := by
  simp only [LEntry.trap, h, markTrap_eq]

theorem LEntry.trap_mmx {e : LEntry} {a : DWord} (hp : e.poison = none) (h : e.mmx = some a) :
    e.trap = some (markTrap 0x14 a) := by
  simp only [LEntry.trap, hp, h, markTrap_eq]

theorem LEntry.trap_xlate {e : LEntry} {a : DWord} (hp : e.poison = none) (hm : e.mmx = none) (h : e.refused = some a) :
    e.trap = some (markTrap 0x10 a) := by
  simp only [LEntry.trap, hp, hm, h, markTrap_eq]

/-- `vmov` from a queue whose filled head carries a mark: it has popped the head, and its fault is raised. -/
theorem vmov_marked {s : State} {cu : Cue} {d f : BitVec 5} {t p : BitVec 3} {ty : VTy} {e : LEntry} {es : List LEntry} {tr : Trap}
    (hty : Typed s t allTypes ty) (h : Ready s 0x26 cu 0 0 []) (hf : 28 ≤ f.toNat) (hd : d.toNat < 28)
    (hdr : s.core.live.drains = []) (hq : s.core.live.loadQ (f.toNat - 28) = e :: es) (he : e.filled = true)
    (htr : e.trap = some tr) :
    exec (.vmov cu d f t p) s = .next ((opened s cu).raiseFrom
      ((opened s cu).setLive ((opened s cu).core.live.setLoadQ (f.toNat - 28) es)) tr) := by
  have hq' : (opened s cu).core.live.loadQ (f.toNat - 28) = e :: es := by rw [Live.loadQ, opened_lq]; exact hq
  have hdr' : ((opened s cu).core.live.setLoadQ (f.toNat - 28) es).drains = [] := by
    rw [Live.setLoadQ_drains, opened_drains]; exact hdr
  have hwait : (opened s cu).core.live.vecWait [f] [d] = none := by
    have hsrc : (opened s cu).core.live.srcWait [f] = none := by
      rw [Live.srcWait_queue _ hf]
      exact if_pos (by simp [hq', poppable, he])
    simp [Live.vecWait, hsrc, Live.dstWait_register hd]
  have htake := Live.takeAll_queue hf hq' (Live.takeAll_nil hdr')
  rw [htr] at htake
  have hexec : exec (.vmov cu d f t p) s = execVmov cu d f t p s := rfl
  rw [hexec, execVmov]
  exact vecOp_marked h (typeCheck_ok hty) hwait htake

/-! ### Two fields (R53) -/

/-- What a pair of fields does where the queue that they name has two filled entries at its head, with no marks. -/
theorem takeAll_two_entries {l : Live} {f : BitVec 5} {e1 e2 : LEntry} {es : List LEntry} (hdr : l.drains = [])
    (hf : 28 ≤ f.toNat) (hq : l.loadQ (f.toNat - 28) = e1 :: e2 :: es) (ht1 : e1.trap = none) (ht2 : e2.trap = none) :
    l.takeAll [f] = ([e1.val], none, l.setLoadQ (f.toNat - 28) (e2 :: es)) ∧
      l.takeAll [f, f] = ([e1.val, e2.val], none, l.setLoadQ (f.toNat - 28) es) := by
  have hq2 : (l.setLoadQ (f.toNat - 28) (e2 :: es)).loadQ (f.toNat - 28) = e2 :: es := Live.loadQ_setLoadQ l _ (queueOf_lt f)
  have hone := Live.takeAll_queue hf hq (Live.takeAll_nil hdr)
  have htwo := Live.takeAll_queue hf hq (Live.takeAll_queue hf hq2 (Live.takeAll_nil hdr))
  rw [Live.setLoadQ_setLoadQ, ht2] at htwo
  rw [ht1] at hone htwo
  exact ⟨hone, htwo⟩

/-- Settles O26: the values and the waits of source fields, then the fault of each mark. -/
theorem vectorSources : Obligations.VectorSources := by
  unfold Obligations.VectorSources
  refine ⟨fun l f g e1 e2 es hdr => ⟨fun hf hg => ?_, fun hf hq he1 he2 ht1 ht2 => ?_, fun hf => ?_, fun hg => ?_, fun hg => ?_⟩,
    fun s cu d f t p ty e es hty h hf hd hdr hq he => ?_⟩
  · have hregs : ∀ r ∈ [f, g], r.toNat < 28 := by simp [hf, hg]
    rw [Live.vecWait_sources]
    exact ⟨Live.srcWait_registers hregs, Live.takeAll_register hf (Live.takeAll_register hg (Live.takeAll_nil hdr))⟩
  · obtain ⟨hone, htwo⟩ := takeAll_two_entries hdr hf hq ht1 ht2
    have hpop : 2 ≤ poppable (l.loadQ (f.toNat - 28)) := by simp [hq, poppable, he1, he2]
    simp only [Live.vecWait_sources]
    refine ⟨⟨Live.srcWait_filled ?_ (Nat.le_of_succ_le hpop), hone⟩, ⟨Live.srcWait_filled ?_ hpop, htwo⟩,
      fun hg => ⟨Live.srcWait_filled ?_ hpop, Live.takeAll_register hg hone⟩⟩
    · simp [queueOf]
    · simp [queueOf]
    · simp [queueOf, isQueue_of_lt hg]
  · rw [Live.vecWait_sources, Live.srcWait_queue l hf]
    exact Live.popWait_one_iff.symm
  · rw [Live.vecWait_destination]
    exact (Live.dstWait_queue_iff hg).symm
  · rw [Live.vecWait_destination]
    exact Live.dstWait_register hg
  · have hx : s.cur = .x := by
      obtain ⟨-, hleg, -⟩ := h
      revert hleg
      cases s.cur <;> decide
    have hmark {tr : Trap} (htr : e.trap = some tr) := vmov_marked (p := p) hty h hf hd hdr hq he htr
    have hfault (code : Nat) (a : DWord) (htr : e.trap = some (markTrap code a)) :=
      And.intro
        (fun hdone : ∀ r ∈ s.eng.retire, r.done = true =>
          (hmark htr).trans (congrArg _ (State.raiseFrom_taken _ _ (by rw [opened_retire]; exact hdone))))
        (fun (r : Retire) (hr : r ∈ s.eng.retire) (hd : r.done = false) =>
          (hmark htr).trans (congrArg _ (State.raiseFrom_waits _ _ hx (by rw [opened_retire]; exact hr) hd)))
    exact ⟨fun a hp => hfault _ a (LEntry.trap_poison hp), fun a hp hm => hfault _ a (LEntry.trap_mmx hp hm),
      fun a hp hm hr => hfault _ a (LEntry.trap_xlate hp hm hr)⟩

end Sys2Proof.Machine
end

section
/-! PROOF. One step: which turn or event it takes, that it runs `exec` of the instruction its engine decodes, and that it goes on
wherever there is power or an agenda. -/

namespace Sys2Proof.Machine

open Sys2Proof Sys2Proof.Safety

/-! ### What an engine fetches (R47, R62, R63, R69) -/

/-- Words below the end of instruction memory, with no tag, are fetched as the instruction that they decode to. -/
theorem EngState.fetched_of_decode {x : EngState} {i : Instr} (hpc : x.pc < 8192) (htag : x.pc ∉ x.tags)
    (hdec : decode (x.word x.pc) (x.word (x.pc + 1)) = .ok i) : x.fetched = i := by
  have hrow : ¬(8192 ≤ x.pc ∨ x.tags.contains x.pc = true) := by simp [hpc, htag]
  rw [EngState.fetched, if_neg hrow, hdec]

/-- Words past the end of instruction memory, a tagged word, and words that decode to no instruction are fetched as the row ILLOP. -/
theorem EngState.fetched_of_refused {x : EngState}
    (h : 8192 ≤ x.pc ∨ x.pc ∈ x.tags ∨ ∃ r, decode (x.word x.pc) (x.word (x.pc + 1)) = .error r) :
    x.fetched = .illop (x.word x.pc) (x.word (x.pc + 1)) := by
  unfold EngState.fetched
  by_cases hrow : 8192 ≤ x.pc ∨ x.tags.contains x.pc = true
  · rw [if_pos hrow]
  · obtain ⟨hpc, htag⟩ := not_or.1 hrow
    have hmem : x.pc ∉ x.tags := by simpa using htag
    obtain ⟨r, hr⟩ := (h.resolve_left hpc).resolve_left hmem
    rw [if_neg hrow, hr]

/-! ### The outcomes of the parts of a step -/

/-- Every arm of `exec` answers a next state: an instruction by its try at issue, an event by its effect. -/
theorem exec_next (i : Instr) (s : State) : ∃ t, exec i s = .next t := by
  cases i <;> exact ⟨_, rfl⟩

theorem andThen_next {r : Host.Outcome State Fault Refusal} {g : State → Host.Outcome State Fault Refusal}
    (hr : ∃ t, r = .next t) (hg : ∀ s, ∃ t, g s = .next t) : ∃ t, andThen r g = .next t := by
  obtain ⟨t, rfl⟩ := hr
  exact hg t

theorem decideOf_next (e : Engine) (s : State) : ∃ t, decideOf e s = .next t := by
  unfold decideOf
  split
  · exact exec_next _ s
  · exact ⟨s, rfl⟩

theorem decisions_next (s : State) : ∃ t, decisions s = .next t :=
  andThen_next (decideOf_next .a s) fun s =>
    andThen_next (decideOf_next .x s) fun s => andThen_next (decideOf_next .m s) fun s => decideOf_next .b s

theorem runEngine_next (e : Engine) (s : State) : ∃ t, runEngine e s = .next t := by
  unfold runEngine
  dsimp only
  split
  · exact andThen_next (exec_next _ _) decisions_next
  · exact ⟨_, rfl⟩

theorem runEvent_next (i : Instr) (s : State) : ∃ t, runEvent i s = .next t := by
  unfold runEvent
  split
  · split
    · exact ⟨_, rfl⟩
    · exact andThen_next (exec_next _ _) decisions_next
  · exact ⟨s, rfl⟩

/-- With no decision due, the decisions leave the state (R141). -/
theorem decisions_none {s : State} (h : ∀ e, (s.core.live.eng e).backEdge = none) : decisions s = .next s := by
  have hone (e : Engine) : decideOf e s = .next s := by rw [decideOf, h e]
  simp only [decisions, hone, andThen]

/-! ### The turn of an engine -/

/-- The state in which engine e tries its instruction: it is the one that moves, and its waiting pushes have been retried. -/
def State.moved (s : State) (e : Engine) : State := ({ s with cur := e } : State).setLive (s.core.live.settle e)

/-- An engine that may not issue only retries its waiting pushes. -/
theorem runEngine_idle {e : Engine} {s : State} (h : (s.moved e).canIssue e = false) :
    runEngine e s = .next (s.moved e) := by
  have hnot : ¬((s.moved e).power = .ready ∧ (s.moved e).canIssue e = true) := by simp [h]
  exact if_neg hnot

/-- An engine that may issue runs what it fetches, and then the decisions that are due are made. -/
theorem runEngine_issues {e : Engine} {s : State} {i : Instr} (hp : s.power = .ready) (h : (s.moved e).canIssue e = true)
    (hi : (s.moved e).eng.fetched = i) : runEngine e s = andThen (exec i (s.moved e).snapshot) decisions := by
  subst hi
  exact if_pos ⟨hp, h⟩

/-! ### An event -/

theorem State.focus_power (s : State) (n : Nat) : (s.focus n).power = s.power := by
  unfold State.focus
  split
  · rfl
  · rfl

theorem State.focus_sm (s : State) (n : Nat) : (s.focus n).sm = s.sm := by
  unfold State.focus
  split
  · rfl
  · rfl

/-- A module that is ready takes every event. -/
theorem State.powered_of_ready {s : State} (i : Instr) (h : s.power = .ready) : s.powered i = true := by
  simp [State.powered, h]

/-- An event that no capability fault refuses happens by `exec`. -/
theorem runEvent_happens {i : Instr} {s : State} (hp : s.power = .ready)
    (h : Instr.parsed i = false ∨ s.sm.refused = none) : runEvent i s = andThen (exec i s.snapshot) decisions := by
  have hnone : (if Instr.parsed i then s.sm.refused else none) = none := by
    obtain h | h := h
    · simp [h]
    · simp [h]
  rw [runEvent, if_pos (State.powered_of_ready i hp), hnone]

/-- A command of the stage manager that a capability fault has refused only gives its status (R399). -/
theorem runEvent_refused {i : Instr} {s : State} {k : Nat} (hp : s.power = .ready) (h : Instr.parsed i = true)
    (hk : s.sm.refused = some k) : runEvent i s = .next (s.refuseParsed k) := by
  rw [runEvent, if_pos (State.powered_of_ready i hp), if_pos h, hk]

/-- A module that is not ready takes no event but those that need no power. -/
theorem runEvent_unpowered {i : Instr} {s : State} (hp : s.power ≠ .ready) (h : Instr.powers i = false) :
    runEvent i s = .next s := by
  have hoff : s.powered i = false := by simp [State.powered, hp, h]
  rw [runEvent, hoff]
  rfl

/-! ### Which turn or event a step takes -/

theorem step_run {s : State} {c : Nat} {e : Engine} {rest : List Move} (h : s.agenda = .run c e :: rest) :
    step s = runEngine e (({ s with agenda := rest } : State).focus c) := by
  rw [step, h]

theorem step_event {s : State} {c : Nat} {i : Instr} {rest : List Move} (h : s.agenda = .event c i :: rest) :
    step s = runEvent i (({ s with agenda := rest } : State).focus c) := by
  rw [step, h]

theorem step_engine {s : State} {e : Engine} (hp : s.power = .ready) (ha : s.agenda = []) (ht : s.turn = .eng e) :
    step s = runEngine e { s with turn := Turn.after (.eng e) } := by
  simp only [step, ha, hp, ht]

theorem step_uncore_event {s : State} {i : Instr} (hp : s.power = .ready) (ha : s.agenda = []) (ht : s.turn = .uncore)
    (hn : s.nextEvent = some i) : step s = runEvent i { s with turn := .eng .a } := by
  simp only [step, ha, hp, ht, hn]
  rfl

theorem step_uncore_idle {s : State} (hp : s.power = .ready) (ha : s.agenda = []) (ht : s.turn = .uncore)
    (hn : s.nextEvent = none) : step s = .next { s with turn := .eng .a } := by
  simp only [step, ha, hp, ht, hn]
  rfl

theorem step_stopped {s : State} (hp : s.power ≠ .ready) (ha : s.agenda = []) : step s = .fault .moduleStopped := by
  simp only [step, ha]

/-- A step goes on wherever the agenda holds a move or the module is ready. -/
theorem step_goesOn {s : State} (h : s.agenda ≠ [] ∨ s.power = .ready) : goesOn s := by
  unfold goesOn
  cases ha : s.agenda with
  | cons m rest =>
    cases m with
    | run c e => rw [step_run ha]; exact runEngine_next _ _
    | event c i => rw [step_event ha]; exact runEvent_next _ _
  | nil =>
    have hp := h.resolve_left (· ha)
    cases ht : s.turn with
    | eng e => rw [step_engine hp ha ht]; exact runEngine_next _ _
    | uncore =>
      cases hn : s.nextEvent with
      | some i => rw [step_uncore_event hp ha ht hn]; exact runEvent_next _ _
      | none => exact ⟨_, step_uncore_idle hp ha ht hn⟩

/-- Settles O58: by the branches of `step`, of an engine's turn and of an event, with what the engine fetches. -/
theorem stepRunsDecoded : Obligations.StepRunsDecoded := by
  unfold Obligations.StepRunsDecoded
  refine ⟨fun s e hp ha ht => ?_, fun s c i rest ha => ⟨fun hp => ⟨fun h => ?_, fun k hi hk => ?_⟩, fun hp hi => ?_⟩,
    fun s => decisions_none, fun s i hp ha ht => ⟨fun hn hi => ?_, fun hn => ?_⟩, fun s c e rest => step_run,
    fun s => ⟨fun h => step_stopped h.2 h.1, step_goesOn⟩⟩
  · rw [step_engine hp ha ht]
    exact ⟨fun hcan => runEngine_idle hcan, fun hcan i =>
      ⟨fun hpc htag hdec => runEngine_issues hp hcan (EngState.fetched_of_decode hpc htag hdec),
        fun hrow => runEngine_issues hp hcan (EngState.fetched_of_refused hrow)⟩⟩
  · rw [step_event ha]
    exact runEvent_happens ((State.focus_power _ c).trans hp) (h.imp_right fun hr => by rw [State.focus_sm]; exact hr)
  · rw [step_event ha]
    exact runEvent_refused ((State.focus_power _ c).trans hp) hi (by rw [State.focus_sm]; exact hk)
  · rw [step_event ha]
    exact runEvent_unpowered (by rw [State.focus_power]; exact hp) hi
  · rw [step_uncore_event hp ha ht hn]
    exact runEvent_happens hp (.inl hi)
  · exact step_uncore_idle hp ha ht hn

end Sys2Proof.Machine
end
